-- ==== Sys2Proof/Word.lean ====
section
/-!
DEFINITION. Word.lean: the byte, and the finite table by which the model holds arrays of registers (spec/00_scope.md R10).
-/
namespace Sys2Proof

/-- One byte. -/
abbrev Byte := BitVec 8

/-- An array of like things, by number: an entry that is not listed holds the value the field's description gives. -/
abbrev Tbl (α : Type) := List (Nat × α)

end Sys2Proof
end

