-- ==== Sys2Proof/Syntax.lean ====
section
/-!
DEFINITION. Syntax.lean: the commands of the module, one constructor for each row of spec/opcode_table.json, and the types of
their operands. An operand names what the world outside the module does; everything the module decides itself is computed.
-/
namespace Sys2Proof

/-- A PCIe function: the physical function, or the virtual function of partition p (VF p+1; spec/09_addressing.md R198). -/
inductive Fn where
  | pf
  | vf (p : Fin 8)
deriving DecidableEq, Repr

/-- A queue: queue q of partition p, or Mm of the management domain (spec/11_queues_packets.md R239). -/
inductive QRef where
  | part (p : Fin 8) (q : Fin 64)
  | mgmt (m : Fin 16)
deriving DecidableEq, Repr

/-- The end of the barrier that sends: the Facility Controller or the Supervisor (spec/02_module_barrier.md R61). -/
inductive Side where
  | facility
  | host
deriving DecidableEq, Repr

/-- The assembly variants of Table 01-2 (spec/01_composition.md R19). -/
inductive Variant where
  | v51
  | v42
  | v33
  | v41p
deriving DecidableEq, Repr

/-- A barrier frame as its receiver sees it (spec/02_module_barrier.md R60, R61). -/
structure Frame where
  /-- TYPE. -/
  typ : Byte := 0
  /-- SEQ. -/
  seq : Byte := 0
  /-- PAYLOAD, 12 bytes. -/
  payload : List Byte := []
  /-- CRC as received. -/
  crc : BitVec 16 := 0
  /-- An idle of more than 20 bit times was seen inside the frame. -/
  gap : Bool := false
deriving DecidableEq, Repr, Inhabited

/-- A CAN frame on the rack bus (spec/02_module_barrier.md R57, R58). -/
structure CanFrame where
  /-- Identifier. -/
  id : Nat := 0
  /-- Extended identifier, classic frame or remote frame: ignored by the FC. -/
  foreign : Bool := false
  /-- Data field. -/
  data : List Byte := []
deriving DecidableEq, Repr, Inhabited

/-- What the facility sensors read (spec/02_module_barrier.md R63). -/
structure FacReading where
  /-- Input voltage, 10 mV units. -/
  vin : BitVec 16 := 5400
  /-- Input current, 10 mA units. -/
  iin : BitVec 16 := 0
  /-- Coolant inlet, 0.1 degree units, signed. -/
  inlet : BitVec 16 := 0
  /-- Coolant outlet, 0.1 degree units, signed. -/
  outlet : BitVec 16 := 0
  /-- Coolant flow, 0.01 L/min. -/
  flow : BitVec 16 := 0
  /-- LEAK. -/
  leak : Bool := false
  /-- FLOW_LOW. -/
  flowLow : Bool := false
  /-- INLET_RANGE. -/
  inletRange : Bool := false
  /-- CAN_BUS_OFF. -/
  canOff : Bool := false
deriving DecidableEq, Repr, Inhabited

/-- How the partner die's negotiation went, as far as it got (spec/08_die_fabric.md R190). -/
inductive PartnerOutcome where
  | noSideband
  | block (bytes : List Byte) (trained : Bool)
  | unfinished
deriving DecidableEq, Repr

/-- The outcome of a phase of the power-up sequence: what failed in it (spec/03_power_to_ready.md R76, Table 03-2). The units a
deadline finds unfinished are listed with the failed ones, since Table 03-2 gives both the same consequence. A physical core is
named by site and physical number 0-67. -/
structure PhaseResult where
  /-- FUSE: sites whose die failed its fuse load; 5 is IOD0. -/
  fuseFail : List Nat := []
  /-- ZF: sites whose matched-set check did not finish. -/
  zfFail : List Nat := []
  /-- ZF: the partner negotiation, where a partner die is fitted. -/
  partner : PartnerOutcome := .unfinished
  /-- MEM: HBM sites that failed training. -/
  stackFail : List Nat := []
  /-- MEM: (HBM site, pseudo-channel) that failed training, BIST or DQ lane repair. -/
  pcFail : List (Nat × Nat) := []
  /-- MEM: failing data lanes (site, physical core, slice lane). -/
  lanes : List (Nat × Nat × Nat) := []
  /-- MEM: failing CA lanes (site, physical core, 14 x octant + CA lane). -/
  caLanes : List (Nat × Nat × Nat) := []
  /-- MEM: slices that did not finish (site, physical core). -/
  sliceFail : List (Nat × Nat) := []
  /-- MEM: compute stacks with a failed layer-wide resource. -/
  layerLost : List Nat := []
  /-- MEM: links whose loopback Assay failed. -/
  linkFail : List Nat := []
  /-- ASSAY: physical cores of which an engine failed. -/
  coreFail : List (Nat × Nat) := []
  /-- ASSAY: DMA complexes that failed. -/
  dmaFail : List Nat := []
  /-- ASSAY: KPMs that failed, by site. -/
  kpmFail : List Nat := []
deriving DecidableEq, Repr, Inhabited

/-- A PCIe configuration request (spec/03_power_to_ready.md R86, R446): a read, a write of Memory Space Enable, or a write of
SR-IOV VF Enable. -/
inductive CfgOp where
  | read
  | setMse (on : Bool)
  | setVfEnable (on : Bool)
deriving DecidableEq, Repr

/-- How an access outside the module's own memory fails (host window, partner window, remote node). -/
inductive ExtFail where
  | poison
  | unmapped
  | timeout
  | linkFail
  | ue
  | perm
  | notReady
  | thermalStop
  | corrected
deriving DecidableEq, Repr

/-- The order of a free-mode reduction (spec/05_cores_arrays.md R130): where the sequence is cut, and the order in which
partial results are added. -/
structure Plan where
  /-- Lengths of the consecutive runs that are accumulated separately. -/
  cuts : List Nat := []
  /-- Order in which the partial results are added, by index. -/
  order : List Nat := []
deriving DecidableEq, Repr, Inhabited

/-- What an ABORT finds (spec/11_queues_packets.md R255, R256): packets whose unit is not quiescent at once, and bytes of the
ranges a cancelled packet was writing that already hold new data. -/
structure AbortEnv where
  /-- Tags of the packets whose unit is not yet quiescent. -/
  stuck : List (QRef × BitVec 16) := []
  /-- Bytes that cancelled packets had already written, by DPA. -/
  mix : List (Nat × Byte) := []
deriving DecidableEq, Repr, Inhabited

/-- What a command meets in the world outside: bytes that owners of external memory have written since, stored bits that have
flipped, accesses to external memory that fail, and so on. The default is: nothing; DESIGN CHOICE in part: log 10. -/
structure Env where
  /-- Bytes of external memory (host window, partner window, other nodes) as their owners left them, by DPA. -/
  cells : List (Nat × Byte) := []
  /-- Stored bits that flipped before this command: word DPA and bit 0-271. -/
  upsets : List (Nat × Nat) := []
  /-- External ranges (first DPA, bytes) whose accesses fail. -/
  fails : List (Nat × Nat × ExtFail) := []
  /-- HBM words whose on-die ECC reports: word DPA, true = uncorrected, false = corrected. -/
  ondie : List (Nat × Bool) := []
  /-- Reduction orders for free mode, one per reduction, in order. -/
  plans : List Plan := []
  /-- Slot bytes the command moved over the ZF, beside the data slots of its stream trees, by counter index of group 2
  (spec/18_observability.md Table 18-1). -/
  zf : List (Nat × Nat) := []
  /-- RLC lines whose ECC is uncorrectable (DPA[55:8]). -/
  rlcBad : List Nat := []
  /-- Cached translations are used where they exist (spec/09_addressing.md R202: a changed PTE may or may not be seen). -/
  useTlb : Bool := false
  /-- Words of slices whose command failed its CA parity twice: the command's access finds them uncorrectable
  (spec/06_bonded_slices.md R153). -/
  ca : List Nat := []
  /-- What an ABORT that the command performs within itself finds. -/
  ab : AbortEnv := {}
  /-- By how many ticks a sample of a die's timebase replica differs from the replica (spec/04_self_timed_fabric.md R102). -/
  samp : List (Nat × Int) := []
deriving DecidableEq, Repr, Inhabited

/-- A write of Q_CTL that cancels packets: the value written, and what the ABORT within it finds (spec/11_queues_packets.md R240, R254). -/
structure QWrite where
  /-- Value written. -/
  v : BitVec 32 := 0
  /-- What the world outside did, and what the ABORT finds. -/
  e : Env := {}
deriving DecidableEq, Repr, Inhabited

/-- What a CA parity error turns out to be (spec/06_bonded_slices.md R153): whether the reissued command fails too, the words
it addressed, and the CA lanes the lane test finds failing. -/
structure CaFault where
  /-- The reissued command fails again. -/
  again : Bool := false
  /-- Words the command addressed, by DPA. -/
  words : List Nat := []
  /-- Failing CA lanes of the octant, 0-13. -/
  lanes : List Nat := []
deriving DecidableEq, Repr, Inhabited

/-- Contention for one reservation of a KPM operation (spec/10_ordering.md R233-R235). -/
structure Contend where
  /-- Conditional stores that other agents' writes made fail before one succeeds. -/
  fails : Nat := 0
  /-- The operation stops with its reservation still held (a command that shows the state between its accesses). -/
  hold : Bool := false
deriving DecidableEq, Repr, Inhabited

/-- What FEC found on the codeword of a flit (spec/16_fidom_links.md R344). -/
structure FecEnv where
  /-- The codeword was corrected. -/
  corrected : Bool := false
  /-- The codeword is uncorrectable. -/
  uncorr : Bool := false
deriving DecidableEq, Repr, Inhabited

/-- What one thermal scan reads (spec/17_thermal_escapement.md R366): readings in quarter degrees by sensor key
1000 x domain + 100 x class + index, none for no conversion; and the 12 V intermediate power in W. -/
structure ScanEnv where
  /-- Readings; a sensor that is not listed reads its last value again. -/
  readings : List (Nat × Option Int) := []
  /-- Package power in W. -/
  power : Nat := 0
deriving DecidableEq, Repr, Inhabited

/-- The path a lock command comes by: the LCK registers of the physical function, or the test port (spec/19_test_access_lock.md
R414). -/
inductive LockPath where
  | host
  | tap
deriving DecidableEq, Repr

/-- A message between modules (spec/16_fidom_links.md Table 16-2). -/
structure Msg where
  /-- OP, 1-5. -/
  op : Nat := 1
  /-- FLAGS bit 0. -/
  tracked : Bool := false
  /-- FLAGS bit 1. -/
  dup : Bool := false
  /-- HOPS. -/
  hops : Nat := 8
  /-- OWNER [3:0]. -/
  owner : Nat := 8
  /-- OWNER [7:4]: ATOMIC OP and SIZE. -/
  atom : Nat := 0
  /-- RID. -/
  rid : Nat := 0
  /-- XSEQ. -/
  xseq : Nat := 0
  /-- DST_NODE. -/
  dst : Nat := 0
  /-- SRC_NODE. -/
  src : Nat := 0
  /-- LEN. -/
  len : Nat := 0
  /-- SESSION. -/
  session : Nat := 0
  /-- STATUS. -/
  status : Nat := 0
  /-- ADDR. -/
  addr : Nat := 0
  /-- Data. -/
  data : List Byte := []
deriving DecidableEq, Repr, Inhabited

/-- The commands of the module, one for each row of spec/opcode_table.json, in its order; each cites the row's rule. -/
inductive Instr where
  /-- FC_HOUSEKEEPING_UP (R39). -/
  | fcHousekeepingUp
  /-- UV_RISING (R447). -/
  | uvRising
  /-- UV_FALLING (R40). -/
  | uvFalling
  /-- OV_RISING (R447). -/
  | ovRising
  /-- OV_FALLING (R40). -/
  | ovFalling
  /-- CONVERTER_REENABLE_DELAY (R75). -/
  | converterReenableDelay
  /-- RAIL_POWER_GOOD (R74). -/
  | railPowerGood
  /-- INPUT_BELOW_44V (R44). -/
  | inputBelow44V (below : Bool)
  /-- DERIVED_CAP_TICK (R44). -/
  | derivedCapTick (vin : Nat)
  /-- HOST_POWER_DOWN (R88). -/
  | hostPowerDown
  /-- FAC_STATUS_PERIOD (R63). -/
  | facStatusPeriod (r : FacReading)
  /-- FC_STATE_FRAME_PERIOD (R58). -/
  | fcStateFramePeriod (r : FacReading)
  /-- HST_STATUS_PERIOD (R81). -/
  | hstStatusPeriod (power : BitVec 16)
  /-- CAN_FAC_SHED_NOW (R58). -/
  | canFacShedNow (f : CanFrame)
  /-- CAN_FAC_ISOLATE_WARN (R58). -/
  | canFacIsolateWarn (f : CanFrame)
  /-- CAN_FAC_POWER_CAP (R58). -/
  | canFacPowerCap (f : CanFrame)
  /-- CAN_FAC_IDENT_REQ (R58). -/
  | canFacIdentReq (f : CanFrame)
  /-- FAC_STATUS (R71). -/
  | facStatus (f : Frame)
  /-- FAC_POWER_CAP (R66). -/
  | facPowerCap (f : Frame)
  /-- FAC_SHED_NOW (R67). -/
  | facShedNow (f : Frame)
  /-- FAC_COOLANT (R69). -/
  | facCoolant (f : Frame)
  /-- FAC_ISOLATE_WARN (R68). -/
  | facIsolateWarn (f : Frame)
  /-- FAC_IDENT_REQ (R63). -/
  | facIdentReq (f : Frame)
  /-- FAC_ACK (R64). -/
  | facAck (f : Frame)
  /-- HST_STATUS (R72). -/
  | hstStatus (f : Frame)
  /-- HST_STOP_RECORD (R72). -/
  | hstStopRecord (f : Frame)
  /-- HST_TRIP_RECORD (R81). -/
  | hstTripRecord (f : Frame)
  /-- HST_IDENT (R63). -/
  | hstIdent (f : Frame)
  /-- HST_POWER_REQ (R70). -/
  | hstPowerReq (f : Frame)
  /-- HST_THERMAL (R72). -/
  | hstThermal (f : Frame)
  /-- HST_ACK (R64). -/
  | hstAck (f : Frame)
  /-- BARRIER_RETRANSMIT_TIMEOUT (R64). -/
  | barrierRetransmitTimeout (side : Side) (seq : BitVec 8)
  /-- BARRIER_LOST_TIMEOUT (R71). -/
  | barrierLostTimeout
  /-- HOST_SILENT_TIMEOUT (R72). -/
  | hostSilentTimeout
  /-- IDENT_ANSWER_TIMEOUT (R72). -/
  | identAnswerTimeout
  /-- ISOLATE_HALT (R68). -/
  | isolateHalt
  /-- PWR_REQ_GO (R70). -/
  | pwrReqGo (fn : Fn) (v : BitVec 32)
  /-- PWR_VOP_WRITE (R50). -/
  | pwrVopWrite (fn : Fn) (v : BitVec 32)
  /-- VOP_CHANGE_DONE (R50). -/
  | vopChangeDone (site : Fin 6)
  /-- SMBUS_READY (R54). -/
  | smbusReady
  /-- SMBUS_BLOCK_READ (R54). -/
  | smbusBlockRead (addr : BitVec 7) (code : BitVec 8)
  /-- SMBUS_WRITE (R53). -/
  | smbusWrite (addr : BitVec 7) (code : BitVec 8) (data : List (BitVec 8))
  /-- CLOCK_PHASE_END (R445). -/
  | clockPhaseEnd
  /-- FUSE_PHASE_END (R81). -/
  | fusePhaseEnd (r : PhaseResult)
  /-- ZF_PHASE_END (R32). -/
  | zfPhaseEnd (r : PhaseResult)
  /-- MEM_PHASE_END (R76). -/
  | memPhaseEnd (r : PhaseResult)
  /-- ASSAY_PHASE_END (R82). -/
  | assayPhaseEnd (r : PhaseResult)
  /-- SYS_READY_SET (R77). -/
  | sysReadySet
  /-- PHASE_DEADLINE (R76). -/
  | phaseDeadline (r : PhaseResult)
  /-- SESSION_QUIET_END (R356). -/
  | sessionQuietEnd
  /-- PCIE_CONFIG_REQUEST (R86). -/
  | pcieConfigRequest (fn : Fn) (op : CfgOp)
  /-- PERST_ASSERT (R90). -/
  | perstAssert
  /-- PERST_DEASSERT (R86). -/
  | perstDeassert
  /-- WARM_RESTART_READY (R90). -/
  | warmRestartReady
  /-- VF_FLR (R91). -/
  | vfFlr (p : Fin 8)
  /-- PF_FLR (R91). -/
  | pfFlr
  /-- BAR4_RESIZE (R434). -/
  | bar4Resize (fn : Fn) (log2 : Nat)
  /-- REFCLK_LOSS (R104). -/
  | refclkLoss
  /-- REFCLK_RETURN (R104). -/
  | refclkReturn
  /-- PACE_WINDOW (R98). -/
  | paceWindow (counts : List (Nat × BitVec 24))
  /-- SYS_TIME_LO_READ (R103). -/
  | sysTimeLoRead (fn : Fn)
  /-- SLICE_REFRESH (R141). -/
  | sliceRefresh
  /-- HBM_REFRESH (R162). -/
  | hbmRefresh
  /-- SLICE_SCRUB_BURST (R150). -/
  | sliceScrubBurst (site : Fin 6) (core : Fin 64) (e : Env)
  /-- REPAIR_SWEEP_DONE (R152). -/
  | repairSweepDone (site : Fin 6) (core : Fin 64) (oct : Fin 8) (e : Env)
  /-- CA_PARITY_ERROR (R153). -/
  | caParityError (site : Fin 6) (core : Fin 64) (oct : Fin 8) (c : CaFault) (e : Env)
  /-- EVAC_EXPIRY (R155). -/
  | evacExpiry (site : Fin 6) (core : Fin 64)
  /-- SLC_CTL_FENCE_NOW (R155). -/
  | slcCtlFenceNow (fn : Fn) (v : BitVec 32)
  /-- LAYER_RESOURCE_FAIL (R157). -/
  | layerResourceFail (site : Fin 6)
  /-- HBM_SCRUB_BURST (R166). -/
  | hbmScrubBurst (h : Fin 12) (pc : Fin 32) (e : Env)
  /-- HBM_CA_RETRAIN_DONE (R171). -/
  | hbmCaRetrainDone (h : Fin 12) (pc : Fin 32) (ok : Bool)
  /-- HBM_TEMP_READ (R174). -/
  | hbmTempRead (h : Fin 12) (t : Int)
  /-- HBM_TEMP_READ_TIMEOUT (R174). -/
  | hbmTempReadTimeout (h : Fin 12)
  /-- HBM_CTL_REFORM (R170). -/
  | hbmCtlReform (fn : Fn) (v : BitVec 32)
  /-- REFORM_DONE (R170). -/
  | reformDone
  /-- BAR4_READ (R210). -/
  | bar4Read (fn : Fn) (off : Nat) (len : Nat) (e : Env)
  /-- BAR4_WRITE (R210). -/
  | bar4Write (fn : Fn) (off : Nat) (data : List (BitVec 8)) (e : Env)
  /-- ZF_PARITY_FAIL (R181). -/
  | zfParityFail (j : Fin 7) (hit : List Nat)
  /-- ZF_RLC_PURGE_ALL (R185). -/
  | zfRlcPurgeAll (fn : Fn) (v : BitVec 32)
  /-- PARTNER_RESPONSE (R192). -/
  | partnerResponse (m : List (BitVec 8)) (e : Env)
  /-- PARTNER_RESPONSE_TIMEOUT (R192). -/
  | partnerResponseTimeout (ptag : Nat) (e : Env)
  /-- PARTNER_INBOUND_REQUEST (R193). -/
  | partnerInboundRequest (m : List (BitVec 8)) (e : Env)
  /-- PARTNER_LINK_LOSS (R194). -/
  | partnerLinkLoss (e : Env)
  /-- SYS_NODE_WRITE (R218). -/
  | sysNodeWrite (fn : Fn) (v : BitVec 32)
  /-- Q_CTL_ENABLE (R240). -/
  | qCtlEnable (fn : Fn) (q : QRef) (v : BitVec 32)
  /-- Q_CTL_DISABLE (R240). -/
  | qCtlDisable (fn : Fn) (q : QRef) (v : QWrite)
  /-- Q_CTL_ABORT (R254). -/
  | qCtlAbort (fn : Fn) (q : QRef) (v : QWrite)
  /-- Q_IRQ_WRITE (R245). -/
  | qIrqWrite (fn : Fn) (q : QRef) (v : BitVec 32)
  /-- SQ_TAIL (R242). -/
  | sqTail (fn : Fn) (page : Fin 64) (bits : Nat) (v : BitVec 32) (e : Env)
  /-- CQ_HEAD (R242). -/
  | cqHead (fn : Fn) (page : Fin 64) (bits : Nat) (v : BitVec 32)
  /-- PACKET_TAKE (R243). -/
  | packetTake (e : Env)
  /-- PACKET_START (R248). -/
  | packetStart (q : QRef) (tag : BitVec 16)
  /-- PACKET_COMPLETE (R237). -/
  | packetComplete (q : QRef) (tag : BitVec 16) (e : Env)
  /-- IRQ_TIME_TRIGGER (R245). -/
  | irqTimeTrigger (q : QRef)
  /-- RING_READ_ERROR (R239). -/
  | ringReadError (q : QRef)
  /-- NOP (R268). -/
  | nop (q : QRef) (tag : BitVec 16)
  /-- BARRIER (R229). -/
  | barrier (q : QRef) (tag : BitVec 16) (e : Env)
  /-- STORE_BUFFER_ISSUE (R225). -/
  | storeBufferIssue (site : Fin 6) (core : Fin 64) (e : Env)
  /-- SIGNAL (R232). -/
  | signal (q : QRef) (tag : BitVec 16) (e : Env)
  /-- WAIT (R269). -/
  | wait (q : QRef) (tag : BitVec 16) (e : Env)
  /-- WAIT_POLL (R269). -/
  | waitPoll (q : QRef) (tag : BitVec 16) (e : Env)
  /-- WAIT_TIMEOUT (R269). -/
  | waitTimeout (q : QRef) (tag : BitVec 16)
  /-- FLUSH (R230). -/
  | flush (q : QRef) (tag : BitVec 16)
  /-- INVALIDATE (R207). -/
  | invalidate (q : QRef) (tag : BitVec 16) (e : Env)
  /-- GEMM (R270). -/
  | gemm (q : QRef) (tag : BitVec 16) (e : Env)
  /-- GEMM_T (R124). -/
  | gemmT (q : QRef) (tag : BitVec 16) (e : Env)
  /-- CONV_AS_GEMM (R270). -/
  | convAsGemm (q : QRef) (tag : BitVec 16) (e : Env)
  /-- ESCAPEMENT_PAUSE_END (R373). -/
  | escapementPauseEnd (site : Fin 6) (core : Fin 64) (u : Fin 6)
  /-- VXU_OP (R125). -/
  | vxuOp (q : QRef) (tag : BitVec 16) (e : Env)
  /-- NORM (R125). -/
  | norm (q : QRef) (tag : BitVec 16) (e : Env)
  /-- OPTIM_STEP (R127). -/
  | optimStep (q : QRef) (tag : BitVec 16) (e : Env)
  /-- ATTEND (R328). -/
  | attend (q : QRef) (tag : BitVec 16) (e : Env)
  /-- ATTEND_BUCKETS (R329). -/
  | attendBuckets (q : QRef) (tag : BitVec 16) (e : Env)
  /-- VERIFY (R273). -/
  | verify (q : QRef) (tag : BitVec 16) (e : Env)
  /-- VERIFY_STREAM_PACKET (R273). -/
  | verifyStreamPacket (q : QRef) (tag : BitVec 16) (e : Env)
  /-- VERIFY_ACCEPTANCE (R336). -/
  | verifyAcceptance (q : QRef) (tag : BitVec 16) (e : Env)
  /-- KV_ALLOC (R298). -/
  | kvAlloc (q : QRef) (tag : BitVec 16) (e : Env)
  /-- KV_APPEND (R307). -/
  | kvAppend (q : QRef) (tag : BitVec 16) (e : Env)
  /-- KV_FREE (R306). -/
  | kvFree (q : QRef) (tag : BitVec 16) (e : Env)
  /-- KV_COMMIT (R308). -/
  | kvCommit (q : QRef) (tag : BitVec 16) (e : Env)
  /-- KV_ROLLBACK (R308). -/
  | kvRollback (q : QRef) (tag : BitVec 16) (e : Env)
  /-- ARBOR_MATCH (R312). -/
  | arborMatch (q : QRef) (tag : BitVec 16) (e : Env)
  /-- ARBOR_INSERT (R313). -/
  | arborInsert (q : QRef) (tag : BitVec 16) (c : Contend) (e : Env)
  /-- ARBOR_REMOVE (R314). -/
  | arborRemove (q : QRef) (tag : BitVec 16) (c : Contend) (e : Env)
  /-- RESERVATION_EXPIRY (R234). -/
  | reservationExpiry (site : Fin 6) (slot : Fin 8)
  /-- EXCLUSIVE_HOLD_EXPIRY (R235). -/
  | exclusiveHoldExpiry (site : Fin 6) (slot : Fin 8) (e : Env)
  /-- KPM_POOL_ENABLE (R295). -/
  | kpmPoolEnable (fn : Fn) (site : Fin 6) (pool : Fin 64) (v : BitVec 32)
  /-- KPM_POOL_READY (R295). -/
  | kpmPoolReady (site : Fin 6) (pool : Fin 64) (e : Env)
  /-- KPM_POOL_DISABLE (R296). -/
  | kpmPoolDisable (fn : Fn) (site : Fin 6) (pool : Fin 64) (v : BitVec 32)
  /-- KPM_PIN_LO_WRITE (R316). -/
  | kpmPinLoWrite (fn : Fn) (v : BitVec 32) (e : Env)
  /-- ARB_KEY_WRITE (R309). -/
  | arbKeyWrite (fn : Fn) (p : Fin 9) (v : BitVec 32)
  /-- DMA_RUN (R286). -/
  | dmaRun (q : QRef) (tag : BitVec 16) (e : Env)
  /-- DMA_CHAIN (R290). -/
  | dmaChain (q : QRef) (tag : BitVec 16) (e : Env)
  /-- DMA_DESCRIPTOR_START (R286). -/
  | dmaDescriptorStart (n : Fin 12) (ch : Fin 16) (e : Env)
  /-- DMA_BLOCK_READ (R281). -/
  | dmaBlockRead (n : Fin 12) (ch : Fin 16) (e : Env)
  /-- DMA_BLOCK_WRITE (R281). -/
  | dmaBlockWrite (n : Fin 12) (ch : Fin 16) (e : Env)
  /-- DMA_DESCRIPTOR_END (R289). -/
  | dmaDescriptorEnd (n : Fin 12) (ch : Fin 16) (e : Env)
  /-- SEND (R363). -/
  | send (q : QRef) (tag : BitVec 16) (e : Env)
  /-- REMOTE_ATOMIC (R362). -/
  | remoteAtomic (q : QRef) (tag : BitVec 16) (e : Env)
  /-- ROUTE_SET (R349). -/
  | routeSet (q : QRef) (tag : BitVec 16)
  /-- PART_CREATE (R214). -/
  | partCreate (q : QRef) (tag : BitVec 16)
  /-- PART_RESIZE (R275). -/
  | partResize (q : QRef) (tag : BitVec 16) (e : Env)
  /-- PART_DESTROY (R217). -/
  | partDestroy (q : QRef) (tag : BitVec 16) (e : Env)
  /-- LOUPE_WATCH (R396). -/
  | loupeWatch (q : QRef) (tag : BitVec 16) (e : Env)
  /-- LOUPE_DIGEST (R397). -/
  | loupeDigest (q : QRef) (tag : BitVec 16) (slot : Fin 32) (e : Env)
  /-- CNT_SNAP (R393). -/
  | cntSnap (q : QRef) (tag : BitVec 16) (e : Env)
  /-- SNAPSHOT (R402). -/
  | snapshot (q : QRef) (tag : BitVec 16)
  /-- SET_VOP (R276). -/
  | setVop (q : QRef) (tag : BitVec 16)
  /-- ESC_REQUEST (R377). -/
  | escRequest (q : QRef) (tag : BitVec 16)
  /-- ABORT (R255). -/
  | abort (q : QRef) (tag : BitVec 16) (a : AbortEnv) (e : Env)
  /-- ABORT_RESET_TIMEOUT (R255). -/
  | abortResetTimeout (q : QRef) (tag : BitVec 16) (e : Env)
  /-- ABORT_COMPLETE (R255). -/
  | abortComplete (q : QRef) (tag : BitVec 16) (e : Env)
  /-- LINK_TRAINED (R345). -/
  | linkTrained (l : Fin 72) (node : BitVec 8) (peer : BitVec 7)
  /-- LINK_DOWN (R348). -/
  | linkDown (l : Fin 72)
  /-- LINK_ACK_TIMEOUT (R348). -/
  | linkAckTimeout (l : Fin 72)
  /-- LINK_HOLD_EXPIRY (R345). -/
  | linkHoldExpiry (l : Fin 72)
  /-- FLIT_RECEIVE (R347). -/
  | flitReceive (l : Fin 72) (f : List (BitVec 8)) (fec : FecEnv)
  /-- INBOUND_REQUEST (R357). -/
  | inboundRequest (id : Nat) (e : Env)
  /-- INBOUND_RESPONSE (R353). -/
  | inboundResponse (id : Nat) (e : Env)
  /-- MESSAGE_HOLD_EXPIRY (R350). -/
  | messageHoldExpiry (id : Nat)
  /-- TRANSACTION_TIMEOUT (R359). -/
  | transactionTimeout (rid : BitVec 16) (e : Env)
  /-- THERMAL_SCAN (R371). -/
  | thermalScan (r : ScanEnv) (e : Env)
  /-- STOP_RECORD_WRITE (R378). -/
  | stopRecordWrite (d : Fin 6) (e : Env)
  /-- DOMAIN5_POWER_DOWN (R380). -/
  | domain5PowerDown (waited : Bool)
  /-- TRIP (R382). -/
  | trip (d : Fin 6) (cls : Fin 4)
  /-- TRIP_RELEASE (R383). -/
  | tripRelease
  /-- ESC_REQ_WRITE (R377). -/
  | escReqWrite (fn : Fn) (d : Fin 6) (v : BitVec 32)
  /-- CNT_VAL_LO_WRITE (R390). -/
  | cntValLoWrite (fn : Fn) (v : BitVec 32)
  /-- CNT_VAL_LO_READ (R404). -/
  | cntValLoRead (fn : Fn)
  /-- SNP_CTL_GO (R402). -/
  | snpCtlGo (fn : Fn) (v : BitVec 32)
  /-- SNAPSHOT_DONE (R403). -/
  | snapshotDone (fn : Fn) (e : Env)
  /-- OPEN_OBSERVE (R416). -/
  | openObserve (src : LockPath)
  /-- REQ_CHAL (R417). -/
  | reqChal (src : LockPath) (lvl : BitVec 2)
  /-- SUBMIT_RESP (R418). -/
  | submitResp (src : LockPath)
  /-- SET_PW (R415). -/
  | setPw (src : LockPath)
  /-- RELOCK (R413). -/
  | relock (src : LockPath)
  /-- LOCK_COMMAND_DONE (R414). -/
  | lockCommandDone
  /-- CHALLENGE_EXPIRY (R417). -/
  | challengeExpiry
  /-- TEST_EN_CHANGE (R407). -/
  | testEnChange (level : Bool)
  /-- LCK_TAP_GO (R420). -/
  | lckTapGo (fn : Fn) (v : BitVec 32)
  /-- TAP_SHIFT_DONE (R420). -/
  | tapShiftDone (tdo : BitVec 32)
  /-- TAP_INSTRUCTION_UPDATE (R411). -/
  | tapInstructionUpdate (ir : BitVec 8)
  /-- REGISTER_WRITE (R437). -/
  | registerWrite (fn : Fn) (off : Nat) (size : Nat) (v : BitVec 64) (e : Env)
  /-- REGISTER_READ (R7). -/
  | registerRead (fn : Fn) (off : Nat) (size : Nat)
  /-- FC_HOUSEKEEPING_DOWN (R72). -/
  | fcHousekeepingDown
  /-- COOLANT_EVENT (R58). -/
  | coolantEvent (r : FacReading)
  /-- PURGE_ALL_DONE (R185). -/
  | purgeAllDone
deriving DecidableEq, Repr

end Sys2Proof
end

