-- ==== Sys2Proof/Decode.lean ====
section
/-!
DEFINITION. Decode.lean: the module takes commands, not instruction words. No row of spec/opcode_table.json gives bits, so no
word spells a command.
-/
namespace Sys2Proof

/-- The command a word of nbits bits spells: none, since the table gives no row any bits; DEDUCED in part: log 11. -/
def decodeTableWord (_nbits _w : Nat) : Option Instr := none

end Sys2Proof
end

