-- ==== Sys2Proof/Machine/Bits.lean ====
section
/-!
DEFINITION. Machine/Bits.lean: bit fields, byte order (spec/00_scope.md R10), tables, saturating counts, and the checks the
spec names: CRC-16/CCITT (02 R62), CRC-32 (16 R346), CRC-32C (13 R287), CRC-64 (18 R399), the SMBus PEC (02 R53).
-/
namespace Sys2Proof.Machine

/-! Tables. -/

/-- The listed entry. -/
def tget? {α : Type} (t : Tbl α) (k : Nat) : Option α :=
  match t with
  | [] => none
  | (a, v) :: r => if a = k then some v else tget? r k

/-- The entry, d where it is not listed. -/
def tget {α : Type} (t : Tbl α) (k : Nat) (d : α) : α := (tget? t k).getD d

/-- The table with entry k set, kept in rising order. -/
def tset {α : Type} (t : Tbl α) (k : Nat) (v : α) : Tbl α :=
  match t with
  | [] => [(k, v)]
  | (a, w) :: r =>
    if k < a then (k, v) :: (a, w) :: r
    else if a = k then (k, v) :: r
    else (a, w) :: tset r k v

/-- The table without entry k. -/
def tdel {α : Type} (t : Tbl α) (k : Nat) : Tbl α := t.filter (fun e => e.1 != k)

/-- Entry k changed by f. -/
def tmod {α : Type} (t : Tbl α) (k : Nat) (d : α) (f : α → α) : Tbl α := tset t k (f (tget t k d))

/-- Every entry k of ks set to v. -/
def tsetAll {α : Type} (t : Tbl α) (ks : List Nat) (v : α) : Tbl α := ks.foldl (fun t k => tset t k v) t

/-! Numbers. -/

/-- Field [hi:lo] of n. -/
def bf (n hi lo : Nat) : Nat := (n >>> lo) % 2 ^ (hi + 1 - lo)

/-- Bit i of n. -/
def bit (n i : Nat) : Bool := n.testBit i

/-- 1 for true. -/
def b2n (b : Bool) : Nat := if b then 1 else 0

/-- n rounded up to a multiple of a. -/
def alignUp (n a : Nat) : Nat := (n + (a - 1)) / a * a

/-- n rounded down to a multiple of a. -/
def alignDown (n a : Nat) : Nat := n / a * a

/-- The numbers lo, lo + 1, …, n of them. -/
def rangeFrom (lo n : Nat) : List Nat := (List.range n).map (lo + ·)

/-- The set bits of a mask of w bits, ascending. -/
def maskBits (m w : Nat) : List Nat := (List.range w).filter (fun i => m.testBit i)

/-- The mask of a list of bits. -/
def ofBits (l : List Nat) : Nat := l.foldl (fun m i => m ||| (1 <<< i)) 0

/-- How many bits of a mask of w bits are set. -/
def popcount (m w : Nat) : Nat := (maskBits m w).length

/-- A count that stays at its greatest value (spec/00_scope.md Table 00-3, RC counts). -/
def satAdd {w : Nat} (x : BitVec w) (n : Nat) : BitVec w := BitVec.ofNat w (min (x.toNat + n) (2 ^ w - 1))

/-- Bit i of a register set or cleared. -/
def putBit {w : Nat} (x : BitVec w) (i : Nat) (b : Bool) : BitVec w :=
  if b then x ||| BitVec.ofNat w (2 ^ i) else x &&& ~~~(BitVec.ofNat w (2 ^ i))

/-- Two's complement of width w as an integer. -/
def sgn (w n : Nat) : Int := if n % 2 ^ w < 2 ^ (w - 1) then Int.ofNat (n % 2 ^ w) else Int.ofNat (n % 2 ^ w) - Int.ofNat (2 ^ w)

/-- An integer in two's complement of width w. -/
def ofSgn (w : Nat) (i : Int) : Nat := (i % Int.ofNat (2 ^ w)).toNat

/-- Greatest r with r squared at most n, by bisection over the bits of r. -/
def isqrtFrom : Nat → Nat → Nat → Nat
  | 0, _, r => r
  | k + 1, n, r =>
    let c := r + 2 ^ k
    isqrtFrom k n (if c * c ≤ n then c else r)

/-- Integer square root. -/
def isqrt (n : Nat) : Nat := isqrtFrom (Nat.log2 n / 2 + 1) n 0

/-- f applied n times. -/
def iter {α : Type} : Nat → (α → α) → α → α
  | 0, _, x => x
  | n + 1, f, x => iter n f (f x)

/-- A list cut into pieces of n, with k pieces at most. -/
def chunksOf {α : Type} (n : Nat) : Nat → List α → List (List α)
  | 0, _ => []
  | k + 1, l => match l with
    | [] => []
    | _ => l.take n :: chunksOf n k (l.drop n)

/-- A list cut into pieces of n elements; the last may be shorter. -/
def chunks {α : Type} (n : Nat) (l : List α) : List (List α) := chunksOf n l.length l

/-- The list without repeats, first occurrences kept. -/
def nub : List Nat → List Nat
  | [] => []
  | a :: r => a :: (nub r).filter (fun b => b != a)

/-- Insertion into a list in rising order. -/
def insertBy {α : Type} (le : α → α → Bool) (x : α) : List α → List α
  | [] => [x]
  | a :: r => if le x a then x :: a :: r else a :: insertBy le x r

/-- The list in rising order. -/
def sortBy {α : Type} (le : α → α → Bool) (l : List α) : List α := l.foldr (insertBy le) []

/-- The greatest of a list, d for an empty one. -/
def maxOf (d : Nat) (l : List Nat) : Nat := l.foldl max d

/-! Byte order. -/

/-- k bytes of n, least significant first. -/
def leBytes (k n : Nat) : List Byte := (List.range k).map (fun i => BitVec.ofNat 8 (n >>> (8 * i)))

/-- The number some bytes hold, least significant first. -/
def leNat (l : List Byte) : Nat := l.foldr (fun b n => b.toNat + 256 * n) 0

/-- k bytes of n, most significant first. -/
def beBytes (k n : Nat) : List Byte := (leBytes k n).reverse

/-- The number some bytes hold, most significant first. -/
def beNat (l : List Byte) : Nat := leNat l.reverse

/-- Byte i, zero beyond the end. -/
def byteAt (l : List Byte) (i : Nat) : Byte := l.getD i 0

/-- Field of n bytes at offset o. -/
def fieldAt (l : List Byte) (o n : Nat) : Nat := leNat ((l.drop o).take n)

/-- The list cut or filled with zeros to n bytes. -/
def padTo (n : Nat) (l : List Byte) : List Byte := (l ++ List.replicate (n - l.length) 0).take n

/-- Bytes at offset o replaced. -/
def putAt (l : List Byte) (o : Nat) (b : List Byte) : List Byte := l.take o ++ b ++ l.drop (o + b.length)

/-! Checks. -/

/-- One bit of CRC-16/CCITT. -/
def crc16Bit (c : Nat) : Nat := if c ≥ 32768 then ((2 * c) % 65536) ^^^ 0x1021 else 2 * c

/-- CRC-16/CCITT: polynomial 0x1021, initial value 0xFFFF, no reflection, no final XOR (02 R62). -/
def crc16 (l : List Byte) : Nat := l.foldl (fun c b => iter 8 crc16Bit (c ^^^ (b.toNat * 256))) 0xFFFF

/-- One bit of a reflected CRC with polynomial p. -/
def crcReflBit (p c : Nat) : Nat := if c % 2 = 1 then (c / 2) ^^^ p else c / 2

/-- A reflected CRC register advanced over some bytes. -/
def crcRefl (p c : Nat) (l : List Byte) : Nat := l.foldl (fun c b => iter 8 (crcReflBit p) (c ^^^ b.toNat)) c

/-- CRC-32 of IEEE 802.3, reflected (16 R346). -/
def crc32 (l : List Byte) : Nat := crcRefl 0xEDB88320 0xFFFFFFFF l ^^^ 0xFFFFFFFF

/-- The running CRC-32C register (13 R287). -/
def crc32cReg (c : Nat) (l : List Byte) : Nat := crcRefl 0x82F63B78 c l

/-- CRC-32C (13 R287). -/
def crc32c (l : List Byte) : Nat := crc32cReg 0xFFFFFFFF l ^^^ 0xFFFFFFFF

/-- One bit of CRC-64/ECMA-182. -/
def crc64Bit (c : Nat) : Nat :=
  if c ≥ 2 ^ 63 then ((2 * c) % 2 ^ 64) ^^^ 0x42F0E1EBA9EA3693 else 2 * c

/-- CRC-64/ECMA-182: initial value 0, no reflection, no final XOR (18 R399). -/
def crc64 (l : List Byte) : Nat := l.foldl (fun c b => iter 8 crc64Bit (c ^^^ (b.toNat <<< 56))) 0

/-- One bit of CRC-8. -/
def crc8Bit (c : Nat) : Nat := if c ≥ 128 then ((2 * c) % 256) ^^^ 0x07 else 2 * c

/-- The SMBus packet error code: CRC-8, polynomial 0x07, initial value 0 (02 R53). -/
def crc8 (l : List Byte) : Nat := l.foldl (fun c b => iter 8 crc8Bit (c ^^^ b.toNat)) 0

end Sys2Proof.Machine
end

