-- ==== Sys2Proof/Machine/Ecc.lean ====
section
/-!
DEFINITION. Machine/Ecc.lean: the 272-bit word code (spec/06_bonded_slices.md R142-R145). A stored word is its 32 data bytes and
the exclusive-or of its sixteen stored bits [271:256] with the ones the data and the address call for: bits 8:0 are C[8:0],
bit 9 is C[9], bits 15:10 are F[5:0]. A word is CLEAN exactly when that difference is zero.
-/
namespace Sys2Proof.Machine

/-- What a word is classed as (06 Table 06-4): the bit of the word for the correctable classes. -/
inductive EccClass where
  | clean
  | data (b : Nat)
  | checkbit (b : Nat)
  | poison
  | ue
  | addr
deriving DecidableEq, Repr

/-- Positions of the protected bits: the integers from 3 up that are not powers of two, 262 of them (06 R143). -/
def eccPositions : List Nat := (rangeFrom 3 269).filter (fun n => n != 2 ^ Nat.log2 n)

/-- Position of protected bit i: data 0-255, then F0-F5. -/
def eccPos (i : Nat) : Nat := eccPositions.getD i 0

/-- Exclusive-or of the positions of the F bits set in f. -/
def foldPos (f : Nat) : Nat := (maskBits f 6).foldl (fun s i => s ^^^ eccPos (256 + i)) 0

/-- The syndrome S of a difference: C recomputed over data and stored F, against C as stored (06 R144). -/
def eccSyndrome (x : Nat) : Nat := bf x 8 0 ^^^ foldPos (bf x 15 10)

/-- The parity P of all 272 stored bits (06 R144). -/
def eccParity (x : Nat) : Bool := popcount x 16 % 2 == 1

/-- The class of a word before the fold check. -/
def eccRaw (x : Nat) : EccClass :=
  let s := eccSyndrome x
  if eccParity x then
    if s == 0 then .checkbit 265
    else if s == 2 ^ Nat.log2 s then .checkbit (256 + Nat.log2 s)
    else if s == 0x1FF then .poison
    else match eccPositions.idxOf? s with
      | some i => if i < 256 then .data i else .checkbit (266 + (i - 256))
      | none => .ue
  else if s == 0 then .clean else .ue

/-- F of the difference after correction. -/
def eccFoldLeft (x : Nat) : EccClass → Nat
  | .checkbit b => if b ≥ 266 then bf x 15 10 ^^^ (1 <<< (b - 266)) else bf x 15 10
  | _ => bf x 15 10

/-- The class of a word (06 R144, Table 06-4): a corrected fold that differs from the address's classes the word ADDR. -/
def eccClass (x : Nat) : EccClass :=
  match eccRaw x with
  | .clean => if eccFoldLeft x .clean == 0 then .clean else .addr
  | .data b => if eccFoldLeft x (.data b) == 0 then .data b else .addr
  | .checkbit b => if eccFoldLeft x (.checkbit b) == 0 then .checkbit b else .addr
  | c => c

/-- The difference of the poison encoding (06 R145): C[8:0] differs by 0x1FF, C[9] makes P = 1. -/
def poisonDiff : Nat := 0x1FF

/-- How the difference changes when stored data bit j flips. -/
def dataFlipDiff (j : Nat) : Nat :=
  let p := eccPos j
  p ^^^ (if popcount p 9 % 2 == 0 then 512 else 0)

/-- The class is correctable. -/
def EccClass.correctable : EccClass → Bool
  | .data _ => true
  | .checkbit _ => true
  | _ => false

/-- The class is uncorrectable: UE, ADDR or POISON. -/
def EccClass.bad : EccClass → Bool
  | .poison => true
  | .ue => true
  | .addr => true
  | _ => false

/-- CLASS code of the LAST_INFO registers (06 Table 06-6). -/
def EccClass.code : EccClass → Nat
  | .clean => 0
  | .data _ => 1
  | .checkbit _ => 2
  | .ue => 3
  | .poison => 4
  | .addr => 5

/-- BIT field of the LAST_INFO registers. -/
def EccClass.bitPos : EccClass → Nat
  | .data b => b
  | .checkbit b => b
  | _ => 0

/-- The address fold of a slice word: the XOR of the four 6-bit groups of offset[28:5] (06 R143). -/
def sliceFold (off : Nat) : Nat := bf off 10 5 ^^^ bf off 16 11 ^^^ bf off 22 17 ^^^ bf off 28 23

/-- The address fold of an HBM word: the XOR of the six 6-bit groups of A[35:0] (07 R163). -/
def hbmFold (pc word : Nat) : Nat :=
  let a := 2 ^ 26 * pc + word
  bf a 5 0 ^^^ bf a 11 6 ^^^ bf a 17 12 ^^^ bf a 23 18 ^^^ bf a 29 24 ^^^ bf a 35 30

/-- The sixteen check bits the data and fold of a good word call for (06 R142, R143). -/
def goodChk (data fold : Nat) : Nat :=
  let c := (maskBits data 256).foldl (fun s i => s ^^^ eccPos i) 0 ^^^ foldPos fold
  let par := (popcount data 256 + popcount fold 6 + popcount c 9) % 2
  c + 512 * par + 1024 * fold

end Sys2Proof.Machine
end

