-- ==== Sys2Proof/Config.lean ====
section
/-!
DEFINITION. Config.lean: what an implementation fixes and the spec leaves open, as constants without a body: nothing can be
proved of their values, so what is claimed holds for every value. notes/assumptions/7.md and 8.md log them.
-/
namespace Sys2Proof.Config

/-- Contents n of memory that nothing has written: a byte by address (spec/07_hbm_tier.md R170; log 7). -/
opaque freeByte : Nat → Nat → BitVec 8

/-- Draw n of the on-die entropy source, 64 bits (spec/16_fidom_links.md R356, spec/19_test_access_lock.md R417; log 8). -/
opaque entropy : Nat → BitVec 64

/-- Free value n, where an instruction leaves a value open (log 8). -/
opaque freeValue : Nat → BitVec 64

/-- A result the spec leaves open as a function of its operands: which operation, and the operands' bits (log 8). -/
opaque openResult : Nat → List Nat → Nat

end Sys2Proof.Config
end

