-- ==== Sys2Proof/Machine/State.lean ====
section
/-!
DEFINITION. Machine/State.lean: every piece of state the spec gives the module, as plain data, the queue of waiting commands,
the state after reset, and the reasons a step can stop. Every field names the file of spec/ and the rule that gives it; an
array (`Tbl`) lists the entries that differ from the value its docstring gives. INVENTORY.md's "## State" has the reset values.
-/
namespace Sys2Proof.Machine

/-- FC state byte names (02 R59). -/
inductive FcState where
  | uvHold
  | hostSilent
  | hostRunning
  | ovHold
deriving DecidableEq, Repr

/-- What memory holds where nothing is listed: zero after a zero fill (03 R84), or open contents, number n (07 R170). -/
inductive Fill where
  | zero
  | opened (n : Nat)
deriving DecidableEq, Repr

/-- Stored words of every address space, by DPA with the local node written 255 (09 R196). -/
structure Mem where
  /-- Ranges (first DPA, last DPA) with a stated background, newest first; elsewhere the contents are open, number 0. -/
  fills : List (Nat × Nat × Fill) := []
  /-- Bytes that differ from the background, in rising order of address. -/
  cells : List Host.Cell := []
  /-- Words whose sixteen check bits do not agree with their data: exclusive-or with the agreeing bits (06 R142, R143). -/
  chk : Tbl (BitVec 16) := []
deriving DecidableEq, Repr, Inhabited

/-- A captured translation (09 R203): the page's DVA, size and DPA, and its W and IMM bits. -/
structure Leaf where
  /-- First DVA of the page. -/
  dva : Nat := 0
  /-- Page size. -/
  size : Nat := 65536
  /-- First DPA of the page. -/
  dpa : Nat := 0
  /-- W. -/
  w : Bool := false
  /-- IMM. -/
  imm : Bool := false
deriving DecidableEq, Repr, Inhabited

/-- A record of a candidate tree (12 Table 12-7, 15 R331). -/
structure TreeRec where
  /-- TOKEN. -/
  token : Nat := 0
  /-- PARENT, 255 for the anchor. -/
  parent : Nat := 255
  /-- P_DRAFT, FP32. -/
  pDraft : BitVec 32 := 0
deriving DecidableEq, Repr, Inhabited

/-- How far a packet has come: taken, started, its effect done, or to be answered without running (11 R243, R248, R252). -/
inductive PktPhase where
  | taken
  | started
  | done
deriving DecidableEq, Repr

/-- Where an ABORT comes from: an ABORT packet, Q_CTL.ABORT, PART_DESTROY, a reset, or Q_CTL.ENABLE written 0 (11 R254). -/
inductive AbortKind where
  | packet
  | register
  | destroy
  | internal
deriving DecidableEq, Repr

/-- What the response to a remote request completes (16 R352, R363). -/
inductive RidUse where
  | signal
  | atomic
  | segment
  | notify
  | dmaRead (n ch off : Nat)
  | dmaWrite (n ch off : Nat)
deriving DecidableEq, Repr

/-- A VOP change in progress or waiting (02 R50, 12 R276). -/
structure VopJob where
  /-- Site. -/
  site : Nat := 0
  /-- VOP asked for. -/
  vop : BitVec 3 := 4
  /-- The SET_VOP packet that waits for it; none for PWR_VOP. -/
  cmd : Option (QRef × BitVec 16) := none
  /-- The change has begun. -/
  begun : Bool := false
  /-- VOP before the change. -/
  before : BitVec 3 := 4
deriving DecidableEq, Repr, Inhabited

/-- Attributes of a TLP that the module issues (10 R224). -/
structure TlpAttr where
  /-- Relaxed Ordering. -/
  ro : Bool := false
  /-- No Snoop. -/
  ns : Bool := false
deriving DecidableEq, Repr, Inhabited

/-- What the module drives outward, kept as a history (log 9). -/
inductive Out where
  /-- A barrier frame, bytes 0-15 (02 R61). -/
  | barrier (side : Side) (bytes : List Byte)
  /-- A CAN FD frame (02 R58). -/
  | can (id : Nat) (data : List Byte)
  /-- MSI-X vector v of a function, with its attributes (11 R245, 21 R442, 10 R224). -/
  | msix (fn : Fn) (v : Nat) (attr : TlpAttr := {})
  /-- A posted or read PCIe host-window access (09 R198): function, address, bytes, write, its attributes, and EP (13 R292). -/
  | host (fn : Option Fn) (addr : Nat) (bytes : Nat) (write : Bool) (attr : TlpAttr := {}) (ep : Bool := false)
  /-- Answer to a configuration request: true = success, false = Request Retry Status (03 R86). -/
  | cfg (fn : Fn) (ok : Bool)
  /-- No answer on PCIe, or Unsupported Request (03 R446): false = none, true = UR. -/
  | noAnswer (fn : Fn) (ur : Bool)
  /-- A register read's value (21 R437). -/
  | reg (fn : Fn) (off : Nat) (v : Nat)
  /-- A BAR4 read completion: data, EP (09 R210). -/
  | bar4 (fn : Fn) (data : List Byte) (ep : Bool)
  /-- SMBus: the block read's bytes with PEC (02 R53). -/
  | smbus (bytes : List Byte)
  /-- SMBus: how many bytes of a write were acknowledged (02 R53). -/
  | smbusAck (n : Nat)
  /-- A flit sent on a link (16 R346). -/
  | flit (link : Nat) (bytes : List Byte)
  /-- A message to the partner die (08 R191). -/
  | partner (bytes : List Byte)
  /-- IOD0's capability block, sent to the partner die on the UCIe sideband (08 R189). -/
  | capx (bytes : List Byte)
  /-- A link message dropped under R350 or discarded. -/
  | dropped (m : Msg)
deriving DecidableEq, Repr

/-- One programmed password bank (19 R415). -/
structure PwBank where
  /-- Salt drawn at SET_PW (19 R415). -/
  salt : List Byte := []
  /-- SHA-384(salt ++ password) (19 R415). -/
  hash : List Byte := []
deriving DecidableEq, Repr, Inhabited

/-- What was fixed at assembly and test, and the password banks SET_PW burns. It survives power cycles; values at reset: DESIGN CHOICE, log 3. -/
structure Fuses where
  /-- Assembly variant (01 R19). -/
  variant : Variant := .v51
  /-- 1 = -c48 (00 R2). -/
  sufC : Bool := false
  /-- 1 = -l16 (00 R2). -/
  sufL : Bool := false
  /-- 1 = -m24 (00 R2). -/
  sufM : Bool := false
  /-- ZF generation code of each native die (01 R25). -/
  zfGen : Tbl (BitVec 4) := []
  /-- ZF stepping of each native die (01 R25). -/
  zfStep : Tbl (BitVec 4) := []
  /-- As-built physical place of a logical core; unlisted: the core's own number (20 R421). -/
  repair : Tbl Nat := []
  /-- Healthy physical cores held in standby; unlisted: 64-67 (03 R83). -/
  standby : Tbl (List Nat) := []
  /-- The signed record; a missing byte reads zero (20 R421). -/
  touchmark : List Byte := []
  /-- P-384 public key fused at test, x (19 R418). -/
  pubX : Nat := 0
  /-- P-384 public key fused at test, y (19 R418). -/
  pubY : Nat := 0
  /-- Programmed password banks, newest first (19 R415). -/
  pwBanks : List PwBank := []
  /-- IEEE 1149.1 IDCODE of IOD0 (19 R420). -/
  idcode : BitVec 32 := 0
  /-- Numeric Behaviour Revision (05 R133). -/
  nbr : BitVec 8 := 1
deriving DecidableEq, Repr, Inhabited

/-- Levels of the pins the module reads. -/
structure Pins where
  /-- REFCLK present on SB2/SB3 (02 R52). -/
  refclk : Bool := true
  /-- PERST# asserted (02 R52). -/
  perst : Bool := true
  /-- TEST_EN high (02 R52). -/
  testEn : Bool := false
  /-- SMB_SEL1, SMB_SEL0 (02 R52). -/
  smbSel : BitVec 2 := 0
  /-- Straps SLOT_ID5-SLOT_ID0 (02 R58). -/
  slot : BitVec 6 := 0
deriving DecidableEq, Repr, Inhabited

/-- An acked barrier frame that waits for its acknowledgement. -/
structure Unacked where
  /-- TYPE (02 R61). -/
  typ : BitVec 8 := 0
  /-- SEQ (02 R61). -/
  seq : BitVec 8 := 0
  /-- PAYLOAD (02 R61). -/
  payload : List Byte := []
  /-- Retransmissions made (02 R64). -/
  sends : Nat := 0
deriving DecidableEq, Repr, Inhabited

/-- The Facility Controller. -/
structure FC where
  /-- Housekeeping supply up (02 R39). -/
  hk : Bool := true
  /-- Slot number read at housekeeping-up (02 R58). -/
  slot : BitVec 6 := 0
  /-- Next transmit SEQ (02 R65). -/
  seq : BitVec 8 := 0
  /-- SEQ of the last frame accepted (02 R65). -/
  rxLast : Option (BitVec 8) := none
  /-- State byte (02 R59). -/
  st : FcState := .hostSilent
  /-- Undervoltage comparator engaged (02 R41). -/
  uvHold : Bool := false
  /-- Overvoltage comparator engaged (02 R40). -/
  ovHold : Bool := false
  /-- Last cap received from the rack (02 R44). -/
  rackCap : BitVec 16 := 0xFFFF#16
  /-- Input below 44.0 V (02 R44). -/
  below44 : Bool := false
  /-- Derived cap computed while below 44.0 V (02 R44). -/
  derived : Option Nat := none
  /-- Cap last sent in FAC_POWER_CAP (02 R44). -/
  lastSent : BitVec 16 := 0xFFFF#16
  /-- Acked frames not yet acknowledged (02 R64). -/
  unacked : List Unacked := []
  /-- Last HST_STATUS accepted (frame bytes 0-13) (02 R72). -/
  lastStatus : Option (List Byte) := none
  /-- Stop-record fragments collected so far (02 R72). -/
  frags : Tbl (List Byte) := []
  /-- Last complete HST_STOP_RECORD accepted (02 R72). -/
  stopRec : List (List Byte) := []
  /-- FAC_IDENT_REQs forwarded that no HST_IDENT has answered and whose 100 ms run (02 R72). -/
  identWait : Nat := 0
  /-- Frames discarded as duplicates (02 R65). -/
  dups : Nat := 0
  /-- Frames the FC discarded (bad CRC, TYPE or idle gap) (02 R62). -/
  discards : Nat := 0
  /-- Frames the FC abandoned (02 R64). -/
  abandoned : Nat := 0
deriving DecidableEq, Repr, Inhabited

/-- Host-side supplies. -/
structure Rails where
  /-- Bus converter enabled (02 R40). -/
  converter : Bool := true
  /-- Rails of Table 03-1 whose power-good is asserted, in order (03 R74). -/
  pg : Nat := 6
  /-- Every power-good has been deasserted for 10 ms (03 R75). -/
  offTenMs : Bool := false
  /-- An enable waits for the 10 ms (03 R75). -/
  pendingEnable : Bool := false
  /-- Host-side sequencer latched off after a STOP of domain 5 (17 R380). -/
  latchedOff : Bool := false
  /-- Rails held off after a TRIP (17 R383). -/
  tripHold : Bool := false
  /-- SMBus responder answers (02 R54). -/
  smbReady : Bool := false
deriving DecidableEq, Repr, Inhabited

/-- The Supervisor's end of the barrier. -/
structure Sup where
  /-- Next transmit SEQ (02 R65). -/
  seq : BitVec 8 := 0
  /-- SEQ of the last frame accepted (02 R65). -/
  rxLast : Option (BitVec 8) := none
  /-- Acked frames not yet acknowledged (02 R64). -/
  unacked : List Unacked := []
  /-- Frames discarded as duplicates (02 R65). -/
  dups : Nat := 0
  /-- Flow of the last FAC_STATUS or FAC_COOLANT (02 R63). -/
  flow : BitVec 16 := 0
  /-- Inlet of the last FAC_STATUS (17 R381). -/
  facIn : BitVec 16 := 0
  /-- Outlet of the last FAC_STATUS (17 R381). -/
  facOut : BitVec 16 := 0
  /-- Flow of the last FAC_STATUS (17 R381). -/
  facFlow : BitVec 16 := 0
deriving DecidableEq, Repr, Inhabited

/-- The PWR block. -/
structure Pwr where
  /-- VOP field of a site (02 R73 PWR_VOP.Sn). -/
  vop : Tbl (BitVec 3) := []
  /-- VOP the VDD_CORE rail of a site holds now (02 R49). -/
  rail : Tbl (BitVec 3) := []
  /-- VOP change in progress (02 R73 PWR_VOP.BUSY). -/
  busy : BitVec 6 := 0
  /-- VOP changes in progress and waiting, in order (12 SET_VOP decided case). -/
  vopQ : List VopJob := []
  /-- Last FAC_STATUS V_in (02 R73 PWR_INPUT.V_IN). -/
  vIn : BitVec 16 := 0
  /-- Last FAC_STATUS I_in (02 R73 PWR_INPUT.I_IN). -/
  iIn : BitVec 16 := 0
  /-- Cap in force (02 R73 PWR_CAP.CAP_W). -/
  capW : BitVec 16 := 0xFFFF#16
  /-- 0 rack, 1 derived (02 R73 PWR_CAP.SOURCE). -/
  capSrc : BitVec 1 := 0
  /-- 0 none, 1 level 15, 2 HALT (02 R73 PWR_CAP.SHED). -/
  shed : BitVec 2 := 0
  /-- Barrier lost (02 R73 PWR_BARRIER.LOST). -/
  lost : Bool := true
  /-- Discarded frames, saturating, RC (02 R73 PWR_BARRIER.CRC_ERR). -/
  crcErr : BitVec 8 := 0
  /-- Skipped SEQ values, saturating, RC (02 R73 PWR_BARRIER.GAPS). -/
  gaps : BitVec 8 := 0
  /-- Abandoned frames, saturating, RC (02 R73 PWR_BARRIER.UNACKED). -/
  unackedN : BitVec 8 := 0
  /-- Inlet temperature (02 R73 PWR_COOLANT.INLET). -/
  inlet : BitVec 16 := 0
  /-- Outlet temperature (02 R73 PWR_COOLANT.OUTLET). -/
  outlet : BitVec 16 := 0
  /-- CAP_CHANGED, SHED, COOLANT, ISOLATE_WARN, BARRIER_LOST, IDENT_REQ from bit 0 (02 R73 PWR_EVENT). -/
  evt : BitVec 6 := 0
  /-- Requested cap (02 R73 PWR_REQ.REQ_W). -/
  reqW : BitVec 16 := 0
  /-- Awaiting FAC_ACK (02 R73 PWR_REQ.PENDING). -/
  pending : Bool := false
  /-- Request abandoned (02 R73 PWR_REQ.FAILED). -/
  failed : Bool := false
  /-- Timebase at which the isolate count ends (02 R68 PWR_ISOLATE). -/
  isoUntil : Option Nat := none
  /-- A FAC_SHED_NOW with MODE 0 is in force, so the facility level stays at 15 (02 R67). -/
  shed0 : Bool := false
  /-- Facility source at HALT by the isolate point (02 R68). -/
  isoHalt : Bool := false
deriving DecidableEq, Repr, Inhabited

/-- One SYS_PACE entry. -/
structure PaceMon where
  /-- Count of the last window, kHz (04 R110 SYS_PACE.PACE). -/
  pace : BitVec 24 := 0
  /-- Window sequence (04 R110 SYS_PACE.WIN). -/
  win : BitVec 7 := 0
  /-- A full window has been latched (04 R110 SYS_PACE.VALID). -/
  valid : Bool := false
deriving DecidableEq, Repr, Inhabited

/-- The timebase. -/
structure TimeB where
  /-- Counter running (04 R101). -/
  running : Bool := false
  /-- The 64-bit counter (kept below 2^64) (04 R101 SYS_TIME). -/
  base : Nat := 0
  /-- How far each die's replica counter is from the counter on IOD0, as FUSE aligned it (04 R102). -/
  rep : Tbl Int := []
  /-- PLL locked to REFCLK (04 R110 SYS_TIME_STAT.LOCKED). -/
  locked : Bool := false
  /-- Running on the internal oscillator (04 R110 SYS_TIME_STAT.HOLDOVER). -/
  holdover : Bool := false
  /-- Holdover has occurred, W1C from PF (04 R110 SYS_TIME_STAT.HOLDOVER_SEEN). -/
  holdSeen : Bool := false
  /-- Upper half latched by a LO read (04 R103 SYS_TIME_HI). -/
  shadow : Tbl (BitVec 32) := []
  /-- Pace monitors (04 R110). -/
  pace : Tbl PaceMon := []
  /-- Timebase of the last thermal scan (17 R366). -/
  scanAt : Nat := 0
  /-- Timebase at which the last pace window closed (04 R98). -/
  paceAt : Nat := 0
deriving DecidableEq, Repr, Inhabited

/-- Identity, power-up and Touchmark state. -/
structure Sys where
  /-- Fuses of IOD0 loaded (21 R440). -/
  fuseLoaded : Bool := false
  /-- Phase in progress, 0xF failed (03 R92 SYS_STATE.PHASE). -/
  phase : BitVec 4 := 1
  /-- SYS_READY (03 R92 SYS_STATE.READY). -/
  ready : Bool := false
  /-- SYS_READY follows a warm restart (03 R92 SYS_STATE.WARM). -/
  warm : Bool := false
  /-- 0 none, 1 IOD0 fuse load, 2 thermal STOP (03 R92 SYS_STATE.FAIL_CAUSE). -/
  failCause : BitVec 4 := 0
  /-- SYS_READY has been set since power-up (20 R425). -/
  everReady : Bool := false
  /-- A warm restart waits (PERST# still asserted) or runs (03 R90). -/
  warmPend : Bool := false
  /-- Timebase of the event that began the warm restart (03 R92 SYS_STAMP_READY). -/
  warmStart : Option Nat := none
  /-- End of FUSE (03 R92 SYS_STAMP_FUSE). -/
  stFuse : BitVec 32 := 0
  /-- End of ZF (03 R92 SYS_STAMP_ZF). -/
  stZf : BitVec 32 := 0
  /-- End of MEM (03 R92 SYS_STAMP_MEM). -/
  stMem : BitVec 32 := 0
  /-- End of ASSAY (03 R92 SYS_STAMP_ASSAY). -/
  stAssay : BitVec 32 := 0
  /-- SYS_READY set (03 R92 SYS_STAMP_READY). -/
  stReady : BitVec 32 := 0
  /-- Cores substituted (03 R92 SYS_ASSAY.CORE_SUBST). -/
  subst : BitVec 8 := 0
  /-- Cores removed in the sequence (03 R92 SYS_ASSAY.CORE_FENCED). -/
  coreFenced : BitVec 8 := 0
  /-- DMA complexes fenced (03 R92 SYS_ASSAY.DMA_FENCED). -/
  dmaFenced : BitVec 4 := 0
  /-- KPMs fenced (03 R92 SYS_ASSAY.KPM_FENCED). -/
  kpmFenced : BitVec 3 := 0
  /-- Links fenced (03 R92 SYS_ASSAY.LINK_FENCED). -/
  linkFenced : BitVec 7 := 0
  /-- A cause was set during the sequence (03 R92 SYS_ASSAY.CLASS_BROKEN). -/
  classBroken : Bool := false
  /-- Dies whose fuse load failed, taken as ZF mismatch (03 R76). -/
  dieFailed : BitVec 6 := 0
  /-- Site state of Table 01-9 (01 R35 SYS_SITE_STATE). -/
  site : Tbl (BitVec 4) := []
  /-- Stacks in service (01 R35 SYS_HBM_MAP.ACTIVE). -/
  hbmActive : BitVec 12 := 0
  /-- Logical cores in service (01 R35 SYS_LIVE.LIVE_CORES). -/
  liveCores : BitVec 10 := 0
  /-- Links exposed and not fenced (01 R35 SYS_LIVE.LIVE_LINKS). -/
  liveLinks : BitVec 7 := 0
  /-- Stacks counted in ACTIVE (01 R35 SYS_LIVE.LIVE_HBM). -/
  liveHbm : BitVec 5 := 0
  /-- SITE, PARTNER, CORE, DMA, KPM, LINK, HBM, STACK from bit 0 (20 R432 TMK_STATE.CAUSE). -/
  cause : BitVec 8 := 0
  /-- W1C (20 R432 TMK_EVT.BROKEN). -/
  tmkEvt : Bool := false
  /-- Own node ID (09 R219 SYS_NODE.ID). -/
  node : BitVec 8 := 0xFF#8
  /-- A write to ID was ignored, W1C (09 R219 SYS_NODE.REFUSED). -/
  nodeRef : Bool := false
deriving DecidableEq, Repr, Inhabited

/-- An entry of an MSI-X table, as the PCIe Base Specification lays it out (21 Table 21-1). -/
structure MsixEntry where
  /-- Message address. -/
  addr : BitVec 64 := 0
  /-- Message data. -/
  data : BitVec 32 := 0
  /-- Mask bit; PCIe sets it at reset. -/
  masked : Bool := true
  /-- Pending bit of the PBA. -/
  pending : Bool := false
deriving DecidableEq, Repr, Inhabited

/-- The PCIe controller as far as the spec describes it. -/
structure Pcie where
  /-- Memory Space Enable (03 R446). -/
  mse : Tbl Bool := []
  /-- SR-IOV VF Enable (03 R91). -/
  vfEnable : Bool := false
  /-- BAR4 size (21 R433). -/
  bar4 : Tbl Nat := []
  /-- MSI-X tables in BAR2, under 128 x function + vector: 17 entries of the physical function, 65 of a VF (21 Table 21-1). -/
  msix : Tbl MsixEntry := []
deriving DecidableEq, Repr, Inhabited

/-- One temperature sensor. -/
structure Sensor where
  /-- Last reading (17 R385 THM_SENSOR.RAW). -/
  raw : Int := 0
  /-- Last reading out of range or no conversion (17 R366). -/
  oor : Bool := false
  /-- Voted out (17 R385 THM_SENSOR.SUSPECT). -/
  suspect : Bool := false
  /-- Good scans since marked (17 R369). -/
  good : Nat := 0
  /-- Out of range in HOT mode (17 R385 THM_SENSOR.BROKEN). -/
  broken : Bool := false
  /-- Effective reading (17 R385 THM_SENSOR_EFF.EFF). -/
  eff : Int := 0
  /-- Read once since supplies valid (17 R80). -/
  seen : Bool := false
deriving DecidableEq, Repr, Inhabited

/-- A stop record and its progress (17 R378). -/
structure StopRec where
  /-- The record (17 R381 THM_STOP_REC_n). -/
  bytes : List Byte := []
  /-- Class that reached STOP (17 R381). -/
  cls : BitVec 2 := 0
  /-- Sensor that reached STOP (17 R381). -/
  idx : BitVec 8 := 0
  /-- Triggering effective reading (17 R381). -/
  tj : Int := 0
  /-- End of the scan (17 R381). -/
  atT : Nat := 0
  /-- Hottest effective reading per class at the scan (17 R381). -/
  hot : List Int := []
  /-- FLAGS bits found at the scan (17 R381). -/
  flags : BitVec 8 := 0
  /-- Effective level at the scan (17 R381). -/
  level : BitVec 4 := 0
  /-- Packets cancelled (17 R381). -/
  cancelled : Nat := 0
  /-- Record written (17 R378). -/
  written : Bool := false
deriving DecidableEq, Repr, Inhabited

/-- One thermal domain. -/
structure Domain where
  /-- 0 absent, 1 start-hot, 2 running, 3 stopped (17 R385 THM_DOM_STATE_n.STATE). -/
  st : BitVec 3 := 1
  /-- Eng per class code (17 R385 THM_DOM_STATE_n.ENGAGED). -/
  eng : BitVec 4 := 0
  /-- Classes at or above WARN (17 R372). -/
  warn : BitVec 4 := 0
  /-- Hottest effective reading per class (17 R385 THM_DOM_n). -/
  hot : Tbl Int := []
  /-- A STOP has begun (17 R378). -/
  stopping : Bool := false
  /-- Thermal source (17 R385 ESC_DOM_n.THERMAL). -/
  thermal : BitVec 4 := 15
  /-- Host source level (17 R385 ESC_REQ_n.LEVEL). -/
  hostLvl : BitVec 4 := 0
  /-- Host source HALT (17 R385 ESC_REQ_n.HALT). -/
  hostHalt : Bool := false
  /-- Last writer of the host source (17 R385 ESC_REQ_n.OWNER). -/
  hostOwner : BitVec 4 := 8
  /-- The domain's stop record (17 R378). -/
  srec : StopRec := {}
deriving DecidableEq, Repr, Inhabited

/-- Thermal supervision. -/
structure Thm where
  /-- LOGIC_HOT, DRAM_HOT (17 R385 THM_CTL). -/
  ctl : BitVec 2 := 0
  /-- THM_CTL in effect since the last scan (17 R370). -/
  ctlEff : BitVec 2 := 0
  /-- WARN, ESC, STOP, SUSPECT, BROKEN, START_HOT_EXIT from bit 0 (17 R385 THM_EVT). -/
  evt : BitVec 6 := 0
  /-- A trip has occurred, W1C (17 R385 THM_TRIP.STICKY). -/
  trip : Bool := false
  /-- Domain of the first trip (17 R385 THM_TRIP.DOMAIN). -/
  tripDom : BitVec 3 := 0
  /-- Class of the first trip (17 R385 THM_TRIP.CLASS). -/
  tripCls : BitVec 2 := 0
  /-- Always-on copy of the last HST_STATUS payload (17 R383). -/
  aon : List Byte := []
  /-- Timebase of that copy (17 R381). -/
  aonAt : Nat := 0
  /-- DOMAIN [2:0], CLASS [5:4], INDEX [14:8] (17 R385 THM_SEL). -/
  sel : BitVec 15 := 0
  /-- Sensors (17 R365). -/
  sens : Tbl Sensor := []
  /-- Domains (17 R365). -/
  dom : Tbl Domain := []
  /-- Facility level, common to all domains (17 R385 ESC_DOM_n.FACILITY). -/
  facLvl : BitVec 4 := 0
  /-- Estimated power (17 R385 ESC_PWR.P_EST). -/
  pEst : BitVec 16 := 0
deriving DecidableEq, Repr, Inhabited

/-- A logical core's slice and its lanes. -/
structure Slice where
  /-- 0 normal, 1 read-only, 2 fenced, 3 not populated (06 R158 SLC_CORE.STATE). -/
  st : BitVec 2 := 0
  /-- Data spares in use per octant (06 R158 SLC_CORE.DATA_SPARES_USED). -/
  dataUsed : Tbl Nat := []
  /-- CA spares in use per octant: (spare 12 or 13, working lane it serves) (06 R153, R158 SLC_CORE.CA_SPARES_USED). -/
  caSteer : Tbl (List (Nat × Nat)) := []
  /-- Data lanes replaced by a spare (06 R152). -/
  steered : List Nat := []
  /-- Corrections attributed in this pass (06 R151). -/
  tally : List (Nat × Nat × Nat) := []
  /-- Octants with a repair sweep running (06 R152). -/
  sweeping : List Nat := []
  /-- CA parity errors of the last 1 ms (06 R153). -/
  caTimes : Tbl (List Nat) := []
  /-- When T_EVAC expires (06 R155). -/
  evacAt : Option Nat := none
  /-- Next burst the scrubber reads (06 R150). -/
  burst : Nat := 0
  /-- Passes the scrubber of this slice has ended (06 R150). -/
  passes : Nat := 0
deriving DecidableEq, Repr, Inhabited

/-- The SLC block and every slice. -/
structure Slc where
  /-- CE, UE, POISON_READ, LANE_FAULT, CA_FAULT, READ_ONLY, FENCED, STACK_LOST from bit 0 (06 R158 SLC_EVT). -/
  evt : BitVec 8 := 0
  /-- CLASS, SOURCE, SEQ, BIT, LANE (06 R158 SLC_LAST_INFO). -/
  lastInfo : BitVec 32 := 0
  /-- DPA of the word (06 R158 SLC_LAST_ADDR_LO, _HI). -/
  lastAddr : BitVec 56 := 0
  /-- Completed passes (06 R158 SLC_SCRUB.PASS). -/
  pass : BitVec 16 := 0
  /-- Core for FENCE_NOW (06 R158 SLC_CTL.CORE). -/
  ctlCore : BitVec 6 := 0
  /-- Site for FENCE_NOW (06 R158 SLC_CTL.SITE). -/
  ctlSite : BitVec 3 := 0
  /-- Slices (06 R134). -/
  slices : Tbl Slice := []
  /-- Physical core a logical core occupies now; unlisted: as built (03 R83). -/
  phys : Tbl Nat := []
  /-- Standby cores left; unlisted: as built (03 R83). -/
  standby : Tbl (List Nat) := []
  /-- Refresh commands given to each octant of each layer (06 R141). -/
  refresh : Nat := 0
  /-- Compute stacks lost (06 R157). -/
  lost : BitVec 6 := 0
deriving DecidableEq, Repr, Inhabited

/-- One HBM stack. -/
structure HbmStat where
  /-- Pseudo-channels active (07 R176 HBM_STACK_PC.ACTIVE). -/
  active : BitVec 32 := 0
  /-- Last reading in range (07 R176 HBM_STACK_STAT.TEMP). -/
  temp : BitVec 8 := 0
  /-- 0 = broken (07 R176 HBM_STACK_STAT.SENSOR_OK). -/
  sensorOk : Bool := false
  /-- Trained in phase MEM (07 R176 HBM_STACK_STAT.TRAINED). -/
  trained : Bool := false
  /-- On-die corrections, saturating, RC (07 R176 HBM_STACK_STAT.ONDIE_CE). -/
  ondieCe : BitVec 16 := 0
  /-- Rows classed uncorrectable in this pass (07 R171). -/
  rows : List (Nat × Nat) := []
  /-- Next word the patrol reads (07 R166). -/
  word : Tbl Nat := []
  /-- Passes ended per pseudo-channel (07 R166). -/
  passes : Tbl Nat := []
deriving DecidableEq, Repr, Inhabited

/-- One entry of the interleave list (07 R168). -/
structure FormEntry where
  /-- HBM site (07 R168). -/
  h : Nat := 0
  /-- Pseudo-channel (07 R168). -/
  pc : Nat := 0
  /-- Interleaved part (07 R168). -/
  inter : Nat := 0
  /-- Affine part (07 R169). -/
  aff : Nat := 0
deriving DecidableEq, Repr, Inhabited

/-- The HBM block and every stack. -/
structure Hbm where
  /-- CE, UE, POISON_READ, ONDIE_UE, PC_MAPPED_OUT, STACK_LOST, CA_FAULT, SENSOR_FAULT, REFORMED from bit 0 (07 R176 HBM_EVT). -/
  evt : BitVec 9 := 0
  /-- CLASS, SOURCE, SEQ, BIT, PC, STACK (07 R176 HBM_LAST_INFO). -/
  lastInfo : BitVec 32 := 0
  /-- DPA of the word (07 R176 HBM_LAST_ADDR_LO, _HI). -/
  lastAddr : BitVec 56 := 0
  /-- Completed passes (07 R176 HBM_SCRUB.PASS). -/
  pass : BitVec 16 := 0
  /-- A REFORM was ignored, W1C (07 R176 HBM_CTL.REFUSED). -/
  refused : Bool := false
  /-- Re-form in progress (07 R176 HBM_CTL.BUSY). -/
  busy : Bool := false
  /-- Sixteenths asked for (07 R176 HBM_AFFINE_n.SHARE). -/
  share : Tbl (BitVec 5) := []
  /-- Interleave list of the last re-form (07 R168). -/
  form : List FormEntry := []
  /-- Formed extent less mapped-out capacity (07 R176 HBM_CAP.USABLE). -/
  usable : BitVec 16 := 0
  /-- Stacks (07 R176). -/
  stk : Tbl HbmStat := []
  /-- All-bank refreshes given to each pseudo-channel (07 R162). -/
  refresh : Nat := 0
deriving DecidableEq, Repr, Inhabited

/-- One line of a Remote Line Cache. -/
structure RlcLine where
  /-- Compute stack that holds it (08 R184). -/
  site : Nat := 0
  /-- DPA[55:8] (08 R184). -/
  tag : Nat := 0
  /-- Partition of the reader, 8 management domain (08 R184). -/
  owner : Nat := 0
  /-- Line data (08 R184). -/
  data : List Byte := []
deriving DecidableEq, Repr, Inhabited

/-- One ZF port pair. -/
structure ZfPort where
  /-- 0 absent, 1 up, 2 disabled, 3 down (08 R195 ZF_PORT_j.STATE). -/
  st : BitVec 2 := 0
  /-- Parity failures, saturating, RC (08 R195 ZF_PORT_j.PARITY_ERR). -/
  parityErr : BitVec 8 := 0
  /-- Flits sent again, saturating, RC (08 R195 ZF_PORT_j.REPLAYS). -/
  replays : BitVec 16 := 0
  /-- Parity failures of the last 1 ms (08 R181). -/
  fails : List Nat := []
deriving DecidableEq, Repr, Inhabited

/-- An outstanding partner request. -/
structure PrtReq where
  /-- TAG once it is sent (08 R191). -/
  ptag : Option Nat := none
  /-- Write (08 R191). -/
  wr : Bool := false
  /-- Window offset (08 R191). -/
  addr : Nat := 0
  /-- Bytes (08 R191). -/
  len : Nat := 64
  /-- DMA complex that waits for it (08 R192). -/
  cplx : Nat := 0
  /-- DMA channel that waits for it (08 R192). -/
  ch : Nat := 0
  /-- Offset of the piece within the transfer (08 R192). -/
  off : Nat := 0
  /-- Bytes of the transfer the piece carries (08 R192). -/
  take : Nat := 0
  /-- Leading bytes of the message outside the transfer (08 R192). -/
  skip : Nat := 0
  /-- Timed out; a later response counts as LATE_RSP (08 R192). -/
  dead : Bool := false
  /-- A unit's own access, answered within its command; only its TAG is awaited (log 56). -/
  sync : Bool := false
  /-- Data slots of a write not yet sent (08 R191). -/
  data : List Byte := []
  /-- Queue of the DMA packet (08 R192). -/
  q : QRef := .mgmt 0
  /-- Tag of the DMA packet (08 R192). -/
  tag : BitVec 16 := 0
  /-- Number of the DMA packet (10 R230). -/
  ord : Nat := 0
  /-- Descriptor of the DMA packet it belongs to (13 R290). -/
  dno : Nat := 0
deriving DecidableEq, Repr, Inhabited

/-- The ZF and PRT blocks, routes, RLC and stream trees. -/
structure Zf where
  /-- Port pairs (08 R195). -/
  ports : Tbl ZfPort := []
  /-- PORT_FAILED, ROUTE_REFORMED, RLC_UE from bit 0 (08 R195 ZF_EVT). -/
  evt : BitVec 3 := 0
  /-- Purge in progress (08 R195 ZF_RLC_CTL.BUSY). -/
  rlcBusy : Bool := false
  /-- Lines of every RLC (08 R184). -/
  rlc : List RlcLine := []
  /-- Route between two dies, both ends included (08 R180). -/
  routes : Tbl (List Nat) := []
  /-- 0 absent, 1 negotiating, 2 ready, 3 failed (08 R195 PRT_STATE.STATE). -/
  prtSt : BitVec 3 := 0
  /-- 0 16 GT/s, 1 32 GT/s (08 R195 PRT_STATE.RATE). -/
  prtRate : BitVec 1 := 0
  /-- Table 08-6 (08 R195 PRT_STATE.CAUSE). -/
  prtCause : BitVec 4 := 0
  /-- Agreed FLAGS (08 R195 PRT_STATE.INITIATOR). -/
  prtInit : Bool := false
  /-- Agreed FLAGS (08 R195 PRT_STATE.WRITE). -/
  prtWrite : Bool := false
  /-- Agreed MAX_OUT - 1 (08 R195 PRT_STATE.MAX_OUT). -/
  prtMaxOut : BitVec 9 := 0
  /-- Agreed MAX_LEN: true = 256 bytes (08 R189). -/
  prtMaxLen : Bool := false
  /-- Window, MiB (08 R195 PRT_WINDOW). -/
  prtWindow : BitVec 32 := 0
  /-- First 8 digest bytes, little-endian (08 R195 PRT_DIGEST_LO, _HI). -/
  prtDigest : BitVec 64 := 0
  /-- Aperture base (08 R195 PRT_IN_BASE_LO, _HI). -/
  inBase : BitVec 56 := 0
  /-- Aperture, MiB (08 R195 PRT_IN_SIZE). -/
  inSize : BitVec 25 := 0
  /-- Saturating, RC (08 R195 PRT_ERR.TIMEOUT). -/
  errTimeout : BitVec 8 := 0
  /-- Saturating, RC (08 R195 PRT_ERR.CRC_ERR). -/
  errCrc : BitVec 8 := 0
  /-- Saturating, RC (08 R195 PRT_ERR.LATE_RSP). -/
  errLate : BitVec 8 := 0
  /-- Saturating, RC (08 R195 PRT_ERR.REFUSED_IN). -/
  errRefused : BitVec 8 := 0
  /-- Outstanding partner requests (08 R192). -/
  reqs : List PrtReq := []
deriving DecidableEq, Repr, Inhabited

/-- A translation context register pair. -/
structure Ctx where
  /-- Context valid (09 R219 PART_CTX_LO_k.VALID, TRN_PM_CTX_LO_k.VALID). -/
  valid : Bool := false
  /-- L1 table DPA (09 R219 .ROOT). -/
  root : BitVec 56 := 0
deriving DecidableEq, Repr, Inhabited

/-- One partition and the registers kept per partition. -/
structure Part where
  /-- 0 absent, 1 active, 2 resizing, 3 destroying (09 R219 PART_STATE.STATE). -/
  st : BitVec 2 := 0
  /-- Queues held (09 R219 PART_STATE.QUEUES). -/
  queues : BitVec 7 := 0
  /-- Core groups held (09 R219 PART_CORES_LO, _HI). -/
  groups : BitVec 48 := 0
  /-- HBM units held (09 R219 PART_HBM.UNITS). -/
  units : BitVec 27 := 0
  /-- Affine pools held (09 R219 PART_AFFINE.SITES). -/
  affine : BitVec 6 := 0
  /-- Partner window held (09 R219 PART_AFFINE.PARTNER). -/
  partner : Bool := false
  /-- Core groups that a PART_RESIZE which runs will add (09 R216). -/
  addGroups : BitVec 48 := 0
  /-- HBM units it will add (09 R216). -/
  addUnits : BitVec 27 := 0
  /-- Affine pools it will add (09 R216). -/
  addAffine : BitVec 6 := 0
  /-- It will add the partner window (09 R216). -/
  addPartner : Bool := false
  /-- Saturating, RC (09 R219 PART_XLT_ERR.UNMAPPED). -/
  xltUnm : BitVec 16 := 0
  /-- Saturating, RC (09 R219 PART_XLT_ERR.PERM). -/
  xltPerm : BitVec 16 := 0
  /-- Contexts (09 R219 PART_CTX_k). -/
  ctx : Tbl Ctx := []
  /-- Saturating, RC (10 R238 PART_ORD_RSV.LOST). -/
  rsvLost : BitVec 16 := 0
  /-- Saturating, RC (10 R238 PART_ORD_RSV.EXCL). -/
  rsvExcl : BitVec 16 := 0
  /-- Saturating, RC (10 R238 PART_ORD_SB.STALLS). -/
  sbStalls : BitVec 16 := 0
  /-- Saturating, RC (10 R238 PART_ORD_SB.FULL). -/
  sbFull : BitVec 16 := 0
  /-- Deterministic mode (05 R133 TRN_MODE.DET). -/
  det : Bool := true
  /-- Saturate overflow (05 R133 TRN_MODE.OUT_SAT). -/
  outSat : Bool := false
  /-- Issuing stream of a queue (14 R317 KPM_QSTREAM). -/
  streams : Tbl (BitVec 13) := []
  /-- Empty rows, saturating, RC (15 R342 ATU_PART_EMPTY). -/
  empty : BitVec 32 := 0
  /-- Saturating, RC (15 R342 ATU_PART_VERIFY.DONE). -/
  vDone : BitVec 16 := 0
  /-- Saturating, RC (15 R342 ATU_PART_VERIFY.ROLLED_BACK). -/
  vRolled : BitVec 16 := 0
  /-- Saturating, RC (15 R342 ATU_PART_ACCEPT). -/
  accepted : BitVec 32 := 0
deriving DecidableEq, Repr, Inhabited

/-- One entry of a completed-tag window (11 R252). -/
structure WinEntry where
  /-- TAG (11 R252). -/
  tag : BitVec 16 := 0
  /-- OPC (11 R252). -/
  opc : BitVec 8 := 0
  /-- STATUS (11 R252). -/
  status : BitVec 16 := 0
  /-- RESULT (11 R252). -/
  result : BitVec 64 := 0
deriving DecidableEq, Repr, Inhabited

/-- One queue. -/
structure Queue where
  /-- Enabled (11 R260 Q_CTL.ENABLE). -/
  enable : Bool := false
  /-- Bound context (11 R260 Q_CTL.CTX). -/
  ctx : BitVec 4 := 0
  /-- Submission ring (11 R260 Q_SQ_BASE_LO, _HI). -/
  sqBase : BitVec 56 := 0
  /-- Completion ring (11 R260 Q_CQ_BASE_LO, _HI). -/
  cqBase : BitVec 56 := 0
  /-- Submission ring size (11 R260 Q_SIZE.SQ_LOG2). -/
  sqLog2 : BitVec 5 := 4
  /-- Completion ring size (11 R260 Q_SIZE.CQ_LOG2). -/
  cqLog2 : BitVec 5 := 4
  /-- Interrupts enabled (11 R260 Q_IRQ.EN). -/
  irqEn : Bool := false
  /-- Vector (11 R260 Q_IRQ.VECTOR). -/
  irqVec : BitVec 7 := 0
  /-- Entries per message minus 1 (11 R260 Q_IRQ.COUNT). -/
  irqCount : BitVec 8 := 0
  /-- Time trigger, us (11 R260 Q_IRQ.TIME). -/
  irqTime : BitVec 16 := 0
  /-- Next slot to be taken (11 R260 Q_SQ_HEAD). -/
  sqHead : BitVec 16 := 0
  /-- Last accepted doorbell (11 R260 Q_SQ_TAIL). -/
  sqTail : BitVec 16 := 0
  /-- Next entry to be written (11 R260 Q_CQ_TAIL). -/
  cqTail : BitVec 16 := 0
  /-- Last CQ_HEAD doorbell (11 R260 Q_CQ_HEAD). -/
  cqHead : BitVec 16 := 0
  /-- 0 disabled, 1 running, 2 aborting, 3 error (11 R260 Q_STAT.STATE). -/
  st : BitVec 2 := 0
  /-- Why it is not running (11 R260 Q_STAT.CAUSE). -/
  cause : BitVec 3 := 0
  /-- Ignored doorbells, saturating, RC (11 R260 Q_STAT.BAD_DB). -/
  badDb : BitVec 8 := 0
  /-- Outcome of Q_CTL.ABORT (11 R260 Q_STAT.LAST_ABORT). -/
  lastAbort : BitVec 2 := 0
  /-- Resubmission hits, saturating, RC (11 R260 Q_CNT.REPLAYED). -/
  replayed : BitVec 16 := 0
  /-- Packets cancelled, saturating, RC (11 R260 Q_CNT.ABORTED). -/
  aborted : BitVec 16 := 0
  /-- Completed-tag window (11 R252). -/
  window : List WinEntry := []
  /-- Entries written since the last message (11 R245). -/
  unsig : Nat := 0
  /-- Stamp of the oldest entry not yet signalled (11 R245). -/
  oldest : Option Nat := none
  /-- Doorbell held by an ABORT (11 R255). -/
  heldTail : Option (BitVec 16) := none
  /-- Last tag taken (18 R401). -/
  lastTaken : BitVec 16 := 0
  /-- Last tag completed (18 R401). -/
  lastDone : BitVec 16 := 0
  /-- Slots of ABORT packets already acted on, and of packets cancelled in the ring (11 R255). -/
  skip : List Nat := []
deriving DecidableEq, Repr, Inhabited

/-- A SEQ_TABLE entry captured at queue time (15 R319). -/
structure SeqEntry where
  /-- First row of Q (12 R272). -/
  qRow : Nat := 0
  /-- Rows (12 R272). -/
  qLen : Nat := 0
  /-- Committed keys (12 R272). -/
  kvLen : Nat := 0
  /-- DPA of the page list (12 R272). -/
  pages : Nat := 0
deriving DecidableEq, Repr, Inhabited

/-- A stream tree: the HBM controller's die it starts from, and its destinations (08 R182). -/
structure StreamTree where
  /-- Die of the source, an HBM controller (08 R182). -/
  src : Nat := 0
  /-- Destinations: site, and cores of it (08 R182). -/
  dests : List (Nat × List Nat) := []
  /-- Bytes that each destination receives (08 R183). -/
  bytes : Nat := 0
deriving DecidableEq, Repr, Inhabited

/-- A packet taken and not completed. -/
structure Pkt where
  /-- Its queue (11 R243). -/
  q : QRef := .mgmt 0
  /-- TAG (11 R246). -/
  tag : BitVec 16 := 0
  /-- OPC (11 R246). -/
  opc : BitVec 8 := 0
  /-- FLG (11 R246). -/
  flg : BitVec 8 := 0
  /-- QOS (11 R246). -/
  qos : BitVec 8 := 0
  /-- DEP (11 R246). -/
  dep : BitVec 16 := 0
  /-- The packet and its extension blocks (11 R246). -/
  words : List (BitVec 64) := []
  /-- Order in which packets were taken (11 R244). -/
  ord : Nat := 0
  /-- Context of its queue when it was taken (09 R203, 12 R273). -/
  ctx : Nat := 0
  /-- Memory ranges it writes, as the scoreboard of a core counts them (05 R114). -/
  nwr : Nat := 0
  /-- DVA ranges it named: first DVA, bytes (09 R207). -/
  dvas : List (Nat × Nat) := []
  /-- FLUSH: completed packets of its scope whose writes were still outstanding when it was taken (10 R230). -/
  flush : List Nat := []
  /-- Order in which packets started (14 R303). -/
  startNo : Nat := 0
  /-- The packet DEP named when this one was taken (11 R248). -/
  depOrd : Option Nat := none
  /-- Captured numeric mode (05 R128). -/
  det : Bool := true
  /-- Captured OUT_SAT (05 R128). -/
  outSat : Bool := false
  /-- Captured translations (09 R203). -/
  leaves : List Leaf := []
  /-- Captured SEQ_TABLE (15 R319). -/
  seqs : List SeqEntry := []
  /-- TARGET header as captured (15 R335). -/
  hdr : List Byte := []
  /-- Taken, started, done, resub (11 R248). -/
  phase : PktPhase := .taken
  /-- STATUS once done (11 R249). -/
  status : BitVec 16 := 0
  /-- RESULT once done (11 R249). -/
  result : BitVec 64 := 0
  /-- The ranges it names, as captured DPAs (05 R114). -/
  uses : List (Nat × Nat × Bool) := []
  /-- Ranges it wrote (18 R397). -/
  wrote : List (Nat × Nat) := []
  /-- Digests still to be taken (18 R397). -/
  trig : List Nat := []
  /-- Core whose store buffer holds its writes (10 R225); of a packet on several cores the one that does the work at hand. -/
  core : Option Nat := none
  /-- Cores it runs on (05 R113). -/
  on : List Nat := []
  /-- Site of the KPM or DMA complex that serves it (08 R184). -/
  site : Option Nat := none
  /-- Stream trees it holds while it runs (08 R182, R183). -/
  trees : List StreamTree := []
  /-- Answered from the window (11 R252). -/
  hit : Bool := false
  /-- Status of the named packet once it completed (11 R248). -/
  depSt : BitVec 16 := 0
  /-- Dependency met (11 R248). -/
  depMet : Bool := true
  /-- WAIT: when TIMEOUT expires (12 R269). -/
  deadline : Option Nat := none
  /-- WAIT: last value read (12 R269). -/
  wanted : BitVec 64 := 0
  /-- Remote requests it waits for (16 R359). -/
  waitRid : Nat := 0
deriving DecidableEq, Repr, Inhabited

/-- An ABORT between its doorbell and its end. -/
structure AbortJob where
  /-- Queue that carries it, or whose register asked for it (11 R254). -/
  q : Option QRef := none
  /-- By Q_CTL.ABORT (11 R254). -/
  reg : Bool := false
  /-- TAG (11 R254). -/
  tag : BitVec 16 := 0
  /-- Ring slot of the packet (11 R255). -/
  slot : Nat := 0
  /-- Its number among the packets taken (11 R248). -/
  ord : Nat := 0
  /-- Queue, partition, device (11 R254). -/
  scope : Nat := 0
  /-- Queues in scope (11 R254). -/
  target : List QRef := []
  /-- Steps 1-5 done (11 R255). -/
  acted : Bool := false
  /-- Packets cancelled (11 R255). -/
  cancelled : Nat := 0
  /-- Units reset (11 R255). -/
  resets : Nat := 0
  /-- Packets whose unit is not quiescent yet (11 R255). -/
  stuck : List Nat := []
  /-- Packet, register, destroy or internal (09 R217). -/
  kind : AbortKind := .packet
  /-- Partition to destroy when it ends (09 R217). -/
  part : Nat := 0
  /-- Doorbell time (11 R255). -/
  start : Nat := 0
deriving DecidableEq, Repr, Inhabited

/-- A store-buffer entry. -/
structure SbEntry where
  /-- Block DPA (10 R225). -/
  blk : Nat := 0
  /-- Data; none = byte not written (10 R225). -/
  data : List (Option Byte) := []
  /-- Packet that wrote it (10 R225). -/
  ord : Nat := 0
  /-- Queue of that packet (10 R229). -/
  q : QRef := .mgmt 0
deriving DecidableEq, Repr, Inhabited

/-- A unit of a core. -/
structure CoreUnit where
  /-- Pause that still runs; 0 = none (17 R373). -/
  pause : Nat := 0
deriving DecidableEq, Repr, Inhabited

/-- A VERIFY whose stream runs. -/
structure RunVerify where
  /-- Its queue (12 R273). -/
  q : QRef := .mgmt 0
  /-- Its tag (12 R273). -/
  tag : BitVec 16 := 0
  /-- Stream packets run (12 R273). -/
  idx : Nat := 0
  /-- Offset of the next stream packet (12 R273). -/
  off : Nat := 0
  /-- Descriptors of recorded pages (15 R334). -/
  pages : List Nat := []
  /-- Recorded pages with tentative rows that it did not append (15 R333). -/
  mixed : List Nat := []
  /-- The tree as read (15 R331). -/
  tree : List TreeRec := []
  /-- TARGET header VOCAB (15 R335). -/
  vocab : Nat := 0
  /-- TARGET header FMT (15 R335). -/
  fmt : Nat := 8
  /-- TARGET header STRIDE (15 R335). -/
  stride : Nat := 64
  /-- TARGET header TEMP (15 R335). -/
  temp : BitVec 32 := 0
  /-- A correction was met (12 Table 12-2). -/
  corr : Bool := false
  /-- Every stream packet has completed (15 R336). -/
  ended : Bool := false
deriving DecidableEq, Repr, Inhabited

/-- One KPM pool. -/
structure Pool where
  /-- Enabled (14 R317 KPM_POOL_CTL.ENABLE). -/
  enable : Bool := false
  /-- True graded (14 R317 KPM_POOL_CTL.KIND). -/
  kind : Bool := false
  /-- Table 14-1 (14 R317 KPM_POOL_CTL.FMT). -/
  fmt : BitVec 4 := 0
  /-- True FP16 (14 R317 KPM_POOL_CTL.SCALE). -/
  scale : Bool := false
  /-- Initialised (14 R317 KPM_POOL_CTL.READY). -/
  ready : Bool := false
  /-- G (14 R317 KPM_POOL_CTL.HEADS). -/
  heads : BitVec 5 := 1
  /-- Head dimension code (14 R317 KPM_POOL_CTL.HD). -/
  hd : BitVec 3 := 0
  /-- Graded block size (14 R317 KPM_POOL_CTL.ARB_LOG2). -/
  arbLog2 : BitVec 4 := 0
  /-- 0-7 partition, 8 management (14 R317 KPM_POOL_CTL.OWNER). -/
  owner : BitVec 4 := 0
  /-- Node count (14 R317 KPM_POOL_CTL.NODES_LOG2). -/
  nodesLog2 : BitVec 5 := 4
  /-- W1C (14 R317 KPM_POOL_CTL.ERR). -/
  err : Bool := false
  /-- Page region (14 R317 KPM_POOL_BASE_LO, _HI). -/
  base : BitVec 56 := 0
  /-- Blocks (14 R317 KPM_POOL_SIZE.BLOCKS). -/
  blocks : BitVec 24 := 0
  /-- Descriptor table (14 R317 KPM_POOL_DESC_LO, _HI). -/
  desc : BitVec 56 := 0
  /-- Node area (14 R317 KPM_POOL_ARB_LO, _HI). -/
  arb : BitVec 56 := 0
  /-- LIVE nodes (14 R317 ARB_LIVE). -/
  live : BitVec 25 := 0
  /-- Saturating, RC (14 R317 ARB_CNT.COLLISIONS). -/
  coll : BitVec 16 := 0
  /-- Saturating, RC (14 R317 ARB_CNT.FULL). -/
  full : BitVec 16 := 0
  /-- Saturating, RC (14 R317 KPM_POOL_ERR.DOUBLE_FREE). -/
  dfree : BitVec 16 := 0
  /-- Saturating, RC (14 R317 KPM_POOL_ERR.NOT_OWNER). -/
  notOwn : BitVec 16 := 0
  /-- Pages allocated; KPM_POOL_FREE and KPM_POOL_LARGEST are computed from it (14 R298). -/
  alloc : List (Nat × Nat) := []
deriving DecidableEq, Repr, Inhabited

/-- A write that an exclusive hold keeps back: bytes within one word, or its poison (10 R235). -/
structure HeldW where
  /-- First byte. -/
  addr : Nat := 0
  /-- The bytes; of a poison write the 32 bytes it covers. -/
  bytes : List Byte := []
  /-- A poison write (06 R149). -/
  poison : Bool := false
  /-- Owner charged with the write; none for unattributed work. -/
  owner : Option Nat := none
  /-- Number of the packet that made it. -/
  ord : Option Nat := none
  /-- Queue of that packet (10 R229). -/
  q : Option QRef := none
  /-- A posted write of the host through BAR4 (10 R223). -/
  bar4 : Bool := false
  /-- Core from whose store buffer it was issued (10 R226). -/
  core : Option Nat := none
deriving DecidableEq, Repr, Inhabited

/-- A KPM operation slot. -/
structure KSlot where
  /-- 0 idle, 1 running, 2 retrying, 3 exclusive hold (18 R401). -/
  st : BitVec 2 := 0
  /-- Queue of its operation (18 R401). -/
  q : QRef := .mgmt 0
  /-- Tag of its operation (18 R401). -/
  tag : BitVec 16 := 0
  /-- Opcode (18 R401). -/
  opc : BitVec 8 := 0
  /-- Descriptor DPA (18 R401). -/
  desc : Nat := 0
  /-- Reserved granule (10 R233). -/
  gran : Option Nat := none
  /-- Granule taken exclusively (10 R235). -/
  excl : Option Nat := none
  /-- When the exclusive hold began (10 R235). -/
  exclAt : Nat := 0
  /-- Conditional-store failures in a row (10 R235). -/
  fails : Nat := 0
  /-- When the reserved load completed (10 R234). -/
  since : Nat := 0
deriving DecidableEq, Repr, Inhabited

/-- Every KPM and the KPM and ARB registers. -/
structure Kpm where
  /-- KPMs fenced by the Assay (03 R85). -/
  fenced : BitVec 6 := 0
  /-- Pools (14 R317). -/
  pools : Tbl Pool := []
  /-- Operation slots (10 R233). -/
  slots : Tbl KSlot := []
  /-- Writes held by an exclusive hold, oldest first (10 R235). -/
  held : List HeldW := []
  /-- Arbor keys in force (14 R317 ARB_KEY_p). -/
  keys : Tbl (BitVec 128) := []
  /-- Key words written, w = 0-2 (14 R317 ARB_KEY_p). -/
  keyW : Tbl (BitVec 32) := []
  /-- W1C (14 R317 ARB_KEY_STAT.REFUSED). -/
  keyRef : Bool := false
  /-- Descriptor DPA[55:32] (14 R317 KPM_PIN_HI). -/
  pinHi : Tbl (BitVec 24) := []
  /-- W1C (14 R317 KPM_PIN_LO.REFUSED). -/
  pinRef : Tbl Bool := []
  /-- DOUBLE_FREE, NOT_OWNER, POOL_EMPTY, ARB_FULL, COLLISION from bit 0 (14 R317 KPM_EVT). -/
  evt : BitVec 5 := 0
  /-- Descriptor of the last logged event (14 R317 KPM_LAST_LO, _HI). -/
  last : BitVec 56 := 0
deriving DecidableEq, Repr, Inhabited

/-- A buffer block. -/
structure DmaBlk where
  /-- Offset within the transfer (13 R281). -/
  off : Nat := 0
  /-- Bytes of the block (13 R281). -/
  want : Nat := 0
  /-- Bytes read so far, from the block's start (13 R281). -/
  data : List Byte := []
  /-- Remote or partner pieces received out of order (13 R283). -/
  pieces : List (Nat × List Byte) := []
  /-- Remote or partner reads issued (13 R283). -/
  reqd : Bool := false
deriving DecidableEq, Repr, Inhabited

/-- A channel's packet and descriptor. -/
structure DmaJob where
  /-- Queue (13 R280). -/
  q : QRef := .mgmt 0
  /-- Tag (13 R280). -/
  tag : BitVec 16 := 0
  /-- Number of the packet (10 R230). -/
  ord : Nat := 0
  /-- Descriptor DPA (13 R286). -/
  desc : Nat := 0
  /-- DMA_CHAIN (13 R290). -/
  chain : Bool := false
  /-- MAX (13 R290). -/
  maxD : Nat := 0
  /-- Descriptors completed (13 R290). -/
  doneD : Nat := 0
  /-- A descriptor is running (13 R286). -/
  active : Bool := false
  /-- SRC (13 R285). -/
  src : Nat := 0
  /-- DST (13 R285). -/
  dst : Nat := 0
  /-- BYTES (13 R285). -/
  bytes : Nat := 0
  /-- FENCE (13 R285). -/
  fence : Bool := false
  /-- CRC_GEN (13 R285). -/
  crcGen : Bool := false
  /-- CRC_APPEND (13 R285). -/
  crcApp : Bool := false
  /-- CRC_CHECK (13 R285). -/
  crcChk : Bool := false
  /-- CHECK_FROM_SRC (13 R285). -/
  fromSrc : Bool := false
  /-- NEXT (13 R285). -/
  next : Nat := 0
  /-- EXPECT (13 R285). -/
  expect : BitVec 32 := 0
  /-- Bytes claimed for reading (13 R281). -/
  rd : Nat := 0
  /-- Bytes written (13 R281). -/
  wr : Nat := 0
  /-- Running CRC-32C register (13 R287). -/
  crc : BitVec 32 := 0xFFFFFFFF#32
  /-- Buffer blocks held, ascending (13 R281). -/
  blocks : List DmaBlk := []
  /-- Status of the descriptor so far (13 Table 13-3). -/
  status : BitVec 16 := 0
  /-- First failing DPA (13 R291). -/
  failAt : Nat := 0
  /-- Failing DPA on the destination side (13 Table 13-3). -/
  failDst : Bool := false
  /-- A correction was met in this descriptor (13 Table 13-3). -/
  corr : Bool := false
  /-- A correction was met in an earlier descriptor of the packet (13 R291). -/
  corrAny : Bool := false
  /-- Data bytes moved by the packet (13 R291). -/
  moved : Nat := 0
  /-- No further block is read (13 R292). -/
  stop : Bool := false
  /-- Stopped by ABORT (13 R293). -/
  aborting : Bool := false
  /-- Remote or partner writes of this descriptor not yet performed (13 R289). -/
  outst : Nat := 0
  /-- The destination range to be poisoned once what lies before it is written: offset and bytes (13 R292). -/
  bad : Option (Nat × Nat) := none
  /-- The expected value has been read and the CRC appended (13 R288). -/
  tail : Bool := false
  /-- Written ranges not yet performed (13 R284). -/
  pend : List (Nat × Nat) := []
deriving DecidableEq, Repr, Inhabited

/-- One DMA channel. -/
structure DmaCh where
  /-- The packet it carries (13 R280). -/
  job : Option DmaJob := none
  /-- Packets waiting, in order (13 R280). -/
  waiting : List (QRef × BitVec 16) := []
  /-- 0 idle, 1 moving, 2 paused, 3 aborting (13 R294 DMA_CH.STATE). -/
  st : BitVec 2 := 0
deriving DecidableEq, Repr, Inhabited

/-- One DMA complex. -/
structure DmaCx where
  /-- Fitted and active (13 R294 DMA_CPLX_n.PRESENT). -/
  present : Bool := false
  /-- Fenced by the Assay (13 R294 DMA_CPLX_n.FENCED). -/
  fenced : Bool := false
  /-- Saturating, RC (13 R294 DMA_ERR_n.MISMATCH). -/
  mismatch : BitVec 16 := 0
  /-- Saturating, RC (13 R294 DMA_ERR_n.FAILED). -/
  failed : BitVec 16 := 0
  /-- Channel served last by the read engine (13 R281). -/
  turn : Nat := 0
  /-- Level of the escapement pause of the read engine, 0 = none (13 R282). -/
  pause : Nat := 0
deriving DecidableEq, Repr, Inhabited

/-- A flit in a replay buffer. -/
structure Flit where
  /-- SEQ (16 R346). -/
  seq : BitVec 10 := 0
  /-- The flit (16 R346). -/
  bytes : List Byte := []
deriving DecidableEq, Repr, Inhabited

/-- A message on its way out of a link. -/
structure TxMsg where
  /-- The message (16 R352). -/
  msg : Msg := {}
  /-- Virtual channel (16 R351). -/
  vc : Nat := 0
  /-- Units not yet put into a flit (16 R346). -/
  left : List (List Byte) := []
  /-- SEQ of the flit with its last unit (16 R358). -/
  last : Option (BitVec 10) := none
  /-- Times it was sent by this node (16 R358). -/
  sends : Nat := 0
  /-- Owner whose counters its bytes are charged to (18 R387). -/
  owner : Option Nat := none
deriving DecidableEq, Repr, Inhabited

/-- One Fidom link. -/
structure Link where
  /-- 0 not exposed, 1 training, 2 up, 3 retraining, 4 held, 5 fenced (16 R364 LNK_STAT_l.STATE). -/
  st : BitVec 3 := 0
  /-- Peer's link number (16 R364 LNK_STAT_l.PEER_LINK). -/
  peerLink : BitVec 7 := 0
  /-- Peer's node (16 R364 LNK_STAT_l.PEER_NODE). -/
  peerNode : BitVec 8 := 0
  /-- Saturating, RC (16 R364 LNK_STAT_l.REPLAYS). -/
  replays : BitVec 8 := 0
  /-- Saturating, RC (16 R364 LNK_STAT_l.DOWNS). -/
  downs : BitVec 6 := 0
  /-- Saturating, RC (16 R364 LNK_FEC_l.CORRECTED). -/
  fecC : BitVec 24 := 0
  /-- Saturating, RC (16 R364 LNK_FEC_l.UNCORR). -/
  fecU : BitVec 8 := 0
  /-- Next SEQ to send (16 R348). -/
  txSeq : BitVec 10 := 0
  /-- Next SEQ expected (16 R348). -/
  rxSeq : BitVec 10 := 0
  /-- NAK sent, discarding until the replay (16 R347). -/
  nakd : Bool := false
  /-- Flits sent and not acknowledged, oldest first (16 R347). -/
  replay : List Flit := []
  /-- Replays of the last 24 us (16 R348). -/
  repTimes : List Nat := []
  /-- Downs of the last 10 s (16 R345). -/
  downTimes : List Nat := []
  /-- REQ credits held (16 R351). -/
  crReq : Nat := 512
  /-- RSP credits held (16 R351). -/
  crRsp : Nat := 1024
  /-- STREAM credits held (16 R351). -/
  crStr : Nat := 2048
  /-- Units freed since the last flit (16 R346 CREDIT). -/
  freed : Nat × Nat × Nat := (0, 0, 0)
  /-- Messages assigned to the link, oldest first, until acknowledged (16 R351). -/
  txq : List TxMsg := []
  /-- Units of a message not yet whole (16 R346). -/
  rxu : Tbl (List (List Byte)) := []
deriving DecidableEq, Repr, Inhabited

/-- An executed window (16 R354). -/
structure XWin where
  /-- TOP (16 R354). -/
  top : BitVec 16 := 0
  /-- A first message has set TOP (16 R356). -/
  init : Bool := false
  /-- STATUS and result of DONE numbers; an unlisted number is UNSEEN (16 R354). -/
  done : Tbl (BitVec 16 × BitVec 64) := []
deriving DecidableEq, Repr, Inhabited

/-- An outstanding remote request. -/
structure Rid where
  /-- RID (16 R352). -/
  rid : BitVec 16 := 0
  /-- Message OP (16 R352). -/
  op : Nat := 1
  /-- Destination node (16 R352). -/
  node : Nat := 0
  /-- Virtual channel (16 R354). -/
  vc : Nat := 0
  /-- TRACKED (16 R354). -/
  tracked : Bool := false
  /-- XSEQ (16 R354). -/
  xseq : BitVec 16 := 0
  /-- Sent; a tracked message may wait for the window (16 R354). -/
  sent : Bool := true
  /-- Source owner (16 R352). -/
  owner : Nat := 8
  /-- Queue of its packet (18 R401). -/
  q : QRef := .mgmt 0
  /-- Tag of its packet (18 R401). -/
  tag : BitVec 16 := 0
  /-- Number of its packet (10 R230). -/
  ord : Nat := 0
  /-- Descriptor of a DMA packet it belongs to (13 R290). -/
  dno : Nat := 0
  /-- Target DPA (16 R352). -/
  addr : Nat := 0
  /-- LEN (16 R352). -/
  len : Nat := 0
  /-- What the response completes (16 R363). -/
  use : RidUse := .signal
  /-- Data of a request (16 R352). -/
  data : List Byte := []
  /-- ATOMIC OP and SIZE (16 R352). -/
  arg : BitVec 8 := 0
  /-- Timebase at which it was made (18 R401). -/
  since : Nat := 0
deriving DecidableEq, Repr, Inhabited

/-- A RID that is no longer outstanding (16 R360). -/
structure Gone where
  /-- RID (16 R360). -/
  rid : BitVec 16 := 0
  /-- Freed by a timeout or ABORT; false: completed by a response (16 R360). -/
  late : Bool := false
deriving DecidableEq, Repr, Inhabited

/-- A message held at this node (16 R350). -/
structure Held where
  /-- Order of arrival (16 R350). -/
  id : Nat := 0
  /-- The message (16 R350). -/
  msg : Msg := {}
  /-- Link it came by, whose buffer it still occupies (16 R351). -/
  link : Nat := 0
deriving DecidableEq, Repr, Inhabited

/-- The LNK block, links, routes, windows and remote requests. -/
structure Lnk where
  /-- Transaction timeout (16 R364 LNK_CTL.TIMEOUT_US). -/
  timeout : BitVec 20 := 2000
  /-- Current session (16 R364 LNK_SESSION). -/
  session : BitVec 16 := 0
  /-- Quiet period: no remote request may be sent (16 R356). -/
  quiet : Bool := true
  /-- LINK_UP, LINK_DOWN, FAILOVER, HELD, SESSION_RESET from bit 0 (16 R364 LNK_EVT). -/
  evt : BitVec 5 := 0
  /-- Saturating, RC (16 R364 LNK_ERR.LATE_RSP). -/
  late : BitVec 8 := 0
  /-- Saturating, RC (16 R364 LNK_ERR.DUP_RSP). -/
  dupRsp : BitVec 8 := 0
  /-- Saturating, RC (16 R364 LNK_ERR.DUP_REQ). -/
  dupReq : BitVec 8 := 0
  /-- Saturating, RC (16 R364 LNK_ERR.DROPPED). -/
  dropped : BitVec 8 := 0
  /-- Entry shown (16 R364 LNK_RT_SEL). -/
  rtSel : BitVec 8 := 0
  /-- PRIMARY masks (16 R349 LNK_RT_PRI). -/
  pri : Tbl (BitVec 72) := []
  /-- ALTERNATE masks (16 R349 LNK_RT_ALT). -/
  alt : Tbl (BitVec 72) := []
  /-- Import entries (16 R364 LNK_IMPORT_i). -/
  imp : Tbl (BitVec 32) := []
  /-- Links (16 R364). -/
  links : Tbl Link := []
  /-- Executed windows (16 R354). -/
  wins : Tbl XWin := []
  /-- SESSION recorded per source (16 R356). -/
  sess : Tbl (BitVec 16) := []
  /-- Last XSEQ given per destination and VC (16 R354). -/
  xseq : Tbl (BitVec 16) := []
  /-- Outstanding remote requests, oldest first (16 R352). -/
  rids : List Rid := []
  /-- RIDs no longer outstanding (16 R360). -/
  gone : List Gone := []
  /-- Next RID (16 R352). -/
  nextRid : BitVec 16 := 0
  /-- Messages received and neither executed nor forwarded (16 R350). -/
  held : List Held := []
  /-- Next held number (16 R350). -/
  nextHeld : Nat := 0
deriving DecidableEq, Repr, Inhabited

/-- A SEND in progress (16 R363). -/
structure SendJob where
  /-- Queue (16 R363). -/
  q : QRef := .mgmt 0
  /-- Tag (16 R363). -/
  tag : BitVec 16 := 0
  /-- Segments not answered (16 R363). -/
  left : Nat := 0
  /-- Bytes of segments answered with STATUS 0 or 1 (16 R363). -/
  ok : Nat := 0
  /-- A segment answered STATUS 1 (16 R353). -/
  corr : Bool := false
  /-- Status of the first failed segment, 0 = none (16 R363). -/
  fail : BitVec 16 := 0
  /-- DPA of NOTIFY, 0 = absent (16 R363). -/
  notify : Nat := 0
deriving DecidableEq, Repr, Inhabited

/-- One function's counter window. -/
structure CntFn where
  /-- Counter index (18 R404 CNT_SEL.INDEX). -/
  index : BitVec 10 := 0
  /-- Group (18 R404 CNT_SEL.GROUP). -/
  group : BitVec 3 := 0
  /-- Bank (a VF reads its own partition) (18 R404 CNT_SEL.BANK). -/
  bank : BitVec 4 := 8
  /-- VALUE[47:32] latched by a LO read (18 R404 CNT_VAL_HI.VALUE). -/
  shadow : BitVec 16 := 0
  /-- OVF latched by a LO read (18 R404 CNT_VAL_HI.OVF). -/
  shOvf : Bool := false
  /-- Enable COUNTER_SAT (18 R404 CNT_CTL.SAT_EVT). -/
  satEvt : Bool := false
  /-- W1C (18 R404 CNT_EVT.COUNTER_SAT). -/
  evt : Bool := false
  /-- Last counter to saturate (18 R404 CNT_SAT_LAST). -/
  satLast : BitVec 28 := 0
deriving DecidableEq, Repr, Inhabited

/-- Counter banks. -/
structure Cnt where
  /-- Counters (18 R386). -/
  val : Tbl Nat := []
  /-- Sticky saturation (18 R389). -/
  ovf : Tbl Bool := []
  /-- Counter windows (18 R404). -/
  fns : Tbl CntFn := []
deriving DecidableEq, Repr, Inhabited

/-- A Loupe watch slot. -/
structure Watch where
  /-- Slot bound (18 R404 LPE_ARMED). -/
  bound : Bool := false
  /-- TD of the tensor (18 R396). -/
  td : List (BitVec 64) := []
  /-- Captured translations (18 R396). -/
  leaves : List Leaf := []
  /-- Digests taken since arming (18 R397). -/
  gen : BitVec 16 := 0
  /-- 0 no digest, 1 valid, 2 read failed (18 R398). -/
  st : BitVec 4 := 0
  /-- Last digest (18 R398). -/
  dig : List Byte := []
deriving DecidableEq, Repr, Inhabited

/-- One function's snapshot registers. -/
structure SnpFn where
  /-- Destination (18 R404 SNP_DEST_LO, _HI). -/
  dest : BitVec 56 := 0
  /-- Device scope (18 R404 SNP_CTL.SCOPE). -/
  scope : Bool := false
  /-- Snapshot in progress (18 R404 SNP_STAT.BUSY). -/
  busy : Bool := false
  /-- W1C (18 R404 SNP_STAT.DONE). -/
  done : Bool := false
  /-- W1C (18 R404 SNP_STAT.REFUSED). -/
  refused : Bool := false
  /-- W1C (18 R404 SNP_STAT.ERR). -/
  err : Bool := false
  /-- Why it failed (18 R404 SNP_STAT.CAUSE). -/
  cause : BitVec 4 := 0
  /-- Length of the last record (18 R404 SNP_BYTES). -/
  bytes : BitVec 32 := 0
  /-- SNAPSHOT packet that runs; none = by register (18 R402). -/
  cmd : Option (QRef × BitVec 16) := none
  /-- START (18 R401). -/
  start : Nat := 0
  /-- SYS_STATE at START (18 R401). -/
  stAt : BitVec 32 := 0
  /-- SYS_LIVE at START (18 R401). -/
  liveAt : BitVec 32 := 0
deriving DecidableEq, Repr, Inhabited

/-- States of the TAP controller of IEEE 1149.1, to which the chain conforms (19 R407). -/
inductive TapSt
  /-- Test-Logic-Reset: the instruction register selects IDCODE. -/
  | reset
  /-- Run-Test/Idle. -/
  | idle
  /-- Select-DR-Scan. -/
  | selDr
  /-- Capture-DR. -/
  | capDr
  /-- Shift-DR. -/
  | shDr
  /-- Exit1-DR. -/
  | ex1Dr
  /-- Pause-DR. -/
  | pauseDr
  /-- Exit2-DR. -/
  | ex2Dr
  /-- Update-DR. -/
  | updDr
  /-- Select-IR-Scan. -/
  | selIr
  /-- Capture-IR. -/
  | capIr
  /-- Shift-IR. -/
  | shIr
  /-- Exit1-IR. -/
  | ex1Ir
  /-- Pause-IR. -/
  | pauseIr
  /-- Exit2-IR. -/
  | ex2Ir
  /-- Update-IR. -/
  | updIr
deriving DecidableEq, Repr, Inhabited

/-- Test access and the field lock. -/
structure Lck where
  /-- 0 LOCKED, 1 OBSERVE, 2 TEST, 3 FUSE (19 R420 LCK_STATE.LEVEL). -/
  level : BitVec 2 := 0
  /-- Every unlock fails (19 R420 LCK_STATE.LOCKOUT). -/
  lockout : Bool := false
  /-- A disturbing instruction ran (19 R420 LCK_STATE.DISTURBED). -/
  disturbed : Bool := false
  /-- Consecutive failures (19 R420 LCK_STATE.FAILS). -/
  fails : BitVec 4 := 0
  /-- Challenge held (19 R420 LCK_CHAL_w, CHAL_VALID). -/
  chal : Option (List Byte) := none
  /-- Challenge words as read (19 R420 LCK_CHAL_w). -/
  chalView : List Byte := []
  /-- When the challenge was formed (19 R417). -/
  chalAt : Nat := 0
  /-- Level it was formed for (19 R417). -/
  chalLvl : BitVec 2 := 0
  /-- Command running (19 R420 LCK_STATE.BUSY). -/
  busy : Option (BitVec 4) := none
  /-- When the running command began (19 R416). -/
  cmdAt : Nat := 0
  /-- Outcome of the running command, shown when it is done (19 R416). -/
  outcome : BitVec 16 := 0
  /-- Level the running command opens (19 R418). -/
  newLvl : BitVec 2 := 0
  /-- Bank the running SET_PW programs (19 R415). -/
  newBank : Option PwBank := none
  /-- Challenge the running REQ_CHAL forms (19 R417). -/
  newChal : List Byte := []
  /-- Last status (19 R420 LCK_STAT.STATUS). -/
  stat : BitVec 16 := 0
  /-- OP it applies to, 6 TAP refusal (19 R420 LCK_STAT.LAST_OP). -/
  lastOp : BitVec 4 := 0
  /-- Password words (19 R420 LCK_PW_w). -/
  pw : Tbl (BitVec 32) := []
  /-- Signature words (19 R420 LCK_RESP_w). -/
  resp : Tbl (BitVec 32) := []
  /-- Bits to shift (19 R420 LCK_TAP_CTL.COUNT). -/
  tapCount : BitVec 6 := 0
  /-- Shift running (19 R420 LCK_TAP_CTL.BUSY). -/
  tapBusy : Bool := false
  /-- W1C (19 R420 LCK_TAP_CTL.ABANDONED). -/
  tapAband : Bool := false
  /-- TMS values (19 R420 LCK_TAP_TMS). -/
  tms : BitVec 32 := 0
  /-- TDI values (19 R420 LCK_TAP_TDI). -/
  tdi : BitVec 32 := 0
  /-- Captured TDO (19 R420 LCK_TAP_TDO). -/
  tdo : BitVec 32 := 0
  /-- Instruction in force (19 R407). -/
  ir : BitVec 8 := 0x01#8
  /-- Previous instruction refused by the lock (Capture-IR bit 2) (19 R410). -/
  refusedIr : Bool := false
  /-- The TAP controller as the register master has walked it (19 R407, R420). -/
  tap : TapSt := .reset
  /-- Captured bits not yet shifted out, the first ones the capture fixes (19 R409, R410). -/
  tapOut : List Bool := []
  /-- TDO bits of the running shift that a capture fixes: position, value (19 R409, R410). -/
  tapFix : List (Nat × Bool) := []
  /-- A TAP operation waits at an IEEE 1500 port: BUSY in Capture-DR (19 R409). -/
  port1500 : Bool := false
deriving DecidableEq, Repr, Inhabited

/-- A cached translation of the Dispatcher (09 R202). -/
structure Tlb where
  /-- Partition, 8 management domain (09 R202). -/
  owner : Nat := 8
  /-- Context (09 R202). -/
  ctx : Nat := 0
  /-- Page DVA (09 R202). -/
  dva : Nat := 0
  /-- Page size (09 R199). -/
  size : Nat := 65536
  /-- Page DPA (09 R202). -/
  dpa : Nat := 0
  /-- W (09 R200). -/
  w : Bool := false
  /-- IMM (09 R200). -/
  imm : Bool := false
  /-- No longer a translation of its context: it only tells INVALIDATE which RLC lines the range translated to (09 R207). -/
  stale : Bool := false
deriving DecidableEq, Repr, Inhabited

/-- The Dispatcher and the work in flight. -/
structure Disp where
  /-- Packets taken so far (11 R244). -/
  ord : Nat := 0
  /-- Packets taken and not completed, oldest first (11 R243). -/
  pkts : List Pkt := []
  /-- Packets started so far (14 R303). -/
  starts : Nat := 0
  /-- By class: the queue whose turn it is and the packets left in the turn (11 R244). -/
  turns : Tbl (Nat × Nat) := []
  /-- ABORTs found and not ended (11 R255). -/
  aborts : List AbortJob := []
  /-- VERIFYs whose stream runs (12 R273). -/
  verifies : List RunVerify := []
  /-- SENDs in progress (16 R363). -/
  sends : List SendJob := []
  /-- Cached translations (09 R202). -/
  tlb : List Tlb := []
  /-- Register writes through space 0xF that the running command still has to apply; empty between commands (09 R205). -/
  regq : List (Nat × Nat × List Byte) := []
deriving DecidableEq, Repr, Inhabited

/-- The whole module. -/
structure Dev where
  /-- Fuses (01 R30). -/
  fuse : Fuses := {}
  /-- Pins (02 R52). -/
  pins : Pins := {}
  /-- Facility Controller (02 R37). -/
  fc : FC := {}
  /-- Host-side supplies (03 R74). -/
  rails : Rails := {}
  /-- Supervisor's barrier end (02 R60). -/
  sup : Sup := {}
  /-- PWR block (02 R73). -/
  pwr : Pwr := {}
  /-- Timebase (04 R110). -/
  time : TimeB := {}
  /-- SYS and TMK blocks (03 R92). -/
  sys : Sys := {}
  /-- PCIe controller (03 R446). -/
  pcie : Pcie := {}
  /-- THM and ESC blocks (17 R385). -/
  thm : Thm := {}
  /-- SLC block and slices (06 R158). -/
  slc : Slc := {}
  /-- HBM block and stacks (07 R176). -/
  hbm : Hbm := {}
  /-- ZF and PRT blocks (08 R195). -/
  zf : Zf := {}
  /-- Partitions and TRN_PM_CTX_k (09 R219). -/
  parts : Tbl Part := []
  /-- Queues (11 R260). -/
  queues : Tbl Queue := []
  /-- Dispatcher (11 R243). -/
  disp : Disp := {}
  /-- Store buffers, oldest first (10 R225). -/
  sb : Tbl (List SbEntry) := []
  /-- Core units (05 R111). -/
  units : Tbl CoreUnit := []
  /-- KPM and ARB blocks (14 R317). -/
  kpm : Kpm := {}
  /-- DMA complexes (13 R294). -/
  dma : Tbl DmaCx := []
  /-- DMA channels (13 R294). -/
  dmaCh : Tbl DmaCh := []
  /-- LNK block (16 R364). -/
  lnk : Lnk := {}
  /-- CNT block (18 R404). -/
  cnt : Cnt := {}
  /-- Watch slots (18 R404). -/
  lpe : Tbl Watch := []
  /-- SNP block (18 R404). -/
  snp : Tbl SnpFn := []
  /-- LCK block (19 R420). -/
  lck : Lck := {}
  /-- Stored words of every address space (09 R196). -/
  mem : Mem := {}
  /-- Everything the module has driven outward so far, oldest first; no state of the spec: a history a statement can name (model's own). -/
  out : List Out := []
  /-- Number of the next free value (model's own). -/
  free : Nat := 0
deriving DecidableEq, Repr, Inhabited


/-- The whole machine: the module, and the commands that wait, first in first out. -/
structure State where
  /-- The module. -/
  dev : Dev := {}
  /-- Waiting commands; empty at reset. -/
  pending : List Instr := []
deriving DecidableEq, Repr

/-- A block raises no fault: every command has an effect (NOTES.md, "## Stops"). `internal` stands for a machine that cannot
exist and is raised by nobody; safe, since no claim rests on it. -/
inductive Fault where
  | internal
deriving DecidableEq, Repr

/-- Refusals. `notModelled` is answered by an arm of exec whose command has no meaning yet; safe, since it claims nothing. -/
inductive Refusal where
  | notModelled (mnemonic : String)
deriving DecidableEq, Repr

/-- The module at the instant of supplies valid, with no command waiting (21 R440, log 2): every field's default. -/
def State.reset : State := { dev := {}, pending := [] }

end Sys2Proof.Machine
end

