-- ==== Sys2Proof/Machine/Flags.lean ====
section
/-!
DEFINITION. Machine/Flags.lean: the status codes (spec/11_queues_packets.md Table 11-3), the event registers and vector 0
(spec/21_register_summary.md R442), the counters (spec/18_observability.md R386-R389), and the two helpers by which every
meaning changes the machine.
-/
namespace Sys2Proof.Machine

/-! The machine. -/

/-- The machine with another module state. -/
def State.setDev (s : State) (d : Dev) : State := { s with dev := d }

/-- The machine with another queue. -/
def State.setPending (s : State) (q : List Instr) : State := { s with pending := q }

/-- The outcome of a command that changes the module by f. -/
def onDev (s : State) (f : Dev → Dev) : Host.Outcome State Fault Refusal := .next (s.setDev (f s.dev))

/-! Status codes (11 Table 11-3). -/

/-- OK. -/
def sOk : BitVec 16 := 0x0000
/-- OK_REPLAYED. -/
def sReplayed : BitVec 16 := 0x0002
/-- OK_CORRECTED. -/
def sCorrected : BitVec 16 := 0x0003
/-- E_BAD_OPCODE. -/
def sBadOpcode : BitVec 16 := 0x0101
/-- E_BAD_PARAM. -/
def sBadParam : BitVec 16 := 0x0102
/-- E_NOT_READY. -/
def sNotReady : BitVec 16 := 0x0103
/-- E_ABORTED. -/
def sAborted : BitVec 16 := 0x0110
/-- E_ABORT_FORCED. -/
def sAbortForced : BitVec 16 := 0x0111
/-- E_UNMAPPED. -/
def sUnmapped : BitVec 16 := 0x0120
/-- E_PERM. -/
def sPerm : BitVec 16 := 0x0121
/-- E_RO_REGION. -/
def sRoRegion : BitVec 16 := 0x0122
/-- E_TIMEOUT. -/
def sTimeout : BitVec 16 := 0x0130
/-- E_LINK_FAIL. -/
def sLinkFail : BitVec 16 := 0x0131
/-- E_UE. -/
def sUe : BitVec 16 := 0x0140
/-- E_POISON_READ. -/
def sPoison : BitVec 16 := 0x0141
/-- E_CHECK_MISMATCH. -/
def sCheck : BitVec 16 := 0x0150
/-- E_DOUBLE_FREE. -/
def sDoubleFree : BitVec 16 := 0x0160
/-- E_NOT_OWNER. -/
def sNotOwner : BitVec 16 := 0x0161
/-- E_POOL_EMPTY. -/
def sPoolEmpty : BitVec 16 := 0x0162
/-- E_THERMAL_STOP. -/
def sThermalStop : BitVec 16 := 0x0170
/-- E_LOCKED. -/
def sLocked : BitVec 16 := 0x0180

/-- A status of 0x0100 or above is an exception (11 R249). -/
def isExc (s : BitVec 16) : Bool := decide (0x100 ≤ s.toNat)

/-- Two statuses met in order: the first failure stands (11 R251), otherwise a correction is kept. -/
def thenSt (a b : BitVec 16) : BitVec 16 := if isExc a then a else if isExc b then b else if a == sOk then b else a

/-! Owners and functions. -/

/-- Key of a function: 0 the PF, p + 1 the VF of partition p. -/
def fnKey : Fn → Nat
  | .pf => 0
  | .vf p => p.val + 1

/-- Owner a function acts for: its partition, or 8 the management domain. -/
def fnOwner : Fn → Nat
  | .pf => 8
  | .vf p => p.val

/-- Function of an owner: VF p + 1 for partition p, the PF for 8 (09 R198). -/
def ownerFn (o : Nat) : Fn := if h : o < 8 then .vf ⟨o, h⟩ else .pf

/-- Key of a queue. -/
def qKey : QRef → Nat
  | .part p q => 64 * p.val + q.val
  | .mgmt m => 512 + m.val

/-- Owner of a queue. -/
def qOwner : QRef → Nat
  | .part p _ => p.val
  | .mgmt _ => 8

/-! Output and events. -/

/-- Something driven outward. -/
def Dev.emit (d : Dev) (o : Out) : Dev := { d with out := d.out ++ [o] }

/-- Vector 0 of the physical function for every bit of new that old has clear (21 R442). -/
def posts {w : Nat} (old new : BitVec w) : List Out :=
  ((List.range w).filter (fun i => new.getLsbD i && !old.getLsbD i)).map (fun _ => Out.msix .pf 0)

/-- PWR_EVENT bits set (02 R73). -/
def Dev.raisePwr (d : Dev) (m : BitVec 6) : Dev :=
  { d with pwr := { d.pwr with evt := d.pwr.evt ||| m }, out := d.out ++ posts d.pwr.evt (d.pwr.evt ||| m) }
/-- SLC_EVT bits set (06 R158). -/
def Dev.raiseSlc (d : Dev) (m : BitVec 8) : Dev :=
  { d with slc := { d.slc with evt := d.slc.evt ||| m }, out := d.out ++ posts d.slc.evt (d.slc.evt ||| m) }
/-- HBM_EVT bits set (07 R176). -/
def Dev.raiseHbm (d : Dev) (m : BitVec 9) : Dev :=
  { d with hbm := { d.hbm with evt := d.hbm.evt ||| m }, out := d.out ++ posts d.hbm.evt (d.hbm.evt ||| m) }
/-- ZF_EVT bits set (08 R195). -/
def Dev.raiseZf (d : Dev) (m : BitVec 3) : Dev :=
  { d with zf := { d.zf with evt := d.zf.evt ||| m }, out := d.out ++ posts d.zf.evt (d.zf.evt ||| m) }
/-- KPM_EVT bits set (14 R317). -/
def Dev.raiseKpm (d : Dev) (m : BitVec 5) : Dev :=
  { d with kpm := { d.kpm with evt := d.kpm.evt ||| m }, out := d.out ++ posts d.kpm.evt (d.kpm.evt ||| m) }
/-- LNK_EVT bits set (16 R364). -/
def Dev.raiseLnk (d : Dev) (m : BitVec 5) : Dev :=
  { d with lnk := { d.lnk with evt := d.lnk.evt ||| m }, out := d.out ++ posts d.lnk.evt (d.lnk.evt ||| m) }
/-- THM_EVT bits set (17 R385). -/
def Dev.raiseThm (d : Dev) (m : BitVec 6) : Dev :=
  { d with thm := { d.thm with evt := d.thm.evt ||| m }, out := d.out ++ posts d.thm.evt (d.thm.evt ||| m) }

/-- Causes of a broken class set (20 Table 20-3); the first cause posts TMK_EVT.BROKEN (20 R425). One that is set while the power-up
sequence runs sets SYS_ASSAY.CLASS_BROKEN (03 R84, 20 R426). -/
def Dev.breakClass (d : Dev) (m : BitVec 8) : Dev :=
  let first := d.sys.cause == 0 && m != 0
  { d with
    sys := { d.sys with
      cause := d.sys.cause ||| m, tmkEvt := d.sys.tmkEvt || first,
      classBroken := d.sys.classBroken || (m != 0 && !d.sys.everReady && d.sys.phase != 0xF) },
    out := if first && !d.sys.tmkEvt then d.out ++ [.msix .pf 0] else d.out }

/-! The timebase (04 R101). -/

/-- Timebase now. -/
def Dev.now (d : Dev) : Nat := d.time.base

/-- A stamp that die n takes: its replica, sampled to within one tick (04 R102). -/
def Dev.stampOn (d : Dev) (e : Env) (n : Nat) : Nat := (Int.ofNat d.now + tget d.time.rep n 0 + tget e.samp n 0).toNat

/-- The timebase brought forward to t, where it runs (log 6). -/
def Dev.advTo (d : Dev) (t : Nat) : Dev :=
  if d.time.running then { d with time := { d.time with base := max d.time.base t % 2 ^ 64 } } else d

/-- One tick passes (04 R101): what a step on an empty queue does (log 4). -/
def Dev.tick (d : Dev) : Dev := d.advTo (d.time.base + 1)

/-- The machine after one idle step. -/
def idle (s : State) : State := s.setDev s.dev.tick

/-! Counters (18 R386-R389). -/

/-- Greatest value of a counter. -/
def cntMax : Nat := 2 ^ 48 - 1

/-- Function that owns a bank: its VF for banks 0-7, the PF for 8 and 9. -/
def bankFn (bank : Nat) : Fn := ownerFn bank

/-- n events on one counter of one bank; a counter that reaches its maximum sets OVF, and COUNTER_SAT where it is enabled. -/
def Dev.bump (d : Dev) (bank grp idx n : Nat) : Dev :=
  let k := 8192 * bank + 1024 * grp + idx
  let old := tget d.cnt.val k 0
  let new := min (old + n) cntMax
  let d := { d with cnt := { d.cnt with val := tset d.cnt.val k new } }
  if old < cntMax && new == cntMax then
    let f := fnKey (bankFn bank)
    let c := tget d.cnt.fns f {}
    let d := { d with cnt := { d.cnt with ovf := tset d.cnt.ovf k true } }
    if c.satEvt then
      let d1 := { d with cnt := { d.cnt with fns := tset d.cnt.fns f { c with
        evt := true, satLast := BitVec.ofNat 28 (idx + 65536 * grp + 2 ^ 24 * bank) } } }
      if c.evt then d1 else d1.emit (.msix (bankFn bank) 0)
    else d
  else d

/-- n events of counter idx of group grp, charged to an owner and to the global bank (18 R386). -/
def Dev.count (d : Dev) (owner : Option Nat) (grp idx n : Nat) : Dev :=
  if n = 0 then d
  else
    match owner with
    | none => d.bump 9 grp idx n
    | some o => (d.bump o grp idx n).bump 9 grp idx n

/-- Slot bytes a command moved over the ZF (18 Table 18-1, group 2). -/
def Dev.countZf (d : Dev) (owner : Option Nat) (l : List (Nat × Nat)) : Dev :=
  l.foldl (fun d e => d.count owner 2 e.1 e.2) d

end Sys2Proof.Machine
end

