-- ==== Sys2Proof/Machine/Topo.lean ====
section
/-!
DEFINITION. Machine/Topo.lean: what is fitted, exposed and in service (spec/01_composition.md R11-R27, R35), and the layout of
a DPA (spec/09_addressing.md R196).
-/
namespace Sys2Proof.Machine

/-- What a variant fits on a site: 0 a compute stack, 1 an I/O die, 2 the partner die (01 Table 01-2). -/
def siteKind (v : Variant) (n : Nat) : Nat :=
  match v, n with
  | .v51, 5 => 1
  | .v51, _ => 0
  | .v42, 4 => 1
  | .v42, 5 => 1
  | .v42, _ => 0
  | .v33, 3 => 1
  | .v33, 4 => 1
  | .v33, 5 => 1
  | .v33, _ => 0
  | .v41p, 4 => 2
  | .v41p, 5 => 1
  | .v41p, _ => 0

/-- Sites of a kind, ascending. -/
def sitesOf (v : Variant) (k : Nat) : List Nat := (List.range 6).filter (fun n => siteKind v n == k)

/-- HBM sites fitted (01 Table 01-2). -/
def hbmFitted : Variant → Nat
  | .v51 => 0xFFF
  | .v42 => 0xCFF
  | .v33 => 0xC3F
  | .v41p => 0xCFF

/-- Input current limit, A (02 Table 02-2). -/
def iLim : Variant → Nat
  | .v51 => 62
  | .v42 => 53
  | .v33 => 44
  | .v41p => 53

/-- Logical cores per compute stack (01 R22). -/
def Dev.coresPerCs (d : Dev) : Nat := if d.fuse.sufC then 48 else 64
/-- Links per I/O die (01 R22). -/
def Dev.linksPerIod (d : Dev) : Nat := if d.fuse.sufL then 16 else 24
/-- GB per HBM stack (01 R22). -/
def Dev.gbPerStack (d : Dev) : Nat := if d.fuse.sufM then 24 else 36
/-- Exposed 4 KiB granules per pseudo-channel (07 R160, Table 07-5). -/
def Dev.granules (d : Dev) : Nat := if d.fuse.sufM then 196608 else 294912

/-- Kind of what is fitted on a site. -/
def Dev.kind (d : Dev) (n : Nat) : Nat := siteKind d.fuse.variant n
/-- SYS_SITE_STATE field of a site. -/
def Dev.siteSt (d : Dev) (n : Nat) : BitVec 4 := tget d.sys.site n 0
/-- The site is an active compute stack. -/
def Dev.csActive (d : Dev) (n : Nat) : Bool := d.siteSt n == 1
/-- The site is an active I/O die. -/
def Dev.iodActive (d : Dev) (n : Nat) : Bool := d.siteSt n == 2
/-- The site holds a native die in service. -/
def Dev.dieActive (d : Dev) (n : Nat) : Bool := d.csActive n || d.iodActive n
/-- S4 reads PARTNER_READY. -/
def Dev.partnerReady (d : Dev) : Bool := d.siteSt 4 == 3

/-- Link l is exposed (01 R20, R22, R23). -/
def Dev.linkExposed (d : Dev) (l : Nat) : Bool :=
  l < 72 && l / 24 < (sitesOf d.fuse.variant 1).length && l % 24 < d.linksPerIod
/-- Site of the I/O die that carries link l (01 R20). -/
def linkSite (l : Nat) : Nat := 5 - l / 24

/-- Key of a core. -/
def coreKey (n c : Nat) : Nat := 64 * n + c
/-- A slice. -/
def Dev.slice (d : Dev) (n c : Nat) : Slice := tget d.slc.slices (coreKey n c) {}
/-- A slice changed. -/
def Dev.setSlice (d : Dev) (n c : Nat) (x : Slice) : Dev :=
  { d with slc := { d.slc with slices := tset d.slc.slices (coreKey n c) x } }
/-- The logical core is in service: its slice is normal or read-only (06 R155, R158). -/
def Dev.coreLive (d : Dev) (n c : Nat) : Bool :=
  d.csActive n && c < d.coresPerCs && (d.slice n c).st.toNat < 2
/-- Cores of a site in service. -/
def Dev.liveCoresOf (d : Dev) (n : Nat) : List Nat := (List.range 64).filter (d.coreLive n)
/-- Group g of site n has a core in service (09 R214); DEDUCED in part: log 22. -/
def Dev.groupPresent (d : Dev) (n g : Nat) : Bool := (List.range 8).any (fun i => d.coreLive n (8 * g + i))

/-- A pace monitor exists: a live core, or an active I/O die as entry 0 (04 R98, R110). -/
def Dev.paceEntry (d : Dev) (k : Nat) : Bool := d.coreLive (k / 64) (k % 64) || (d.iodActive (k / 64) && k % 64 == 0)

/-- An HBM stack. -/
def Dev.stack (d : Dev) (h : Nat) : HbmStat := tget d.hbm.stk h {}
/-- An HBM stack changed. -/
def Dev.setStack (d : Dev) (h : Nat) (x : HbmStat) : Dev :=
  { d with hbm := { d.hbm with stk := tset d.hbm.stk h x } }
/-- A pseudo-channel is active. -/
def Dev.pcActive (d : Dev) (h p : Nat) : Bool := (d.stack h).active.getLsbD p

/-- A DMA complex exists: on a compute stack both, on an I/O die the even one (13 R278). -/
def Dev.cplxFitted (d : Dev) (n : Nat) : Bool := d.kind (n / 2) == 0 || (d.kind (n / 2) == 1 && n % 2 == 0)

/-- SYS_HBM_MAP.ACTIVE recomputed, and with it, once phase READY has published it, SYS_LIVE in one update (01 R30, R33,
Table 01-12, 03 Table 03-2). -/
def Dev.publishLive (d : Dev) : Dev :=
  let cores := ((List.range 6).map (fun n => (d.liveCoresOf n).length)).foldl (· + ·) 0
  let links := ((List.range 72).filter (fun l => d.linkExposed l && d.iodActive (linkSite l) && (tget d.lnk.links l {}).st != 5)).length
  let act := ofBits ((List.range 12).filter (fun h => (d.stack h).active != 0))
  if d.sys.everReady then
    { d with sys := { d.sys with
        liveCores := BitVec.ofNat 10 cores, liveLinks := BitVec.ofNat 7 links,
        hbmActive := BitVec.ofNat 12 act, liveHbm := BitVec.ofNat 5 (popcount act 12) } }
  else { d with sys := { d.sys with hbmActive := BitVec.ofNat 12 act } }

/-! The DPA (09 R196). -/

/-- Node field. -/
def dpaNode (a : Nat) : Nat := bf a 55 48
/-- Space. -/
def dpaSpace (a : Nat) : Nat := bf a 47 44
/-- Offset within the space. -/
def dpaOff (a : Nat) : Nat := bf a 43 0
/-- Site field of spaces 1-3. -/
def dpaSite (a : Nat) : Nat := bf a 43 41
/-- Core field of spaces 2 and 3. -/
def dpaCore (a : Nat) : Nat := bf a 40 35
/-- Offset field of spaces 2 and 3. -/
def dpaCoreOff (a : Nat) : Nat := bf a 34 0

/-- A DPA of this module. -/
def mkDpa (space off : Nat) : Nat := 255 * 2 ^ 48 + space * 2 ^ 44 + off
/-- A DPA in space 2 or 3. -/
def coreDpa (space n c off : Nat) : Nat := mkDpa space (n * 2 ^ 41 + c * 2 ^ 35 + off)

/-- The DPA with this module's own node ID written 255 (09 R196). -/
def Dev.canon (d : Dev) (a : Nat) : Nat := if dpaNode a == d.sys.node.toNat then 255 * 2 ^ 48 + a % 2 ^ 48 else a % 2 ^ 56

/-- The DPA lies in this module. -/
def isLocal (a : Nat) : Bool := dpaNode a == 255

/-! ZF ports and routes (08 R177, R180). -/

/-- The two sites of ZF port pair j. -/
def portEnds (j : Nat) : Nat × Nat :=
  match j with
  | 0 => (0, 1)
  | 1 => (1, 2)
  | 2 => (3, 4)
  | 3 => (4, 5)
  | 4 => (0, 3)
  | 5 => (1, 4)
  | _ => (2, 5)

/-- Port j is up. -/
def Dev.portUp (d : Dev) (j : Nat) : Bool := (tget d.zf.ports j {}).st == 1

/-- Sites one hop away over ports that are up. -/
def Dev.zfNext (d : Dev) (n : Nat) : List Nat :=
  ((List.range 7).filter d.portUp).flatMap (fun j =>
    let e := portEnds j
    if e.1 == n then [e.2] else if e.2 == n then [e.1] else [])

/-- Sites reached from a set within k hops, over ports that are up. -/
def Dev.zfReach (d : Dev) : Nat → List Nat → List Nat
  | 0, s => s
  | k + 1, s => d.zfReach k (nub (s ++ s.flatMap d.zfNext))

/-- Hops from a to b, 9 where there is no path. -/
def Dev.zfDist (d : Dev) (a b : Nat) : Nat :=
  ((List.range 7).find? (fun k => (d.zfReach k [a]).contains b)).getD 9

/-- Next hop toward b: a horizontal hop on a shortest path where there is one, else a vertical one; the lower-numbered site
first (08 R180). -/
def Dev.zfHop (d : Dev) (a b : Nat) : Option Nat :=
  let c := (d.zfNext a).filter (fun x => d.zfDist x b + 1 == d.zfDist a b)
  let hor := sortBy (fun x y => x ≤ y) (c.filter (fun x => x / 3 == a / 3))
  let ver := sortBy (fun x y => x ≤ y) (c.filter (fun x => x / 3 != a / 3))
  (hor ++ ver).head?

/-- The route from a to b, at most k hops. -/
def Dev.zfPath (d : Dev) : Nat → Nat → Nat → List Nat
  | 0, a, _ => [a]
  | k + 1, a, b => if a == b then [a] else
    match d.zfHop a b with
    | none => [a]
    | some x => a :: d.zfPath k x b

/-- Routes between every two active native dies, formed anew (08 R180). -/
def Dev.formRoutes (d : Dev) : Dev :=
  let ns := (List.range 6).filter d.dieActive
  let t := ns.flatMap (fun a => (ns.filter (fun b => b != a && d.zfDist a b != 9)).map (fun b => (6 * a + b, d.zfPath 6 a b)))
  { d with zf := { d.zf with routes := t } }

end Sys2Proof.Machine
end

