-- ==== Sys2Proof/Machine/HbmMap.lean ====
section
/-!
DEFINITION. Machine/HbmMap.lean: the interleaved and die-affine pools of the HBM tier (spec/07_hbm_tier.md R167-R169, R175), and
the units of KV pools (spec/14_kv_pages_arbor.md R297, R298).
-/
namespace Sys2Proof.Machine

/-! The interleave map (07 R168, R169). -/

/-- Granule g dealt over entries with parts, in rounds (07 R168): the entry and the granule within its part. -/
def dealIn (parts : List (FormEntry × Nat)) (g : Nat) : List Nat → Nat → Nat → Option (FormEntry × Nat)
  | [], _, _ => none
  | s :: r, prev, base =>
    let l := parts.filter (fun e => s ≤ e.2)
    let span := l.length * (s - prev)
    if g < base + span then
      let k := g - base
      (l[k % l.length]?).map (fun e => (e.1, prev + k / l.length))
    else dealIn parts g r s (base + span)

/-- The distinct part sizes, ascending, zero left out. -/
def partSizes (parts : List (FormEntry × Nat)) : List Nat :=
  sortBy (fun a b => a ≤ b) ((nub (parts.map (·.2))).filter (· != 0))

/-- Granule g of a pool. -/
def deal (parts : List (FormEntry × Nat)) (g : Nat) : Option (FormEntry × Nat) := dealIn parts g (partSizes parts) 0 0

/-- Number, in dealing order, of granule q of entry number i: the inverse of `deal`. -/
def dealtAt (parts : List (FormEntry × Nat)) (i q : Nat) : Nat :=
  (parts.map (fun e => min e.2 q)).foldl (· + ·) 0 + ((parts.take i).filter (fun e => q < e.2)).length

/-- Parts of the interleaved pool. -/
def Dev.interParts (d : Dev) : List (FormEntry × Nat) := d.hbm.form.map (fun e => (e, e.inter))
/-- Parts of the die-affine pool of a site. -/
def Dev.affParts (d : Dev) (n : Nat) : List (FormEntry × Nat) :=
  (d.hbm.form.filter (fun e => e.h / 2 == n)).map (fun e => (e, e.aff))

/-- The formed extent in granules (07 R168). -/
def Dev.formedGranules (d : Dev) : Nat := (d.hbm.form.map (·.inter)).foldl (· + ·) 0
/-- The die-affine pool of a site in granules (07 R169). -/
def Dev.affGranules (d : Dev) (n : Nat) : Nat := ((d.affParts n).map (·.2)).foldl (· + ·) 0
/-- HBM_UNITS.UNITS (07 R175). -/
def Dev.hbmUnits (d : Dev) : Nat := d.formedGranules / 4194304

/-- Where an offset of the interleaved pool lies: HBM site, pseudo-channel, word index. -/
def Dev.interLoc (d : Dev) (off : Nat) : Option (Nat × Nat × Nat) :=
  (deal d.interParts (off / 4096)).map (fun e => (e.1.h, e.1.pc, e.2 * 128 + off % 4096 / 32))

/-- Where an offset of a die-affine pool lies: its granules stand above the interleaved part (07 R167). -/
def Dev.affLoc (d : Dev) (n off : Nat) : Option (Nat × Nat × Nat) :=
  (deal (d.affParts n) (off / 4096)).map (fun e => (e.1.h, e.1.pc, (e.1.inter + e.2) * 128 + off % 4096 / 32))

/-- DPA of a word of a pseudo-channel that the map exposes. -/
def Dev.pcDpa (d : Dev) (h p word : Nat) : Option Nat :=
  match d.hbm.form.findIdx? (fun e => e.h == h && e.pc == p) with
  | none => none
  | some i =>
    match d.hbm.form[i]? with
    | none => none
    | some e =>
      let q := word / 128
      let low := word % 128 * 32
      if q < e.inter then some (mkDpa 0 (dealtAt d.interParts i q * 4096 + low))
      else if q < e.inter + e.aff then
        let fs := d.hbm.form.filter (fun x => x.h / 2 == h / 2)
        let j := (fs.findIdx? (fun x => x.h == h && x.pc == p)).getD 0
        some (mkDpa 1 ((h / 2) * 2 ^ 41 + dealtAt (d.affParts (h / 2)) j (q - e.inter) * 4096 + low))
      else none

/-! KV pools (14 R297, R298). -/

/-- Head dimension of a pool (14 Table 14-6). -/
def Pool.headDim (p : Pool) : Nat := [64, 96, 128, 192, 256].getD p.hd.toNat 0
/-- Bits of an element of a pool's format (14 Table 14-1). -/
def kvBits (fmt : Nat) : Nat := [16, 16, 8, 8, 4, 4].getD fmt 0
/-- E: bytes of one row of a data plane. -/
def Pool.eBytes (p : Pool) : Nat := p.headDim * kvBits p.fmt.toNat / 8
/-- S: bytes of one row of a scale plane. -/
def Pool.sBytes (p : Pool) : Nat := if p.fmt.toNat < 2 then 0 else p.headDim / 32 * (if p.scale then 2 else 1)
/-- R: bytes of one token row. -/
def Pool.rowBytes (p : Pool) : Nat := 4 + 2 * p.heads.toNat * (p.eBytes + p.sBytes)
/-- Bytes of one unit. -/
def Pool.unitBytes (p : Pool) : Nat := (if p.kind then 16 else 256) * p.rowBytes
/-- Units of one block. -/
def Pool.blockUnits (p : Pool) : Nat := if p.kind then 256 else 1
/-- Units of a pool. -/
def Pool.units (p : Pool) : Nat := p.blocks.toNat * p.blockUnits
/-- Free units (14 Table 14-6 KPM_POOL_FREE). -/
def Pool.freeUnits (p : Pool) : Nat := p.units - (p.alloc.map (·.2)).foldl (· + ·) 0

/-- Free aligned runs of the run of 2^k units at b: a run that no page touches is one run, the others are split by halves. -/
def freeRuns (alloc : List (Nat × Nat)) : Nat → Nat → List (Nat × Nat)
  | 0, b => if alloc.any (fun a => a.1 < b + 1 && b < a.1 + a.2) then [] else [(b, 1)]
  | k + 1, b =>
    if !alloc.any (fun a => a.1 < b + 2 ^ (k + 1) && b < a.1 + a.2) then [(b, 2 ^ (k + 1))]
    else freeRuns alloc k b ++ freeRuns alloc k (b + 2 ^ k)

/-- Free runs of the blocks that some page touches, and of the first block that none does. -/
def Pool.runs (p : Pool) : List (Nat × Nat) :=
  let n := p.blockUnits
  let used := nub (p.alloc.map (fun a => a.1 / n))
  let fresh := (List.range (used.length + 1)).find? (fun b => !used.contains b && b < p.blocks.toNat)
  used.flatMap (fun b => freeRuns (p.alloc.filter (fun a => a.1 / n == b)) (if p.kind then 8 else 0) (b * n)) ++
    (match fresh with | some b => [(b * n, n)] | none => [])

/-- The run a page of n units takes: the smallest that holds it, the lowest address first (14 R298). -/
def Pool.pick (p : Pool) (n : Nat) : Option Nat :=
  ((p.runs.filter (fun r => n ≤ r.2)).foldl (fun (b : Option (Nat × Nat)) r => match b with
    | none => some r
    | some x => if r.2 < x.2 || (r.2 == x.2 && r.1 < x.1) then some r else b) none).map (·.1)

/-- KPM_POOL_LARGEST.LOG2: log2 tokens of the largest free page, 0 for none. -/
def Pool.largest (p : Pool) : Nat :=
  let m := maxOf 0 (p.runs.map (·.2))
  if m = 0 then 0 else if p.kind then 4 + Nat.log2 m else 8

end Sys2Proof.Machine
end

