-- ==== Sys2Proof/Machine/Esc.lean ====
section
/-!
DEFINITION. Machine/Esc.lean: the escapement's sources and effective level (spec/17_thermal_escapement.md R374-R377).
-/
namespace Sys2Proof.Machine

/-- A thermal domain. -/
def Dev.dom (d : Dev) (n : Nat) : Domain := tget d.thm.dom n {}
/-- A thermal domain changed. -/
def Dev.setDom (d : Dev) (n : Nat) (x : Domain) : Dev := { d with thm := { d.thm with dom := tset d.thm.dom n x } }
/-- Every thermal domain changed by f. -/
def Dev.mapDom (d : Dev) (f : Nat → Domain → Domain) : Dev :=
  (List.range 6).foldl (fun d n => d.setDom n (f n (d.dom n))) d

/-- FAC_HALT: a shed with MODE 1, or the isolate point (17 R376). -/
def Dev.facHalt (d : Dev) : Bool := d.pwr.shed == 2 || d.pwr.isoHalt
/-- The effective level of a domain (17 R375). -/
def Dev.level (d : Dev) (n : Nat) : Nat :=
  max (d.dom n).thermal.toNat (max d.thm.facLvl.toNat (d.dom n).hostLvl.toNat)
/-- HALT is in force in a domain (17 R375, R378). -/
def Dev.halt (d : Dev) (n : Nat) : Bool := d.facHalt || (d.dom n).hostHalt || (d.dom n).stopping
/-- The domain's rails are off after a STOP (17 R379). -/
def Dev.stopped (d : Dev) (n : Nat) : Bool := (d.dom n).st == 3

/-- The domain holds a core group of partition p (17 R385). -/
def Dev.partInDom (d : Dev) (p n : Nat) : Bool := bf (tget d.parts p {}).groups.toNat (8 * n + 7) (8 * n) != 0

/-- A partition may set the host source of a domain: a compute stack with a core group present, all of which it holds (12 R276). -/
def Dev.mayRequest (d : Dev) (owner n : Nat) : Bool :=
  owner == 8 ||
    (let g := (List.range 8).filter (d.groupPresent n)
     d.kind n == 0 && !g.isEmpty && g.all (fun i => (tget d.parts owner {}).groups.getLsbD (8 * n + i)))

/-- Host requests that partition p wrote last return to level 0 (17 R377), in the domains ns. -/
def Dev.dropReqs (d : Dev) (p : Nat) (ns : List Nat) : Dev :=
  d.mapDom (fun n x => if x.hostOwner.toNat == p && ns.contains n then { x with hostLvl := 0, hostHalt := false, hostOwner := 8 } else x)

/-- A request of the host source (17 R377). -/
def Dev.hostReq (d : Dev) (n lvl : Nat) (halt : Bool) (owner : Nat) : Dev :=
  d.setDom n { d.dom n with hostLvl := BitVec.ofNat 4 lvl, hostHalt := halt, hostOwner := BitVec.ofNat 4 owner }

/-- A reading in quarter degrees as tenths, rounded down. -/
def tenths (q : Int) : Int := (q * 10) / 4
/-- A reading in quarter degrees as whole degrees, rounded down. -/
def degrees (q : Int) : Int := q / 4

/-- Key of a sensor. -/
def sensKey (n c i : Nat) : Nat := 1000 * n + 100 * c + i
/-- A sensor. -/
def Dev.sensor (d : Dev) (k : Nat) : Sensor := tget d.thm.sens k {}

/-- Sensors of class c fitted in domain n (17 Table 17-1). -/
def Dev.sensorsOf (d : Dev) (n c : Nat) : List Nat :=
  match d.kind n, c with
  | 0, 0 => List.range 68
  | 1, 0 => List.range 16
  | 0, 1 => List.range 32
  | 2, 2 => []
  | _, 2 => (List.range 2).filter (fun i => (hbmFitted d.fuse.variant).testBit (2 * n + i))
  | _, 3 => List.range 2
  | _, _ => []

end Sys2Proof.Machine
end

