-- ==== Sys2Proof/Machine/Regs.lean ====
section
/-!
DEFINITION. Machine/Regs.lean: the register map as a reader sees it (spec/21_register_summary.md R433-R440 and the register tables
of every chapter): where a function's offsets lie, which registers a virtual function sees, their values, and what a read
clears or latches. Offsets are those of the management BAR0.
-/
namespace Sys2Proof.Machine

/-! Where a function's offsets lie (21 R435). -/

/-- Management offset of an offset in the BAR0 of the VF of partition p. -/
def vfMap (p off : Nat) : Option Nat :=
  if off < 0x50000 then some off
  else if off < 0x70000 then some (0x180000 + (off - 0x50000))
  else if off < 0x80000 then none
  else if off < 0x90000 then some (0x80000 + 0x10000 * p + (off - 0x80000))
  else if off < 0xA0000 then some (0x100000 + (off - 0x90000))
  else if off < 0xB0000 then some (0x200000 + (off - 0xA0000))
  else if off < 0xC0000 then some (0x280000 + (off - 0xB0000))
  else if off < 0xD0000 then some (0x380000 + (off - 0xC0000))
  else if off < 0xE0000 then some (0x500000 + (off - 0xD0000))
  else if off < 0xF0000 then some (0x580000 + (off - 0xE0000))
  else if off < 0x100000 then some (0x600000 + (off - 0xF0000))
  else none

/-- Management offset of an offset in a function's BAR0. -/
def fnMap (fn : Fn) (off : Nat) : Option Nat :=
  match fn with
  | .pf => if off < 2 ^ 26 then some off else none
  | .vf p => vfMap p.val off

/-- off = base + stride * i for some i below n: that i. -/
def entry? (off base stride n : Nat) : Option Nat :=
  if base ≤ off && off < base + stride * n && (off - base) % stride == 0 then some ((off - base) / stride) else none

/-- Entry and offset within it, for arrays of register groups. -/
def group? (off base stride n : Nat) : Option (Nat × Nat) :=
  if base ≤ off && off < base + stride * n then some ((off - base) / stride, (off - base) % stride) else none

/-- Registers of a queue (11 Table 11-6). -/
def qRegs : List Nat := [0x00, 0x08, 0x10, 0x18, 0x20, 0x28, 0x30, 0x40, 0x48, 0x50, 0x58, 0x60, 0x68]
/-- Registers of a pool (14 Table 14-6). -/
def poolRegs : List Nat := [0x00, 0x08, 0x10, 0x18, 0x20, 0x28, 0x30, 0x38, 0x40, 0x48, 0x50, 0x58, 0x60]

/-- Key of pool p of site n. -/
def poolKey (n p : Nat) : Nat := 64 * n + p
/-- A pool. -/
def Dev.pool (d : Dev) (k : Nat) : Pool := tget d.kpm.pools k {}

/-- The registers a partition's VF sees (21 R435 and the chapters' own rules). -/
def Dev.regVisible (d : Dev) (p off : Nat) : Bool :=
  let some? := fun (o : Option Nat) => o.isSome
  -- SYS, TMK
  [0x00, 0x08, 0x10, 0x18, 0x20, 0x28, 0x30, 0x40, 0x48, 0x50, 0x58, 0x60, 0x70, 0x80, 0x88, 0x90, 0xA0].contains off
    || some? (entry? off 0x1000 8 384) || some? (entry? off 0x10000 8 128) || off == 0x10400
  -- THM, ESC
    || (match entry? off 0x30100 8 6 with | some n => d.partInDom p n | none => false)
    || (match entry? off 0x30140 8 6 with | some n => d.partInDom p n | none => false)
    || (match entry? off 0x40000 8 6 with | some n => d.partInDom p n | none => false)
    || (match entry? off 0x40040 8 6 with | some n => d.mayRequest p n | none => false)
  -- the partition's stride
    || (let b := 0x80000 + 0x10000 * p
        b ≤ off && off < b + 0x10000 && off % 8 == 0 &&
          ([0x00, 0x08, 0x10, 0x18, 0x20, 0x28, 0x180, 0x188].contains (off - b)
            || some? (entry? off (b + 0x40) 8 32)
            || (match group? off (b + 0x1000) 0x80 64 with | some (_, o) => qRegs.contains o | none => false)))
  -- DMA
    || (match group? off 0x100000 0x100 12 with
        | some (_, o) => o == 0 || o == 0x10 + 16 * p || o == 0x18 + 16 * p
        | none => false)
  -- KPM and ARB
    || (match group? off 0x180000 0x4000 6 with
        | some (n, o) => poolRegs.contains (o % 0x100) && (d.pool (poolKey n (o / 0x100))).owner.toNat == p
        | none => false)
    || some? (entry? off (0x198000 + 0x200 * p) 8 64) || some? (entry? off (0x199000 + 0x20 * p) 8 4)
    || [0x199120, 0x199800, 0x199808].contains off
  -- ATU, TRN, SLC
    || off == 0x200000 || some? (entry? off (0x200100 + 0x20 * p) 8 3)
    || off == 0x280000 || off == 0x280008 || off == 0x280010 + 8 * p
    || (match entry? off 0x381000 8 384 with
        | some k => (tget d.parts p {}).groups.getLsbD (8 * (k / 64) + k % 64 / 8)
        | none => false)
  -- CNT, LPE, SNP
    || some? (entry? off 0x500000 8 6) || some? (entry? off (0x580000 + 0x40 * p) 8 3) || some? (entry? off 0x600000 8 5)

/-- Entry k of SYS_PACE is a core of partition p (04 R109). -/
def Dev.paceOf (d : Dev) (p k : Nat) : Bool :=
  d.kind (k / 64) == 0 && (tget d.parts p {}).groups.getLsbD (8 * (k / 64) + k % 64 / 8)

/-! Values. -/

/-- Lowest bits of a two's complement field. -/
def sField (w : Nat) (i : Int) : Nat := ofSgn w i

/-- Milliseconds left of a count, rounded up. -/
def msLeft (now t : Nat) : Nat := min ((t - now + 999999) / 1000000) 0xFFFE

/-- SYS_ID (01 Table 01-6). -/
def Dev.sysId (d : Dev) : Nat :=
  0x5650 + (if d.sys.fuseLoaded then 2 ^ 16 * (tget d.fuse.zfGen 5 0).toNat + 2 ^ 20 * (tget d.fuse.zfStep 5 0).toNat else 0)

/-- SYS_BUILD (01 Table 01-7). -/
def Dev.sysBuild (d : Dev) : Nat :=
  if d.sys.fuseLoaded then
    let v := d.fuse.variant
    (sitesOf v 0).length + 16 * (sitesOf v 1).length + 64 * (sitesOf v 2).length + 256 * popcount (hbmFitted v) 12
      + 2 ^ 12 * b2n d.fuse.sufC + 2 ^ 13 * b2n d.fuse.sufL + 2 ^ 14 * b2n d.fuse.sufM
  else 0

/-- SYS_STATE (03 Table 03-5). -/
def Dev.sysState (d : Dev) : Nat :=
  d.sys.phase.toNat + 16 * b2n d.sys.ready + 32 * b2n d.sys.warm + 256 * d.sys.failCause.toNat

/-- SYS_LIVE (01 Table 01-12). -/
def Dev.sysLive (d : Dev) : Nat :=
  d.sys.liveCores.toNat + 2 ^ 16 * d.sys.liveLinks.toNat + 2 ^ 24 * d.sys.liveHbm.toNat

/-- The signed record's byte i: fused, zero where the fuse load of IOD0 failed (20 R421, 21 R440). -/
def Dev.touchByte (d : Dev) (i : Nat) : Byte := if d.sys.fuseLoaded then byteAt d.fuse.touchmark i else 0

/-- Standby cores of a site that are left (03 R83). -/
def Dev.standbyOf (d : Dev) (n : Nat) : List Nat := tget d.slc.standby n (tget d.fuse.standby n [64, 65, 66, 67])

/-- KEPT (20 R425). -/
def Dev.kept (d : Dev) : Bool := d.sys.everReady && d.sys.cause == 0

/-- TMK_STATE (20 Table 20-5). -/
def Dev.tmkState (d : Dev) : Nat :=
  let l := ((List.range 6).filter d.csActive).map (fun n => (d.standbyOf n).length)
  let m := match l with | [] => 0 | x :: r => r.foldl min x
  b2n d.kept + 256 * d.sys.cause.toNat + 2 ^ 16 * d.sys.subst.toNat + 2 ^ 24 * min m 4

/-- PWR_VOP (02 Table 02-13): fixed at 4 for a site that is not an active compute stack. -/
def Dev.pwrVop (d : Dev) : Nat :=
  (List.range 6).foldl (fun v n => v + 2 ^ (3 * n) * (if d.csActive n then (tget d.pwr.vop n 4).toNat else 4)) (2 ^ 24 * d.pwr.busy.toNat)

/-- REMAIN_MS of PWR_ISOLATE (02 R68). -/
def Dev.isoRemain (d : Dev) : Nat := match d.pwr.isoUntil with | none => 0xFFFF | some t => msLeft d.now t

/-- The hottest effective reading of a class, whole degrees (17 THM_DOM_n); 0x80 where the class is absent. -/
def Dev.hotByte (d : Dev) (n c : Nat) : Nat := match tget? (d.dom n).hot c with | none => 0x80 | some q => sField 8 (degrees q)

/-- ESC_DOM_n (17 Table 17-6). -/
def Dev.escDom (d : Dev) (n : Nat) : Nat :=
  let x := d.dom n
  d.level n + 16 * b2n (d.halt n) + 2 ^ 8 * x.thermal.toNat + 2 ^ 12 * d.thm.facLvl.toNat + 2 ^ 16 * x.hostLvl.toNat
    + 2 ^ 20 * b2n (x.st == 1) + 2 ^ 21 * b2n d.facHalt + 2 ^ 22 * b2n x.hostHalt

/-- STATE of a slice (06 Table 06-6). -/
def Dev.slcState (d : Dev) (n c : Nat) : Nat :=
  let k := d.siteSt n
  if d.kind n != 0 || d.coresPerCs ≤ c || (k != 0 && k != 1 && (d.slice n c).st.toNat < 2) then 3 else (d.slice n c).st.toNat

/-- SLC_CORE (06 Table 06-6). -/
def Dev.slcCore (d : Dev) (n c : Nat) : Nat :=
  let s := d.slice n c
  let used := (List.range 8).map (fun o => min 32 (tget s.dataUsed o 0))
  let ca := (List.range 8).map (fun o => min 2 (tget s.caSteer o []).length)
  d.slcState n c + 4 * used.foldl (· + ·) 0 + 2 ^ 11 * ca.foldl (· + ·) 0
    + 2 ^ 16 * (32 - maxOf 0 used)

/-- Read-only slices: when each T_EVAC ends. -/
def Dev.evacs (d : Dev) : List Nat :=
  d.slc.slices.filterMap (fun e => if e.2.st == 1 then some (e.2.evacAt.getD d.now) else none)

/-- SLC_EVAC (06 Table 06-6). -/
def Dev.slcEvac (d : Dev) : Nat :=
  match d.evacs with
  | [] => 0xFFFF
  | x :: r => msLeft d.now (r.foldl min x) + 2 ^ 16 * (r.length + 1)

/-- A queue by key. -/
def Dev.queueK (d : Dev) (k : Nat) : Queue := tget d.queues k {}

/-- Packets of a queue taken and not completed, ABORTs that are acted on among them (11 R243, R255). -/
def Dev.outstandingK (d : Dev) (k : Nat) : Nat :=
  (d.disp.pkts.filter (fun p => qKey p.q == k)).length
    + (d.disp.aborts.filter (fun j => j.kind == .packet && (j.q.map qKey) == some k)).length

/-- A register of a queue (11 Table 11-6). -/
def Dev.qReg (d : Dev) (k o : Nat) : Nat :=
  let x := d.queueK k
  match o with
  | 0x00 => b2n x.enable + 2 * x.ctx.toNat
  | 0x08 => bf x.sqBase.toNat 31 0
  | 0x10 => bf x.sqBase.toNat 55 32
  | 0x18 => x.sqLog2.toNat + 256 * x.cqLog2.toNat
  | 0x20 => bf x.cqBase.toNat 31 0
  | 0x28 => bf x.cqBase.toNat 55 32
  | 0x30 => b2n x.irqEn + 2 * x.irqVec.toNat + 256 * x.irqCount.toNat + 2 ^ 16 * x.irqTime.toNat
  | 0x40 => x.sqHead.toNat
  | 0x48 => x.sqTail.toNat
  | 0x50 => x.cqTail.toNat
  | 0x58 => x.cqHead.toNat
  | 0x60 => x.st.toNat + 4 * x.cause.toNat + 32 * min (d.outstandingK k) 256
      + 2 ^ 14 * x.badDb.toNat + 2 ^ 22 * x.lastAbort.toNat
  | 0x68 => x.replayed.toNat + 2 ^ 16 * x.aborted.toNat
  | _ => 0

/-- A register of a partition's stride (09 Table 09-6, 10 Table 10-4); every one reads zero while the partition is absent. -/
def Dev.strideReg (d : Dev) (p o : Nat) : Nat :=
  let x := tget d.parts p {}
  if x.st == 0 then 0
  else match o with
    | 0x00 => x.st.toNat + 4 * x.queues.toNat
    | 0x08 => bf x.groups.toNat 31 0
    | 0x10 => bf x.groups.toNat 47 32
    | 0x18 => x.units.toNat
    | 0x20 => x.affine.toNat + 256 * b2n x.partner
    | 0x28 => x.xltUnm.toNat + 2 ^ 16 * x.xltPerm.toNat
    | 0x180 => x.rsvLost.toNat + 2 ^ 16 * x.rsvExcl.toNat
    | 0x188 => x.sbStalls.toNat + 2 ^ 16 * x.sbFull.toNat
    | _ =>
      match entry? o 0x40 8 32 with
      | some i =>
        let c := tget x.ctx (i / 2) {}
        if i % 2 == 0 then b2n c.valid + alignDown (bf c.root.toNat 31 0) 8192 else bf c.root.toNat 55 32
      | none => match group? o 0x1000 0x80 64 with
        | some (q, r) => d.qReg (64 * p + q) r
        | none => 0

/-- A register of a pool (14 Table 14-6). -/
def Dev.poolReg (d : Dev) (k o : Nat) : Nat :=
  let x := d.pool k
  match o with
  | 0x00 => b2n x.enable + 2 * b2n x.kind + 4 * x.fmt.toNat + 64 * b2n x.scale + 128 * b2n x.ready + 2 ^ 8 * x.heads.toNat
      + 2 ^ 13 * x.hd.toNat + 2 ^ 16 * x.arbLog2.toNat + 2 ^ 20 * x.owner.toNat + 2 ^ 24 * x.nodesLog2.toNat + 2 ^ 31 * b2n x.err
  | 0x08 => bf x.base.toNat 31 0
  | 0x10 => bf x.base.toNat 55 32
  | 0x18 => x.blocks.toNat
  | 0x20 => bf x.desc.toNat 31 0
  | 0x28 => bf x.desc.toNat 55 32
  | 0x30 => bf x.arb.toNat 31 0
  | 0x38 => bf x.arb.toNat 55 32
  | 0x40 => if x.ready then x.freeUnits % 2 ^ 24 else 0
  | 0x48 => if x.ready then x.largest else 0
  | 0x50 => x.live.toNat
  | 0x58 => x.coll.toNat + 2 ^ 16 * x.full.toNat
  | 0x60 => x.dfree.toNat + 2 ^ 16 * x.notOwn.toNat
  | _ => 0

/-- Key of a DMA channel. -/
def chKey (n c : Nat) : Nat := 16 * n + c
/-- A DMA channel. -/
def Dev.chan (d : Dev) (k : Nat) : DmaCh := tget d.dmaCh k {}

/-- DMA_CH.STATE of a channel: 0 idle, 1 moving, 2 paused, 3 aborting (13 R294). A channel with blocks left to read is paused while
its domain is halted or its complex's read engine pauses (13 R282). -/
def Dev.chanState (d : Dev) (n c : Nat) : Nat :=
  let ch := d.chan (chKey n c)
  let more := match ch.job with | some j => j.active && !j.stop && decide (j.rd < j.bytes) | none => false
  if ch.st == 1 && more && (d.halt (n / 2) || (tget d.dma n {}).pause != 0) then 2 else ch.st.toNat

/-- A register of a DMA complex (13 Table 13-5), for the PF or a partition. -/
def Dev.dmaReg (d : Dev) (fn : Fn) (n o : Nat) : Nat :=
  let x := tget d.dma n {}
  match o with
  | 0x00 =>
    let cs := (List.range 16).filter (fun c => (d.chan (chKey n c)).job.isSome && (fn == .pf || c / 2 == fnOwner fn))
    b2n x.present + 2 * b2n x.fenced + 2 ^ 16 * ofBits cs
  | 0x08 => x.mismatch.toNat + 2 ^ 16 * x.failed.toNat
  | _ => match entry? o 0x10 8 16 with
    | some c =>
      let ch := d.chan (chKey n c)
      d.chanState n c + 4 * min ch.waiting.length 255 + 2 ^ 10 * (match ch.job with | some j => j.blocks.length | none => 0)
    | none => 0

/-- A Fidom link. -/
def Dev.link (d : Dev) (l : Nat) : Link := tget d.lnk.links l {}

/-- A register of the LNK block (16 Table 16-5). -/
def Dev.lnkReg (d : Dev) (o : Nat) : Nat :=
  let e := d.lnk.rtSel.toNat
  let pri := (tget d.lnk.pri e 0).toNat
  let alt := (tget d.lnk.alt e 0).toNat
  match o with
  | 0x00 => d.lnk.timeout.toNat
  | 0x08 => d.lnk.session.toNat
  | 0x10 => d.lnk.evt.toNat
  | 0x18 => d.lnk.late.toNat + 2 ^ 8 * d.lnk.dupRsp.toNat + 2 ^ 16 * d.lnk.dupReq.toNat + 2 ^ 24 * d.lnk.dropped.toNat
  | 0x20 => e
  | 0x28 => bf pri 31 0
  | 0x30 => bf pri 63 32
  | 0x38 => bf pri 71 64
  | 0x40 => bf alt 31 0
  | 0x48 => bf alt 63 32
  | 0x50 => bf alt 71 64
  | _ =>
    match entry? o 0x100 8 64 with
    | some i => (tget d.lnk.imp i 0).toNat
    | none => match entry? o 0x1000 8 72 with
      | some l =>
        let x := d.link l
        x.st.toNat + 2 ^ 3 * x.peerLink.toNat + 2 ^ 10 * x.peerNode.toNat + 2 ^ 18 * x.replays.toNat + 2 ^ 26 * x.downs.toNat
      | none => match entry? o 0x1400 8 72 with
        | some l => (d.link l).fecC.toNat + 2 ^ 24 * (d.link l).fecU.toNat
        | none => 0

/-- A register of the HBM block (07 Table 07-6). -/
def Dev.hbmReg (d : Dev) (o : Nat) : Nat :=
  match o with
  | 0x00 => d.hbm.evt.toNat
  | 0x08 => d.hbm.lastInfo.toNat
  | 0x10 => bf d.hbm.lastAddr.toNat 31 0
  | 0x18 => bf d.hbm.lastAddr.toNat 55 32
  | 0x20 => d.hbm.pass.toNat
  | 0x28 => 2 * b2n d.hbm.refused + 4 * b2n d.hbm.busy
  | 0x30 => d.formedGranules / 2048 % 2 ^ 16 + 2 ^ 16 * d.hbm.usable.toNat
  | 0x38 => d.hbmUnits
  | _ =>
    match entry? o 0x40 8 6 with
    | some n => (tget d.hbm.share n 0).toNat + 2 ^ 16 * (d.affGranules n / 2048 % 2 ^ 16)
    | none => match entry? o 0x1000 8 12 with
      | some h => if (hbmFitted d.fuse.variant).testBit h then (d.stack h).active.toNat else 0
      | none => match entry? o 0x1100 8 12 with
        | some h =>
          if (hbmFitted d.fuse.variant).testBit h then
            let s := d.stack h
            s.temp.toNat + 2 ^ 8 * b2n s.sensorOk + 2 ^ 9 * b2n s.trained
              + 2 ^ 10 * min 7 (maxOf 0 ((List.range 32).map (fun p => (s.rows.filter (fun r => r.1 == p)).length)))
              + 2 ^ 16 * s.ondieCe.toNat
          else 0
        | none => 0

/-- A register of the SLC block (06 Table 06-6). -/
def Dev.slcReg (d : Dev) (o : Nat) : Nat :=
  match o with
  | 0x00 => d.slc.evt.toNat
  | 0x08 => d.slc.lastInfo.toNat
  | 0x10 => bf d.slc.lastAddr.toNat 31 0
  | 0x18 => bf d.slc.lastAddr.toNat 55 32
  | 0x20 => d.slc.pass.toNat
  | 0x28 => d.slc.ctlCore.toNat + 64 * d.slc.ctlSite.toNat
  | 0x30 => d.slcEvac
  | _ => match entry? o 0x1000 8 384 with
    | some k => d.slcCore (k / 64) (k % 64)
    | none => 0

/-- A register of the ZF and PRT blocks (08 Table 08-7). -/
def Dev.zfReg (d : Dev) (o : Nat) : Nat :=
  match o with
  | 0x40 => d.zf.evt.toNat
  | 0x48 => 2 * b2n d.zf.rlcBusy
  | 0x100 => d.zf.prtSt.toNat + 8 * d.zf.prtRate.toNat + 16 * d.zf.prtCause.toNat + 2 ^ 8 * b2n d.zf.prtInit
      + 2 ^ 9 * b2n d.zf.prtWrite + 2 ^ 16 * d.zf.prtMaxOut.toNat
  | 0x108 => d.zf.prtWindow.toNat
  | 0x110 => bf d.zf.prtDigest.toNat 31 0
  | 0x118 => bf d.zf.prtDigest.toNat 63 32
  | 0x120 => bf d.zf.inBase.toNat 31 0
  | 0x128 => bf d.zf.inBase.toNat 55 32
  | 0x130 => d.zf.inSize.toNat
  | 0x138 => d.zf.errTimeout.toNat + 2 ^ 8 * d.zf.errCrc.toNat + 2 ^ 16 * d.zf.errLate.toNat + 2 ^ 24 * d.zf.errRefused.toNat
  | _ => match entry? o 0 8 7 with
    | some j => let x := tget d.zf.ports j {}; x.st.toNat + 2 ^ 8 * x.parityErr.toNat + 2 ^ 16 * x.replays.toNat
    | none => 0

/-- A register of the LCK block (19 Table 19-4). -/
def Dev.lckReg (d : Dev) (o : Nat) : Nat :=
  let x := d.lck
  match o with
  | 0x00 => x.level.toNat + 4 * b2n x.lockout + 8 * b2n x.disturbed + 16 * b2n d.pins.testEn
      + 2 ^ 8 * (if d.sys.fuseLoaded then min d.fuse.pwBanks.length 8 else 0) + 2 ^ 12 * x.fails.toNat
      + 2 ^ 16 * b2n x.chal.isSome + 2 ^ 17 * b2n x.busy.isSome
  | 0x10 => x.stat.toNat + 2 ^ 16 * x.lastOp.toNat
  | 0x200 => x.tapCount.toNat + 2 ^ 9 * b2n x.tapBusy + 2 ^ 10 * b2n x.tapAband
  | 0x208 => x.tms.toNat
  | 0x210 => x.tdi.toNat
  | 0x218 => x.tdo.toNat
  | 0x300 => if d.sys.fuseLoaded then d.fuse.idcode.toNat else 0
  | _ => match entry? o 0x40 8 8 with
    | some w => fieldAt x.chalView (4 * w) 4
    | none => 0

/-- A register of the PWR block (02 Table 02-13). -/
def Dev.pwrReg (d : Dev) (o : Nat) : Nat :=
  let x := d.pwr
  match o with
  | 0x00 => d.pwrVop
  | 0x08 => x.vIn.toNat + 2 ^ 16 * x.iIn.toNat
  | 0x10 => x.capW.toNat + 2 ^ 16 * x.capSrc.toNat + 2 ^ 17 * x.shed.toNat
  | 0x18 => b2n x.lost + 2 ^ 4 * x.crcErr.toNat + 2 ^ 12 * x.gaps.toNat + 2 ^ 20 * x.unackedN.toNat
  | 0x20 => x.inlet.toNat + 2 ^ 16 * x.outlet.toNat
  | 0x28 => x.evt.toNat
  | 0x30 => x.reqW.toNat + 2 ^ 17 * b2n x.pending + 2 ^ 18 * b2n x.failed
  | 0x38 => d.isoRemain
  | _ => 0

/-- A register of the THM block (17 Table 17-6). -/
def Dev.thmReg (d : Dev) (o : Nat) : Nat :=
  let x := d.thm
  let s := d.sensor (sensKey (bf x.sel.toNat 2 0) (bf x.sel.toNat 5 4) (bf x.sel.toNat 14 8))
  match o with
  | 0x00 => x.ctl.toNat
  | 0x08 => x.evt.toNat
  | 0x10 => b2n x.trip + 2 * x.tripDom.toNat + 16 * x.tripCls.toNat
  | 0x20 => x.sel.toNat
  | 0x28 => sField 16 (tenths s.raw) + 2 ^ 16 * b2n s.suspect + 2 ^ 17 * b2n s.broken
  | 0x30 => sField 16 (tenths s.eff)
  | _ =>
    match entry? o 0x100 8 6 with
    | some n => d.hotByte n 0 + 2 ^ 8 * d.hotByte n 1 + 2 ^ 16 * d.hotByte n 2 + 2 ^ 24 * d.hotByte n 3
    | none => match entry? o 0x140 8 6 with
      | some n =>
        let y := d.dom n
        let l := (List.range 4).flatMap (fun c => (d.sensorsOf n c).map (sensKey n c))
        y.st.toNat + 16 * y.eng.toNat + 2 ^ 8 * min 255 (l.filter (fun k => (d.sensor k).suspect)).length
          + 2 ^ 16 * min 255 (l.filter (fun k => (d.sensor k).broken)).length
      | none => match group? o 0x200 0x80 6 with
        | some (n, r) => if r % 8 == 0 && r / 8 < 11 then fieldAt (d.dom n).srec.bytes (4 * (r / 8)) 4 else 0
        | none => 0

/-- A function's counter window; BANK starts at the function's own bank (18 Table 18-8). -/
def Dev.cntFn (d : Dev) (fn : Fn) : CntFn :=
  let c := tget d.cnt.fns (fnKey fn) { bank := 8 }
  if fn == .pf then c else { c with bank := BitVec.ofNat 4 (fnOwner fn) }

/-- The counter a function has selected: bank, group, index; none where the function may not read it (18 R391). -/
def Dev.cntKey (d : Dev) (fn : Fn) : Option Nat :=
  let c := d.cntFn fn
  if c.bank.toNat < 10 && c.group.toNat < 5 then some (8192 * c.bank.toNat + 1024 * c.group.toNat + c.index.toNat) else none

/-- The value of a register, as a function reads it; what a function does not see reads zero. -/
def Dev.regVal (d : Dev) (fn : Fn) (off : Nat) : Nat :=
  let o := fnOwner fn
  if fn != .pf && !d.regVisible o off then 0
  else if off < 0x10000 then
    match off with
    | 0x00 => d.sysId
    | 0x08 => d.sysBuild
    | 0x10 => (List.range 6).foldl (fun v n => v + 16 ^ n * (d.siteSt n).toNat) 0
    | 0x18 => (if d.sys.fuseLoaded then hbmFitted d.fuse.variant else 0) + 2 ^ 16 * d.sys.hbmActive.toNat
    | 0x20 => if d.sys.fuseLoaded then d.coresPerCs + 2 ^ 8 * d.linksPerIod + 2 ^ 16 * d.gbPerStack else 0
    | 0x28 => d.sysLive
    | 0x30 => d.sysState
    | 0x40 => d.sys.stFuse.toNat
    | 0x48 => d.sys.stZf.toNat
    | 0x50 => d.sys.stMem.toNat
    | 0x58 => d.sys.stAssay.toNat
    | 0x60 => d.sys.stReady.toNat
    | 0x70 => d.sys.subst.toNat + 2 ^ 8 * d.sys.coreFenced.toNat + 2 ^ 16 * d.sys.dmaFenced.toNat + 2 ^ 20 * d.sys.kpmFenced.toNat
        + 2 ^ 24 * d.sys.linkFenced.toNat + 2 ^ 31 * b2n d.sys.classBroken
    | 0x80 => bf d.time.base 31 0
    | 0x88 => (tget d.time.shadow (fnKey fn) 0).toNat
    | 0x90 => b2n d.time.locked + 2 * b2n d.time.holdover + 4 * b2n d.time.holdSeen
    | 0xA0 => d.sys.node.toNat + 2 ^ 31 * b2n d.sys.nodeRef
    | _ => match entry? off 0x1000 8 384 with
      | some k => if !d.paceEntry k || (match fn with | .pf => false | .vf p => !d.paceOf p.val k) then 0 else
        let x := tget d.time.pace k {}; x.pace.toNat + 2 ^ 24 * x.win.toNat + 2 ^ 31 * b2n x.valid
      | none => match group? off 0x4000 0x80 16 with
        | some (m, r) => d.qReg (512 + m) r
        | none => 0
  else if off < 0x20000 then
    match entry? off 0x10000 8 128 with
    | some w =>
      if 16 ≤ w && w < 96 && (fn != .pf || d.lck.level.toNat < 2) then 0
      else leNat ((List.range 4).map (fun i => d.touchByte (4 * w + i)))
    | none => if off == 0x10400 then d.tmkState else if off == 0x10408 then b2n d.sys.tmkEvt else 0
  else if off < 0x30000 then d.pwrReg (off - 0x20000)
  else if off < 0x40000 then d.thmReg (off - 0x30000)
  else if off < 0x50000 then
    match entry? off 0x40000 8 6 with
    | some n => d.escDom n
    | none => match entry? off 0x40040 8 6 with
      | some n => if fn == .pf then (d.dom n).hostLvl.toNat + 16 * b2n (d.dom n).hostHalt + 256 * (d.dom n).hostOwner.toNat else 0
      | none => if off == 0x40080 then d.thm.pEst.toNat else 0
  else if off < 0x80000 then 0
  else if off < 0x100000 then d.strideReg ((off - 0x80000) / 0x10000) (off % 0x10000)
  else if off < 0x180000 then
    match group? off 0x100000 0x100 12 with
    | some (n, r) => d.dmaReg fn n r
    | none => 0
  else if off < 0x200000 then
    match group? off 0x180000 0x4000 6 with
    | some (n, r) => d.poolReg (poolKey n (r / 0x100)) (r % 0x100)
    | none => match entry? off 0x198000 8 512 with
      | some k =>
        let x := tget d.parts (k / 64) {}
        if x.st == 0 then 0 else (tget x.streams (k % 64) 0x1FFF).toNat
      | none =>
        if off == 0x199120 then b2n d.kpm.keyRef
        else if off == 0x199800 then 4 * b2n (tget d.kpm.pinRef (fnKey fn) false)
        else if off == 0x199808 then (tget d.kpm.pinHi (fnKey fn) 0).toNat
        else if off == 0x199810 then d.kpm.evt.toNat
        else if off == 0x199818 then bf d.kpm.last.toNat 31 0
        else if off == 0x199820 then bf d.kpm.last.toNat 55 32
        else 0
  else if off < 0x280000 then
    if off == 0x200000 then 0x1F + 2 ^ 8 * 20 + 2 ^ 16 * 64 + 2 ^ 24 * 16
    else match group? off 0x200100 0x20 8 with
      | some (p, r) =>
        let x := tget d.parts p {}
        if r == 0 then x.empty.toNat else if r == 8 then x.vDone.toNat + 2 ^ 16 * x.vRolled.toNat
        else if r == 16 then x.accepted.toNat else 0
      | none => 0
  else if off < 0x300000 then
    if off == 0x280000 then (if d.sys.fuseLoaded then d.fuse.nbr.toNat else 0) + 0xC00
    else if off == 0x280008 then 0x3FF
    else match entry? off 0x280010 8 8 with
      | some p => let x := tget d.parts p {}; b2n x.det + 2 * b2n x.outSat
      | none => match entry? off 0x280100 8 32 with
        | some i =>
          let c := tget (tget d.parts 8 {}).ctx (i / 2) {}
          if i % 2 == 0 then b2n c.valid + alignDown (bf c.root.toNat 31 0) 8192 else bf c.root.toNat 55 32
        | none => 0
  else if off < 0x380000 then d.hbmReg (off - 0x300000)
  else if off < 0x400000 then d.slcReg (off - 0x380000)
  else if off < 0x480000 then d.zfReg (off - 0x400000)
  else if off < 0x500000 then d.lnkReg (off - 0x480000)
  else if off < 0x580000 then
    let c := d.cntFn fn
    match off with
    | 0x500000 => c.index.toNat + 2 ^ 16 * c.group.toNat + 2 ^ 24 * c.bank.toNat
    | 0x500008 => match d.cntKey fn with | some k => bf (tget d.cnt.val k 0) 31 0 | none => 0
    | 0x500010 => c.shadow.toNat + 2 ^ 31 * b2n c.shOvf
    | 0x500018 => b2n c.satEvt
    | 0x500020 => b2n c.evt
    | 0x500028 => c.satLast.toNat
    | _ => 0
  else if off < 0x600000 then
    match group? off 0x580000 0x40 9 with
    | some (w, r) =>
      let sl := fun (f : Watch → Bool) => ofBits ((List.range 32).filter (fun s => f (tget d.lpe (32 * w + s) {})))
      if r == 0 then sl (·.bound) else if r == 8 then sl (fun x => x.bound && x.st == 1)
      else if r == 16 then sl (fun x => x.bound && x.st == 2) else 0
    | none => 0
  else if off < 0x680000 then
    let x := tget d.snp (fnKey fn) {}
    match off with
    | 0x600000 => bf x.dest.toNat 31 0
    | 0x600008 => bf x.dest.toNat 55 32
    | 0x600010 => 2 * b2n x.scope
    | 0x600018 => b2n x.busy + 2 * b2n x.done + 4 * b2n x.refused + 8 * b2n x.err + 16 * x.cause.toNat
    | 0x600020 => x.bytes.toNat
    | _ => 0
  else if off < 0x700000 then d.lckReg (off - 0x680000)
  else 0

/-! What a read clears (RC) or latches. -/

/-- A queue's RC counts cleared. -/
def Dev.qRc (d : Dev) (k o : Nat) : Dev :=
  let x := d.queueK k
  if o == 0x60 then { d with queues := tset d.queues k { x with badDb := 0 } }
  else if o == 0x68 then { d with queues := tset d.queues k { x with replayed := 0, aborted := 0 } }
  else d

/-- A partition's RC counts cleared. -/
def Dev.strideRc (d : Dev) (p o : Nat) : Dev :=
  let x := tget d.parts p {}
  if x.st == 0 then d
  else match o with
    | 0x28 => { d with parts := tset d.parts p { x with xltUnm := 0, xltPerm := 0 } }
    | 0x180 => { d with parts := tset d.parts p { x with rsvLost := 0, rsvExcl := 0 } }
    | 0x188 => { d with parts := tset d.parts p { x with sbStalls := 0, sbFull := 0 } }
    | _ => match group? o 0x1000 0x80 64 with
      | some (q, r) => d.qRc (64 * p + q) r
      | none => d

/-- SYS_TIME_LO latches the upper half (04 R103); CNT_VAL_LO latches VALUE[47:32] and OVF (18 R404). -/
def Dev.latchTime (d : Dev) (fn : Fn) : Dev :=
  { d with time := { d.time with shadow := tset d.time.shadow (fnKey fn) (BitVec.ofNat 32 (bf d.time.base 63 32)) } }

/-- CNT_VAL_LO's read. -/
def Dev.latchCnt (d : Dev) (fn : Fn) : Dev :=
  let c := d.cntFn fn
  let (v, o) := match d.cntKey fn with | some k => (tget d.cnt.val k 0, tget d.cnt.ovf k false) | none => (0, false)
  { d with cnt := { d.cnt with fns := tset d.cnt.fns (fnKey fn) { c with shadow := BitVec.ofNat 16 (bf v 47 32), shOvf := o } } }

/-- The effects of a read of a register. -/
def Dev.regSide (d : Dev) (fn : Fn) (off : Nat) : Dev :=
  let o := fnOwner fn
  if fn != .pf && !d.regVisible o off then d
  else if off == 0x80 then d.latchTime fn
  else if off == 0x500008 then d.latchCnt fn
  else if off == 0x20018 then { d with pwr := { d.pwr with crcErr := 0, gaps := 0, unackedN := 0 } }
  else if off < 0x20000 then
    match group? off 0x4000 0x80 16 with
    | some (m, r) => d.qRc (512 + m) r
    | none => d
  else if 0x80000 ≤ off && off < 0x100000 then d.strideRc ((off - 0x80000) / 0x10000) (off % 0x10000)
  else if off < 0x180000 then
    match group? off 0x100000 0x100 12 with
    | some (n, 8) => if fn == .pf then { d with dma := tmod d.dma n {} (fun x => { x with mismatch := 0, failed := 0 }) } else d
    | _ => d
  else if off < 0x200000 then
    match group? off 0x180000 0x4000 6 with
    | some (n, r) =>
      let k := poolKey n (r / 0x100)
      if r % 0x100 == 0x58 then { d with kpm := { d.kpm with pools := tmod d.kpm.pools k {} (fun x => { x with coll := 0, full := 0 }) } }
      else if r % 0x100 == 0x60 then { d with kpm := { d.kpm with pools := tmod d.kpm.pools k {} (fun x => { x with dfree := 0, notOwn := 0 }) } }
      else d
    | none => d
  else if off < 0x280000 then
    match group? off 0x200100 0x20 8 with
    | some (p, r) =>
      if r == 0 then { d with parts := tmod d.parts p {} (fun x => { x with empty := 0 }) }
      else if r == 8 then { d with parts := tmod d.parts p {} (fun x => { x with vDone := 0, vRolled := 0 }) }
      else if r == 16 then { d with parts := tmod d.parts p {} (fun x => { x with accepted := 0 }) }
      else d
    | none => d
  else if 0x300000 ≤ off && off < 0x380000 then
    match entry? off 0x301100 8 12 with
    | some h => if (hbmFitted d.fuse.variant).testBit h then d.setStack h { d.stack h with ondieCe := 0 } else d
    | none => d
  else if 0x400000 ≤ off && off < 0x480000 then
    if off == 0x400138 then { d with zf := { d.zf with errTimeout := 0, errCrc := 0, errLate := 0, errRefused := 0 } }
    else match entry? off 0x400000 8 7 with
      | some j => { d with zf := { d.zf with ports := tmod d.zf.ports j {} (fun x => { x with parityErr := 0, replays := 0 }) } }
      | none => d
  else if 0x480000 ≤ off && off < 0x500000 then
    if off == 0x480018 then { d with lnk := { d.lnk with late := 0, dupRsp := 0, dupReq := 0, dropped := 0 } }
    else match entry? off 0x481000 8 72 with
      | some l => { d with lnk := { d.lnk with links := tmod d.lnk.links l {} (fun x => { x with replays := 0, downs := 0 }) } }
      | none => match entry? off 0x481400 8 72 with
        | some l => { d with lnk := { d.lnk with links := tmod d.lnk.links l {} (fun x => { x with fecC := 0, fecU := 0 }) } }
        | none => d
  else d

/-- A read of the register at a management offset: its value, and the module after the read. -/
def regRead (d : Dev) (fn : Fn) (off : Nat) : Nat × Dev := (d.regVal fn off, d.regSide fn off)

end Sys2Proof.Machine
end

