-- ==== Sys2Proof/Machine/Msgs.lean ====
section
/-!
DEFINITION. Machine/Msgs.lean: messages on their way out: their bytes, the link a message takes, the flits of a link
(spec/16_fidom_links.md R346-R352), a RID for a request, and the messages to the partner die (spec/08_die_fabric.md R191, R192).
-/
namespace Sys2Proof
open Machine

/-! Messages (16 Table 16-2). -/

/-- Virtual channel of a message: 0 REQ, 1 RSP, 2 STREAM (16 R351, R354). -/
def Msg.vc (m : Msg) : Nat := if m.op == 5 then 1 else if m.op == 4 then 2 else 0

/-- Bytes of data that follow a header (16 R352). -/
def dataLen (op len : Nat) : Nat :=
  if op == 2 || op == 4 || op == 5 then min len 4096 else if op == 3 then 16 else 0

/-- Units of a message. -/
def Msg.nUnits (m : Msg) : Nat := 2 + (dataLen m.op m.len + 15) / 16

/-- The message as bytes, in whole units. -/
def Msg.encode (m : Msg) : List Byte :=
  let h := leBytes 1 m.op ++ leBytes 1 (b2n m.tracked + 2 * b2n m.dup) ++ leBytes 1 m.hops ++ leBytes 1 (m.owner % 16 + 16 * m.atom)
    ++ leBytes 2 m.rid ++ leBytes 2 m.xseq ++ leBytes 1 m.dst ++ leBytes 1 m.src ++ leBytes 2 m.len ++ leBytes 2 m.session
    ++ leBytes 2 m.status ++ leBytes 7 m.addr ++ leBytes 9 0
  padTo (16 * m.nUnits) (h ++ m.data)

/-- The message a list of units carries. -/
def Msg.decode (b : List Byte) : Msg :=
  let op := fieldAt b 0 1
  let len := fieldAt b 10 2
  { op := op, tracked := bit (fieldAt b 1 1) 0, dup := bit (fieldAt b 1 1) 1, hops := fieldAt b 2 1,
    owner := bf (fieldAt b 3 1) 3 0, atom := bf (fieldAt b 3 1) 7 4, rid := fieldAt b 4 2, xseq := fieldAt b 6 2,
    dst := fieldAt b 8 1, src := fieldAt b 9 1, len := len, session := fieldAt b 12 2, status := fieldAt b 14 2,
    addr := fieldAt b 16 7, data := (b.drop 32).take (dataLen op len) }

end Sys2Proof

namespace Sys2Proof.Machine

/-! Links. -/

/-- A link changed. -/
def Dev.setLink (d : Dev) (l : Nat) (x : Link) : Dev := { d with lnk := { d.lnk with links := tset d.lnk.links l x } }

/-- Links of a mask that are up, ascending. -/
def Dev.upLinks (d : Dev) (m : BitVec 72) : List Nat := (List.range 72).filter (fun l => m.getLsbD l && (d.link l).st == 2)

/-- The link a message takes (16 R349). -/
def Dev.route (d : Dev) (node vc : Nat) : Option Nat :=
  let p := d.upLinks (tget d.lnk.pri node 0)
  let use := if p.isEmpty then d.upLinks (tget d.lnk.alt node 0) else p
  use[(node + vc) % use.length]?

/-! Flits (16 R346, R347, R351). -/

/-- Units of one channel not yet sent. -/
def Link.waitingUnits (x : Link) (vc : Nat) : Nat := ((x.txq.filter (fun t => t.vc == vc)).map (fun t => t.left.length)).foldl (· + ·) 0

/-- Credits of a channel. -/
def Link.credits (x : Link) (vc : Nat) : Nat := if vc == 0 then x.crReq else if vc == 1 then x.crRsp else x.crStr

/-- k units of a channel taken in order; a message whose first unit goes is sent once more, one whose last unit goes learns the
flit's SEQ. -/
def takeUnits (vc : Nat) (seq : BitVec 10) : List TxMsg → Nat → List (List Byte × Option Nat) × List TxMsg
  | [], _ => ([], [])
  | t :: r, k =>
    if t.vc != vc || t.left.isEmpty then
      let y := takeUnits vc seq r k
      (y.1, t :: y.2)
    else
      let u := t.left.take k
      let t2 := { t with
        left := t.left.drop k, last := if t.left.length ≤ k && k != 0 then some seq else t.last,
        sends := if k != 0 && t.left.length == t.msg.nUnits then t.sends + 1 else t.sends }
      let y := takeUnits vc seq r (k - u.length)
      (u.map (fun b => (b, t.owner)) ++ y.1, t2 :: y.2)

/-- How many units of RSP, REQ and STREAM the next flit carries. -/
def Link.plan (x : Link) : Nat × Nat × Nat :=
  let av := fun v => min (x.waitingUnits v) (x.credits v)
  let s := min (av 2) 2
  let r := min (av 1) (7 - s)
  let q := min (av 0) (7 - s - r)
  (r, q, min (av 2) (7 - r - q))

/-- The 128 bytes of a flit (16 Table 16-1). -/
def flitBytes (seq ack : Nat) (nak : Bool) (freed : Nat × Nat × Nat) (units : List (Nat × List Byte)) : List Byte :=
  let vcs := (List.range 7).foldl (fun v i => v + 4 ^ i * (match units[i]? with | some u => u.1 | none => 3)) 0
  let b := leBytes 2 seq ++ leBytes 2 (ack + 32768 * b2n nak)
    ++ leBytes 4 (freed.1 % 1024 + 1024 * (freed.2.1 % 1024) + 2 ^ 20 * (freed.2.2 % 1024))
    ++ leBytes 2 vcs ++ leBytes 2 0 ++ padTo 112 (units.flatMap (·.2))
  b ++ leBytes 4 (crc32 b)

/-- The next flit of a link sent: what waits, or an empty one. -/
def Dev.sendFlit (d : Dev) (l : Nat) (nak : Bool) : Dev :=
  let x := d.link l
  let (r, q, s) := x.plan
  let a := takeUnits 1 x.txSeq x.txq r
  let b := takeUnits 0 x.txSeq a.2 q
  let c := takeUnits 2 x.txSeq b.2 s
  let all := a.1.map (fun u => (1, u)) ++ b.1.map (fun u => (0, u)) ++ c.1.map (fun u => (2, u))
  let units := all.map (fun u => (u.1, u.2.1))
  let fr := (min x.freed.1 1023, min x.freed.2.1 1023, min x.freed.2.2 1023)
  let bytes := flitBytes x.txSeq.toNat ((x.rxSeq.toNat + 1023) % 1024) nak fr units
  let d := all.foldl (fun d u => d.count u.2.2 3 (8 * l + (if u.2.2.isSome then u.1 else 6)) 16) d
  let d := d.count none 3 (8 * l + 6) (16 + 16 * (7 - all.length))
  (d.setLink l { x with
    txq := c.2, txSeq := x.txSeq + 1, replay := x.replay ++ [{ seq := x.txSeq, bytes := bytes }],
    crReq := x.crReq - q, crRsp := x.crRsp - r, crStr := x.crStr - s,
    freed := (x.freed.1 - fr.1, x.freed.2.1 - fr.2.1, x.freed.2.2 - fr.2.2) }).emit (.flit l bytes)

/-- Flits sent while units wait with credit and the replay buffer has room. -/
def Dev.pump (d : Dev) (l : Nat) : Nat → Dev
  | 0 => d
  | n + 1 =>
    let x := d.link l
    if x.st == 2 && x.replay.length < 512 && x.plan != (0, 0, 0) then (d.sendFlit l false).pump l n else d

/-! Requests. -/

/-- A RID that is not outstanding and was not lately. -/
def Dev.freeRid (d : Dev) : BitVec 16 :=
  let used := d.lnk.rids.map (·.rid)
  ((List.range (used.length + 1)).map (fun i => d.lnk.nextRid + BitVec.ofNat 16 i)).find? (fun r => !used.contains r) |>.getD d.lnk.nextRid

/-- A message put on a link. -/
def Dev.enqueue (d : Dev) (l : Nat) (t : TxMsg) : Dev :=
  let x := d.link l
  (d.setLink l { x with txq := x.txq ++ [t] }).pump l 1024

/-! The partner die (08 R191). -/

/-- A message: its header slot and data slots, with the CRC-32C over both (08 Table 08-5). -/
def prtMsg (op len status tag addr : Nat) (data : List Byte) : List Byte :=
  let h := leBytes 1 op ++ leBytes 1 len ++ leBytes 1 status ++ leBytes 1 0 ++ leBytes 2 tag ++ leBytes 2 0 ++ leBytes 6 addr ++ leBytes 46 0
  h ++ leBytes 4 (crc32c (h ++ leBytes 4 0 ++ data)) ++ data

/-- A TAG that no outstanding request uses; one of a request given up only where no other is left. -/
def Dev.prtTag (d : Dev) : Option Nat :=
  let n := d.zf.prtMaxOut.toNat + 1
  let live := (d.zf.reqs.filter (fun r => !r.dead)).filterMap (·.ptag)
  let dead := (d.zf.reqs.filter (fun r => r.dead)).filterMap (·.ptag)
  let free := (List.range n).filter (fun t => !live.contains t)
  match free.filter (fun t => !dead.contains t) with
  | t :: _ => some t
  | [] => free.head?

/-- Messages a range [addr, addr + n) is split into: (message address, message length). -/
def prtSplit (big : Bool) : Nat → Nat → Nat → List (Nat × Nat)
  | 0, _, _ => []
  | f + 1, a, stop =>
    let b := alignDown a 64
    if stop ≤ b then []
    else if big && b % 256 == 0 && b + 256 ≤ stop then (b, 256) :: prtSplit big f (b + 256) stop
    else (b, 64) :: prtSplit big f (b + 64) stop

end Sys2Proof.Machine
end

