-- ==== Sys2Proof/Machine/Ops.lean ====
section
/-!
DEFINITION. Machine/Ops.lean: memory. The stored bytes in their canonical form, the HBM interleave map
(spec/07_hbm_tier.md R168, R169), where a DPA lies (spec/09_addressing.md R196, R197), and every read and write of a word under
its code, with the events, tallies, repairs and broken reservations the spec attaches to it (spec/06_bonded_slices.md
R144-R155, spec/07_hbm_tier.md R163-R173, spec/05_cores_arrays.md R444, spec/10_ordering.md R234, R235).
-/
namespace Sys2Proof.Machine

/-! Stored bytes. -/

/-- What a byte reads as where nothing is listed. -/
def bgByte (fills : List (Nat × Nat × Fill)) (a : Nat) : Byte :=
  match fills with
  | [] => Config.freeByte 0 a
  | (lo, hi, f) :: r =>
    if lo ≤ a && a ≤ hi then (match f with | .zero => 0 | .opened n => Config.freeByte n a)
    else bgByte r a

/-- The byte of a cell list. -/
def cellAt (l : List Host.Cell) (a : Nat) : Option Byte :=
  match l with
  | [] => none
  | (k, v) :: r => if k = a then some v else cellAt r a

/-- The byte stored at an address. -/
def Mem.byte (m : Mem) (a : Nat) : Byte := (cellAt m.cells a).getD (bgByte m.fills a)

/-- A cell list with the byte at a removed. -/
def cellDel (l : List Host.Cell) (a : Nat) : List Host.Cell :=
  match l with
  | [] => []
  | (k, v) :: r => if k = a then r else (k, v) :: cellDel r a

/-- A cell list in rising order with the byte at a set. -/
def cellPut (l : List Host.Cell) (a : Nat) (b : Byte) : List Host.Cell :=
  match l with
  | [] => [(a, b)]
  | (k, v) :: r =>
    if a < k then (a, b) :: (k, v) :: r
    else if k = a then (a, b) :: r
    else (k, v) :: cellPut r a b

/-- One byte stored: a byte equal to the background is not listed. -/
def Mem.put (m : Mem) (a : Nat) (b : Byte) : Mem :=
  { m with cells := if b = bgByte m.fills a then cellDel m.cells a else cellPut m.cells a b }

/-- Bytes stored from an address on. -/
def Mem.putList (m : Mem) (a : Nat) (l : List Byte) : Mem :=
  match l with
  | [] => m
  | b :: r => (m.put a b).putList (a + 1) r

/-- n bytes from an address on; the cells of the range are looked up among those that lie in it. -/
def Mem.bytes (m : Mem) (a n : Nat) : List Byte :=
  let c := m.cells.filter (fun e => a ≤ e.1 && e.1 < a + n)
  (List.range n).map (fun i => (cellAt c (a + i)).getD (bgByte m.fills (a + i)))

/-- A range given a new background: nothing in it is listed any more, and every word of it is CLEAN. -/
def Mem.fill (m : Mem) (lo hi : Nat) (f : Fill) : Mem :=
  { fills := (lo, hi, f) :: m.fills.filter (fun e => !(lo ≤ e.1 && e.2.1 ≤ hi)),
    cells := m.cells.filter (fun e => !(lo ≤ e.1 && e.1 ≤ hi)),
    chk := m.chk.filter (fun e => !(lo ≤ e.1 && e.1 ≤ hi)) }

/-- Rising addresses, and no cell equal to the background: the one form a memory has. -/
def cellsOk (fills : List (Nat × Nat × Fill)) : List Host.Cell → Bool
  | [] => true
  | [(k, v)] => !(v == bgByte fills k)
  | (k, v) :: (k2, v2) :: r => !(v == bgByte fills k) && decide (k < k2) && cellsOk fills ((k2, v2) :: r)

/-- The canonical form of a memory. -/
def Mem.wf (m : Mem) : Bool := cellsOk m.fills m.cells

/-- The difference of a word's check bits. -/
def Mem.diff (m : Mem) (w : Nat) : Nat := (tget m.chk w 0).toNat

/-- The difference of a word's check bits set; zero is not listed. -/
def Mem.setDiff (m : Mem) (w x : Nat) : Mem :=
  { m with chk := if x = 0 then tdel m.chk w else tset m.chk w (BitVec.ofNat 16 x) }

/-- A word set to the poison encoding (06 R145). -/
def Mem.poison (m : Mem) (w : Nat) : Mem := (m.putList w (List.replicate 32 0)).setDiff w poisonDiff

/-- A stored bit 0-271 of a word flips. -/
def Mem.upset (m : Mem) (w j : Nat) : Mem :=
  if j < 256 then
    let b := m.byte (w + j / 8)
    (m.put (w + j / 8) (b ^^^ BitVec.ofNat 8 (2 ^ (j % 8)))).setDiff w (m.diff w ^^^ dataFlipDiff j)
  else m.setDiff w (m.diff w ^^^ 2 ^ (j - 256))

/-- Data bit j of a word flipped back, and fresh check bits. -/
def Mem.correct (m : Mem) (w : Nat) (c : EccClass) : Mem :=
  match c with
  | .data j =>
    let b := m.byte (w + j / 8)
    (m.put (w + j / 8) (b ^^^ BitVec.ofNat 8 (2 ^ (j % 8)))).setDiff w 0
  | _ => m.setDiff w 0

/-! Where a DPA lies (09 R196, R197). -/

/-- The target of an access. -/
inductive Loc where
  | hbm (h p word : Nat) (affine : Bool)
  | slice (n c off : Nat)
  | sram (n c off : Nat)
  | host
  | partner (off : Nat)
  | regs (off : Nat)
  | remote (node : Nat)
  | bad (s : BitVec 16)
deriving DecidableEq, Repr

/-- An offset of space 0xF lies in a block of registers (21 Table 21-2): the blocks up to the counter windows, and the strides
of partitions and queues up to the doorbells of the management domain; nothing lies between or above them (09 Table 09-1). -/
def regBlock (o : Nat) : Bool := decide (o < 0x50000) || (decide (0x80000 ≤ o) && decide (o < 0x700000))

/-- The target of a DPA in canonical form. -/
def Dev.locate (d : Dev) (a : Nat) : Loc :=
  let sp := dpaSpace a
  if !isLocal a then
    if 4 ≤ sp then .bad sPerm
    else if d.sys.node == 0xFF then .bad sUnmapped
    else .remote (dpaNode a)
  else
    match sp with
    | 0 => match d.interLoc (dpaOff a) with
      | some (h, p, w) => if d.pcActive h p then .hbm h p w false else .bad sUnmapped
      | none => .bad sUnmapped
    | 1 => match d.affLoc (dpaSite a) (a % 2 ^ 41) with
      | some (h, p, w) => if d.pcActive h p then .hbm h p w true else .bad sUnmapped
      | none => .bad sUnmapped
    | 2 => if d.coreLive (dpaSite a) (dpaCore a) && dpaCoreOff a < 0x18000000
        then .slice (dpaSite a) (dpaCore a) (dpaCoreOff a) else .bad sUnmapped
    | 3 => if d.coreLive (dpaSite a) (dpaCore a) && dpaCoreOff a < 0x400000
        then .sram (dpaSite a) (dpaCore a) (dpaCoreOff a) else .bad sUnmapped
    | 12 => .host
    | 14 => if d.partnerReady && dpaOff a < d.zf.prtWindow.toNat * 2 ^ 20 then .partner (dpaOff a) else .bad sUnmapped
    | 15 => if regBlock (dpaOff a) then .regs (dpaOff a) else .bad sUnmapped
    | _ => .bad sUnmapped

/-- Site behind which a target lies, for the Remote Line Cache (08 R184): the host port is on S5, the partner die S4, and another
module behind none. -/
def Loc.site : Loc → Nat
  | .hbm h _ _ _ => h / 2
  | .slice n _ _ => n
  | .sram n _ _ => n
  | .host => 5
  | .partner _ => 4
  | _ => 9

/-- The target holds memory. -/
def Loc.isMem : Loc → Bool
  | .regs _ => false
  | .bad _ => false
  | _ => true

/-- MEM counter index of reads of a target; writes are one more (18 Table 18-1). -/
def Loc.memIdx : Loc → Option Nat
  | .slice _ _ _ => some 0
  | .sram _ _ _ => some 2
  | .hbm _ _ _ false => some 4
  | .hbm _ _ _ true => some 6
  | .host => some 10
  | .partner _ => some 12
  | _ => none

/-! Accesses. -/

/-- Who makes an access and under what circumstances. -/
structure Acc where
  /-- Owner charged; none for scrubs and other unattributed work. -/
  owner : Option Nat := none
  /-- SOURCE code of LAST_INFO: 0 demand, 1 partial write, 2 scrub, 3 test. -/
  src : Nat := 0
  /-- The KPM slot whose own write leaves its reservation. -/
  slot : Option Nat := none
  /-- The agent's compute stack, where its reads may fill the RLC. -/
  site : Option Nat := none
  /-- The read comes through an immutable translation or a SHARED page. -/
  imm : Bool := false
  /-- The access comes by BAR4: a partial write is logged with SOURCE 0 (09 R210). -/
  bar4 : Bool := false
  /-- Number of the packet that makes it. -/
  ord : Option Nat := none
  /-- Queue of that packet. -/
  q : Option QRef := none
  /-- Core from whose store buffer it is issued. -/
  core : Option Nat := none
  /-- What the world outside does meanwhile. -/
  env : Env := {}
deriving Repr

/-- A logged event of a slice or core SRAM (06 R146, R158). -/
def Dev.logSlc (d : Dev) (cls src bit lane dpa : Nat) : Dev :=
  let seq := (bf d.slc.lastInfo.toNat 9 6 + 1) % 16
  let m : BitVec 8 := match cls with | 1 => 1 | 2 => 1 | 3 => 2 | 5 => 2 | 4 => 4 | 6 => 8 | _ => 16
  let d := d.raiseSlc m
  { d with slc := { d.slc with
      lastInfo := BitVec.ofNat 32 (cls + 16 * src + 64 * seq + 1024 * bit + 2 ^ 19 * lane),
      lastAddr := BitVec.ofNat 56 dpa } }

/-- A logged event of an HBM stack (07 R164, R176). -/
def Dev.logHbm (d : Dev) (cls src bit h p dpa : Nat) : Dev :=
  let seq := (bf d.hbm.lastInfo.toNat 9 6 + 1) % 16
  let m : BitVec 9 := match cls with | 1 => 1 | 2 => 1 | 3 => 2 | 5 => 2 | 4 => 4 | 6 => 8 | 7 => 16 | _ => 64
  let d := d.raiseHbm m
  { d with hbm := { d.hbm with
      lastInfo := BitVec.ofNat 32 (cls + 16 * src + 64 * seq + 1024 * bit + 2 ^ 19 * p + 2 ^ 24 * h),
      lastAddr := BitVec.ofNat 56 dpa } }

/-- A KPM slot. -/
def Dev.kslot (d : Dev) (k : Nat) : KSlot := tget d.kpm.slots k {}

/-- LOST or EXCL of an owner's PART_ORD_RSV counted (10 R238). -/
def Dev.countRsv (d : Dev) (owner : Nat) (excl : Bool) : Dev :=
  if owner < 8 then
    let p := tget d.parts owner {}
    { d with parts := tset d.parts owner (if excl then { p with rsvExcl := satAdd p.rsvExcl 1 } else { p with rsvLost := satAdd p.rsvLost 1 }) }
  else d

/-- One reservation broken (10 R234). -/
def Dev.dropRsv (d : Dev) (k : Nat) : Dev :=
  let s := d.kslot k
  match s.gran with
  | none => d
  | some _ => ({ d with kpm := { d.kpm with slots := tset d.kpm.slots k { s with gran := none } } }).countRsv (qOwner s.q) false

/-- The reservations a write of [a, a + n) breaks: those of overlapping granules, but for the writing slot's own (10 R234). -/
def Dev.breakRsv (d : Dev) (a n : Nat) (own : Option Nat) : Dev :=
  let ks := d.kpm.slots.filter (fun e => some e.1 != own &&
    (match e.2.gran with | some g => g < a + n && a < g + 256 | none => false))
  ks.foldl (fun d e => d.dropRsv e.1) d

/-- The granule of an address is held exclusively by a slot other than own (10 R235). -/
def Dev.isHeld (d : Dev) (a : Nat) (own : Option Nat) : Bool :=
  d.kpm.slots.any (fun e => some e.1 != own && e.2.excl == some (alignDown a 256))

/-- A write kept back by an exclusive hold (10 R235). -/
def Dev.keepBack (d : Dev) (acc : Acc) (a : Nat) (b : List Byte) (poison : Bool) : Dev :=
  { d with kpm := { d.kpm with held := d.kpm.held ++
      [{ addr := a, bytes := b, poison := poison, owner := acc.owner, ord := acc.ord, q := acc.q, bar4 := acc.bar4, core := acc.core }] } }

/-- A word poisoned (06 R145, R149), or the poison write kept back by an exclusive hold (10 R235). -/
def Dev.poisonWord (d : Dev) (acc : Acc) (w : Nat) : Dev :=
  if d.isHeld w acc.slot then d.keepBack acc w (List.replicate 32 0) true
  else ({ d with mem := d.mem.poison w }).breakRsv w 32 none

/-- Every active pseudo-channel. -/
def Dev.allPcs (d : Dev) : List (Nat × Nat) := (List.range 12).flatMap (fun h => ((List.range 32).filter (d.pcActive h)).map (fun p => (h, p)))

/-- HBM_SCRUB.PASS counts a pass that has ended on every active pseudo-channel (07 R166): looked at when a pass ends on one, and when
one leaves service. -/
def Dev.hbmPass (d : Dev) : Dev :=
  let l := d.allPcs
  if !l.isEmpty && l.all (fun x => tget (d.stack x.1).passes x.2 0 != 0) then
    let d := l.foldl (fun d x => let s := d.stack x.1; d.setStack x.1 { s with passes := tset s.passes x.2 (tget s.passes x.2 0 - 1) }) d
    { d with hbm := { d.hbm with pass := d.hbm.pass + 1 } }
  else d

/-- A run-time map-out of a pseudo-channel (07 R172, R173): ACTIVE and USABLE fall, the map-out is logged, reservations on its
granules break, and the last one takes the stack with it. brk: cause HBM is set (20 R424). -/
def Dev.mapOut (d : Dev) (h p src : Nat) (brk : Bool) : Dev :=
  if d.pcActive h p then
    let ks := d.kpm.slots.filter (fun e => match e.2.gran with
      | some g => (match d.locate g with | .hbm h' p' _ _ => h' == h && p' == p | _ => false)
      | none => false)
    let d := ks.foldl (fun d e => d.dropRsv e.1) d
    let s := d.stack h
    let d := d.setStack h { s with active := putBit s.active p false }
    let d := d.logHbm 7 src 0 h p 0
    let d := { d with hbm := { d.hbm with usable := BitVec.ofNat 16 (d.hbm.usable.toNat - d.granules / 2048) } }
    let d := d.publishLive
    let d := (if (d.stack h).active == 0 then d.raiseHbm 32 else d).hbmPass
    if brk then d.breakClass 64 else d
  else d

/-- An uncorrectable row counted; the fourth distinct one of a pseudo-channel in a pass maps it out (07 R171). -/
def Dev.tallyRow (d : Dev) (h p word src : Nat) : Dev :=
  let s := d.stack h
  if s.rows.contains (p, word / 32) then d
  else
    let rows := s.rows ++ [(p, word / 32)]
    let d := d.setStack h { s with rows := rows }
    if (rows.filter (fun e => e.1 == p)).length == 4 then d.mapOut h p src true else d

/-- Octant of a slice offset (06 Table 06-1). -/
def octOf (off : Nat) : Nat := bf off 12 10
/-- Layer of a slice offset. -/
def layerOf (off : Nat) : Nat := bf off 15 13
/-- Bank and row of a slice offset, as one number. -/
def rowOf (off : Nat) : Nat := bf off 17 16 * 1536 + bf off 28 18
/-- Slice lane that carries bit j of the word at a slice offset (06 R135, R138). -/
def laneOf (off j : Nat) : Nat := 512 * octOf off + (272 * bf off 9 5 + j) % 512

/-- A slice left without a spare becomes read-only (06 R155). -/
def Dev.goReadOnly (d : Dev) (n c : Nat) : Dev :=
  let s := d.slice n c
  if s.st == 0 then
    (d.setSlice n c { s with st := 1, evacAt := some (d.now + 10000000000) }).raiseSlc 32
  else d

/-- The corrections of a lane in one pass make it a lane fault (06 R151). -/
def laneFaulty (l : List (Nat × Nat × Nat)) : Bool := 3 ≤ l.length && 2 ≤ (nub (l.map (·.2.1))).length

/-- A correction attributed to its lane (06 R151); the one that makes it a lane fault steers the lane to a spare and starts a
repair sweep, or leaves the slice read-only (06 R152, R155). A lane is classed once in a pass: the words its sweep has not
reached yet may still need correction. Where no spare is left only READ_ONLY is raised (DESIGN CHOICE, log 81). -/
def Dev.tallyLane (d : Dev) (n c off j src dpa : Nat) : Dev :=
  let s := d.slice n c
  let lane := laneOf off j
  let e := (lane, layerOf off, rowOf off)
  if s.tally.contains e then d
  else
    let tally := s.tally ++ [e]
    if laneFaulty (tally.filter (fun x => x.1 == lane)) && !laneFaulty (s.tally.filter (fun x => x.1 == lane)) then
      let o := octOf off
      let used := tget s.dataUsed o 0
      if used < 32 then
        let d := d.setSlice n c { s with
          tally := tally, steered := s.steered ++ [lane],
          dataUsed := tset s.dataUsed o (used + 1), sweeping := nub (s.sweeping ++ [o]) }
        d.logSlc 6 src j lane dpa
      else (d.setSlice n c { s with tally := tally }).goReadOnly n c
    else d.setSlice n c { s with tally := tally }

/-- The on-die severity reported for a word in this command (07 R164): 0 none, 1 corrected, 2 uncorrected. -/
def Acc.severity (acc : Acc) (w : Nat) : Nat :=
  match acc.env.ondie.find? (fun e => e.1 == w) with
  | some e => if e.2 then 2 else 1
  | none => 0

/-- How an external access fails, as a status (08 R192, 16 Table 16-3, 13 R292). -/
def extStatus : ExtFail → BitVec 16
  | .poison => sPoison
  | .unmapped => sUnmapped
  | .timeout => sTimeout
  | .linkFail => sLinkFail
  | .ue => sUe
  | .perm => sPerm
  | .notReady => sNotReady
  | .thermalStop => sThermalStop
  | .corrected => sCorrected

/-- Status of an external access. -/
def Acc.extFail (acc : Acc) (a n : Nat) : BitVec 16 :=
  match acc.env.fails.find? (fun e => e.1 < a + n && a < e.1 + e.2.1) with
  | some e => extStatus e.2.2
  | none => sOk

/-- Status of an access to memory outside this module: a request to a node that no link leads to fails before it is sent
(16 R358). -/
def Dev.extSt (d : Dev) (acc : Acc) (loc : Loc) (a n : Nat) : BitVec 16 :=
  match loc with
  | .remote node => if (d.route node 0).isNone then sLinkFail else acc.extFail a n
  | _ => acc.extFail a n

/-- What a word turns out to be when it is read, with every consequence the spec gives that (06 R146, R150, 07 R164, 05 R444):
the module after it and the status. The data is then read from the module's memory, zero for a bad word. A scrub writes the
poison of a word that it finds poisoned again. -/
def Dev.touchWord (d : Dev) (acc : Acc) (w : Nat) (loc : Loc) : Dev × BitVec 16 :=
  match loc with
  | .bad s => (d, s)
  | .hbm h p i _ =>
    let c := eccClass (d.mem.diff w)
    if acc.severity w == 2 then
      let d := (d.logHbm 6 acc.src 0 h p w).count acc.owner 4 4 1
      ((d.poisonWord acc w).tallyRow h p i acc.src, sUe)
    else if c == .clean then
      if acc.severity w == 1 then
        let s := d.stack h
        ((d.setStack h { s with ondieCe := satAdd s.ondieCe 1 }).count acc.owner 4 6 1, sOk)
      else (d, sOk)
    else if c.correctable then
      let d := { d with mem := d.mem.correct w c }
      ((d.logHbm c.code acc.src c.bitPos h p w).count acc.owner 4 3 1, sCorrected)
    else if c == .poison then
      let d := (d.logHbm 4 acc.src 0 h p w).count acc.owner 4 5 1
      (if acc.src == 2 then d.poisonWord acc w else d, sPoison)
    else
      let d := (d.logHbm c.code acc.src 0 h p w).count acc.owner 4 4 1
      ((d.poisonWord acc w).tallyRow h p i acc.src, sUe)
  | .slice n co off =>
    let c := eccClass (d.mem.diff w)
    if c == .clean then (d, sOk)
    else if c.correctable then
      let d := { d with mem := d.mem.correct w c }
      let d := (d.logSlc c.code acc.src c.bitPos (laneOf off c.bitPos) w).count acc.owner 4 0 1
      (d.tallyLane n co off c.bitPos acc.src w, sCorrected)
    else if c == .poison then
      let d := (d.logSlc 4 acc.src 0 0 w).count acc.owner 4 2 1
      (if acc.src == 2 then d.poisonWord acc w else d, sPoison)
    else
      let d := (d.logSlc c.code acc.src 0 0 w).count acc.owner 4 1 1
      (d.poisonWord acc w, sUe)
  | .sram _ _ _ =>
    let c := eccClass (d.mem.diff w)
    if c == .clean then (d, sOk)
    else if c.correctable then
      let d := { d with mem := d.mem.correct w c }
      ((d.logSlc c.code acc.src c.bitPos 0 w).count acc.owner 4 0 1, sCorrected)
    else if c == .poison then
      ((d.logSlc 4 acc.src 0 0 w).count acc.owner 4 2 1, sPoison)
    else
      let d := (d.logSlc c.code acc.src 0 0 w).count acc.owner 4 1 1
      (d.poisonWord acc w, sUe)
  | _ => (d, d.extSt acc loc w 32)

/-- The words that [a, a + n) touches, ascending. -/
def wordsOf (a n : Nat) : List Nat := (List.range ((a + n - 1) / 32 + 1 - a / 32)).map (fun i => (a / 32 + i) * 32)

/-- A read of bytes: the module after it, the bytes, the status, and the first failing DPA. -/
structure RdR where
  /-- The module. -/
  d : Dev := {}
  /-- The bytes; zero where a word failed. -/
  bytes : List Byte := []
  /-- The status: the first failure, otherwise OK or OK_CORRECTED. -/
  st : BitVec 16 := 0
  /-- The first failing DPA. -/
  fail : Nat := 0

/-- Registers read through space 0xF as bytes (09 R205, 21 R436, R437): n bytes at offset off, of the registers that hold them
and of no other. -/
def Dev.regBytes (d : Dev) (owner : Option Nat) (off n : Nat) : Dev × List Byte :=
  let fn := ownerFn (owner.getD 8)
  let slots := (List.range ((off + n - 1) / 8 + 1 - off / 8)).map (fun i => (off / 8 + i) * 8)
  let r := slots.foldl (fun (acc : Dev × List Byte) s =>
    if s + 4 ≤ off then (acc.1, acc.2 ++ List.replicate 8 0)
    else
      let v := regRead acc.1 fn s
      (v.2, acc.2 ++ leBytes 8 v.1)) (d, [])
  (r.1, (r.2.drop (off % 8)).take n)

/-- Data of a word after it has been touched. -/
def Dev.wordData (d : Dev) (w : Nat) (s : BitVec 16) : List Byte :=
  if isExc s then List.replicate 32 0 else d.mem.bytes w 32

/-! Accesses outside the module (08 R192, 09 R198, 16 R352). An access that a unit makes for itself (a core, a KPM, a queue) is
answered within its command as Env says; its messages are put out here (log 56). -/

/-- Messages of one access to the partner window put out, each with a TAG; those that get no response within 50 us are counted
and keep their TAG until one comes. Where no TAG is free a message waits for one. -/
def Dev.askPartner (d : Dev) (acc : Acc) (off n : Nat) (wr : Option (List Byte)) : Dev :=
  let m := match wr with | some b => d.mem.putList (mkDpa 14 off) b | none => d.mem
  let stop := min (off + n) (d.zf.prtWindow.toNat * 2 ^ 20)
  (prtSplit d.zf.prtMaxLen (n / 64 + 2) off stop).foldl (fun d x =>
    let data := if wr.isSome then m.bytes (mkDpa 14 x.1) x.2 else []
    let r : PrtReq := { addr := x.1, len := x.2, wr := wr.isSome, sync := true }
    match d.prtTag with
    | none => { d with zf := { d.zf with reqs := d.zf.reqs ++ [{ r with data := data }] } }
    | some t =>
      let d := d.emit (.partner (prtMsg (if wr.isSome then 2 else 1) (b2n (x.2 == 256)) 0 t x.1 data))
      let reqs := d.zf.reqs.filter (fun y => !(y.dead && y.ptag == some t))
      if acc.extFail (mkDpa 14 x.1) x.2 == sTimeout then
        { d with zf := { d.zf with reqs := reqs ++ [{ r with ptag := some t, dead := true }], errTimeout := satAdd d.zf.errTimeout 1 } }
      else { d with zf := { d.zf with reqs := reqs } }) d

/-- Requests of one access to another node put out, split at 4 KiB, each with a RID that its answer frees (16 R352, R359). One
that comes within the quiet period after SYS_READY waits for its end (16 R356). -/
def Dev.askRemote (d : Dev) (acc : Acc) (node a n : Nat) (wr : Option (List Byte)) : Dev :=
  match d.route node 0 with
  | none => d
  | some l =>
    let d := { d with lnk := { d.lnk with quiet := false } }
    (List.range ((a + n - 1) / 4096 + 1 - a / 4096)).foldl (fun d i =>
      let lo := max a ((a / 4096 + i) * 4096)
      let len := min (a + n) ((a / 4096 + i + 1) * 4096) - lo
      let rid := d.freeRid
      let late := acc.extFail lo len == sTimeout
      let m : Msg := {
        op := if wr.isSome then 2 else 1, hops := 8, owner := acc.owner.getD 8, rid := rid.toNat, dst := node,
        src := d.sys.node.toNat, len := len, session := d.lnk.session.toNat, addr := lo % 2 ^ 56,
        data := ((wr.getD []).drop (lo - a)).take len }
      let old := d.lnk.gone.filter (fun g => g.rid != rid)
      let d := { d with lnk := { d.lnk with nextRid := rid + 1, gone := (({ rid := rid, late := late } : Gone) :: old).take 65536 } }
      d.enqueue l { msg := m, vc := m.vc, left := chunks 16 m.encode, owner := acc.owner }) d

/-- What an access outside the module puts out. -/
def Dev.askExt (d : Dev) (acc : Acc) (a n : Nat) (wr : Option (List Byte)) : Dev :=
  match d.locate a with
  | .host => d.emit (.host (acc.owner.map ownerFn) (dpaOff a) n wr.isSome)
  | .partner off => if wr.isSome && !d.zf.prtWrite then d else d.askPartner acc off n wr
  | .remote node => d.askRemote acc node a n wr
  | _ => d

/-! The Remote Line Cache (08 R184-R187). -/

/-- The RLC of a site holds a line for an owner. -/
def Dev.rlcHit (d : Dev) (site tag owner : Nat) : Option RlcLine :=
  d.zf.rlc.find? (fun l => l.site == site && l.tag == tag && l.owner == owner)

/-- A line dropped. -/
def Dev.rlcDrop (d : Dev) (site tag owner : Nat) : Dev :=
  { d with zf := { d.zf with rlc := d.zf.rlc.filter (fun x => !(x.site == site && x.tag == tag && x.owner == owner)) } }

/-- A line filled, most recently used first; 16 lines stay in each of the 8,192 sets of a site (08 R184); DEDUCED in part: log 75. -/
def Dev.rlcFill (d : Dev) (l : RlcLine) : Dev :=
  let rest := d.zf.rlc.filter (fun x => !(x.site == l.site && x.tag == l.tag && x.owner == l.owner))
  let inSet := fun (x : RlcLine) => x.site == l.site && x.tag % 8192 == l.tag % 8192
  let keep := rest.filter (fun x => !inSet x) ++ (rest.filter inSet).take 15
  { d with zf := { d.zf with rlc := l :: keep } }

/-- The compute stack whose RLC serves a read: the agent's own, for an immutable read of memory that lies behind another site or
on another module (08 R184). -/
def Dev.rlcSite (d : Dev) (acc : Acc) (loc : Loc) : Option Nat :=
  match acc.site with
  | some s => if acc.imm && d.kind s == 0 && loc.isMem && loc.site != s then some s else none
  | none => none

/-- The eight words of a line read at their source, in rising order: the module after it and their statuses. -/
def Dev.touchLine (d : Dev) (acc : Acc) (tag : Nat) : Dev × List (BitVec 16) :=
  (wordsOf (256 * tag) 256).foldl (fun (x : Dev × List (BitVec 16)) w =>
    let r := x.1.touchWord acc w (x.1.locate w)
    (r.1, x.2 ++ [r.2])) (d, [])

/-- A line fetched from its source; it is kept where every word of it is good (08 R187). The status is that of word w. -/
def Dev.fetchLine (d : Dev) (acc : Acc) (site w : Nat) : Dev × List Byte × BitVec 16 :=
  let tag := w / 256
  let r := d.touchLine acc tag
  let d := r.1.askExt acc (256 * tag) 256 none
  let d := match (d.locate w).memIdx with | some i => d.count acc.owner 0 i 256 | none => d
  let st := r.2.getD (w % 256 / 32) sOk
  let d := if r.2.any isExc then d
    else d.rlcFill { site := site, tag := tag, owner := acc.owner.getD 8, data := d.mem.bytes (256 * tag) 256 }
  (d, d.wordData w st, st)

/-- A read of one 32-byte word of memory by its canonical DPA: through the RLC where R184 allows it. -/
def Dev.readWord (d : Dev) (acc : Acc) (w : Nat) : Dev × List Byte × BitVec 16 :=
  let loc := d.locate w
  match d.rlcSite acc loc with
  | none =>
    let r := d.touchWord acc w loc
    (r.1, r.1.wordData w r.2, r.2)
  | some site =>
    let o := acc.owner.getD 8
    match d.rlcHit site (w / 256) o with
    | some l =>
      if acc.env.rlcBad.contains (w / 256) then
        (((d.rlcDrop site (w / 256) o).raiseZf 4).count acc.owner 4 7 1).fetchLine acc site w
      else ((d.rlcFill l).count acc.owner 0 8 1, (l.data.drop (w % 256)).take 32, sOk)
    | none => (d.count acc.owner 0 9 1).fetchLine acc site w

/-- A read of n bytes at a DPA, word by word in ascending order; of registers, register by register where every offset lies in a
block (09 R197); DEDUCED in part: log 76. -/
def Dev.readBytes (d : Dev) (acc : Acc) (a n : Nat) : RdR :=
  if n = 0 then { d := d }
  else
    let a := d.canon a
    match d.locate a with
    | .regs off =>
      if regBlock (off + n - 1) then
        let r := d.regBytes acc.owner off n
        { d := r.1, bytes := r.2 }
      else { d := d, bytes := List.replicate n 0, st := sUnmapped, fail := a }
    | loc =>
      let r := (wordsOf a n).foldl (fun (x : RdR) w =>
        let y := x.d.readWord acc w
        { d := y.1, bytes := x.bytes ++ y.2.1, st := thenSt x.st y.2.2,
          fail := if isExc y.2.2 && !isExc x.st then max w a else x.fail }) { d := d }
      let direct := ((wordsOf a n).filter (fun w => (d.rlcSite acc (d.locate w)).isNone)).map (fun w => min (w + 32) (a + n) - max w a)
      let d2 := match loc.memIdx with | some i => r.d.count acc.owner 0 i (direct.foldl (· + ·) 0) | none => r.d
      let d2 := if (d.rlcSite acc loc).isNone then d2.askExt acc a n none else d2
      { r with d := d2, bytes := (r.bytes.drop (a % 32)).take n }

/-- A write of part or all of one word of this module's memory: bytes b at offset o of word w (06 R147, R148, 07 R165). A merge
with a bad word leaves it poisoned. -/
def Dev.storeWord (d : Dev) (acc : Acc) (w o : Nat) (b : List Byte) : Dev × BitVec 16 :=
  if d.isHeld w acc.slot then (d.keepBack acc (w + o) b false, sOk)
  else if b.length == 32 then
    (({ d with mem := (d.mem.putList w b).setDiff w 0 }).breakRsv w 32 acc.slot, sOk)
  else
    let r := d.touchWord { acc with src := if acc.src == 0 && !acc.bar4 then 1 else acc.src } w (d.locate w)
    if isExc r.2 then (r.1.poisonWord acc w, sUe)
    else (({ r.1 with mem := r.1.mem.putList (w + o) b }).breakRsv w 32 acc.slot, r.2)

/-- A write of part or all of one word: bytes b at offset o of word w (06 R147, R155, 08 R192, 21 R436). -/
def Dev.writeWord (d : Dev) (acc : Acc) (w o : Nat) (b : List Byte) : Dev × BitVec 16 :=
  let outside := fun (loc : Loc) =>
    let s := d.extSt acc loc (w + o) b.length
    (if isExc s then d else { d with mem := d.mem.putList (w + o) b }, s)
  match d.locate w with
  | .bad s => (d, s)
  | .regs off => ({ d with disp := { d.disp with
      regq := d.disp.regq ++ [(acc.owner.getD 8, off + o, b)] } }, sOk)
  | .hbm _ _ _ _ => d.storeWord acc w o b
  | .slice n c _ => if (d.slice n c).st == 1 then (d, sRoRegion) else d.storeWord acc w o b
  | .sram _ _ _ => d.storeWord acc w o b
  | .partner off => if d.zf.prtWrite then outside (.partner off) else (d, sUnmapped)
  | .host => outside .host
  | .remote node => outside (.remote node)

/-- A write: the module after it, the status, and the first failing DPA. -/
structure WrR where
  /-- The module. -/
  d : Dev := {}
  /-- The status. -/
  st : BitVec 16 := 0
  /-- The first failing DPA. -/
  fail : Nat := 0

/-- Bytes cut at the word boundaries of the address they start at: (word, offset, bytes). -/
def cutWords : Nat → Nat → List Byte → List (Nat × Nat × List Byte)
  | 0, _, _ => []
  | k + 1, a, b => match b with
    | [] => []
    | _ =>
      let o := a % 32
      (a - o, o, b.take (32 - o)) :: cutWords k (a - o + 32) (b.drop (32 - o))

/-- A write of bytes at a DPA, word by word in ascending order; a failing word does not keep the others from being written. -/
def Dev.writeBytes (d : Dev) (acc : Acc) (a : Nat) (b : List Byte) : WrR :=
  let a := d.canon a
  let r := (cutWords (b.length / 32 + 2) a b).foldl (fun (x : WrR) p =>
    let y := x.d.writeWord acc p.1 p.2.1 p.2.2
    { d := y.1, st := thenSt x.st y.2, fail := if isExc y.2 && !isExc x.st then p.1 + p.2.1 else x.fail }) { d := d }
  if b.length = 0 then r
  else
    let d2 := match (d.locate a).memIdx with | some i => r.d.count acc.owner 0 (i + 1) b.length | none => r.d
    { r with d := d2.askExt acc a b.length (some b) }

/-- The destination of a failed read poisoned: every stored word that [a, a + n) touches (06 R146); in the host window the write
goes out with EP set (13 R292). -/
def Dev.poisonRange (d : Dev) (acc : Acc) (a n : Nat) : Dev :=
  if n = 0 then d
  else
    let a := d.canon a
    let d := (wordsOf a n).foldl (fun d w => match d.locate w with
      | .hbm _ _ _ _ => d.poisonWord acc w
      | .slice s c _ => if (d.slice s c).st == 1 then d else d.poisonWord acc w
      | .sram _ _ _ => d.poisonWord acc w
      | _ => d) d
    match d.locate a with
    | .host => d.emit (.host (acc.owner.map ownerFn) (dpaOff a) n true {} true)
    | _ => d

/-- Bytes as an agent would read them now, without an access: for digests, snapshots and statements. -/
def Dev.peek (d : Dev) (a n : Nat) : List Byte := d.mem.bytes (d.canon a) n

/-- What the world outside did before a command: external bytes changed, stored bits flipped, and words of slices whose command
failed its CA parity twice, which are as UE (06 R153: a difference of two bits). -/
def Dev.applyEnv (d : Dev) (e : Env) : Dev :=
  let m := e.cells.foldl (fun m c => m.put (d.canon c.1) c.2) d.mem
  let m := e.upsets.foldl (fun m u => m.upset u.1 u.2) m
  let m := (e.ca.filter (fun w => match d.locate w with | .slice _ _ _ => true | _ => false)).foldl (fun m w => m.setDiff w 3) m
  { d with mem := m }

/-- A range of this module given zeros with valid check bits (03 R84, 09 R215). -/
def Dev.zeroFill (d : Dev) (lo hi : Nat) : Dev := { d with mem := d.mem.fill lo hi .zero }

/-- A free value is taken (log 8). -/
def Dev.draw (d : Dev) : Dev := { d with free := d.free + 1 }

end Sys2Proof.Machine
end

