-- ==== Sys2Proof/Machine/Xlate.lean ====
section
/-!
DEFINITION. Machine/Xlate.lean: what a partition may reach (spec/09_addressing.md R205), the table walk (R199-R202), and the
translation of a packet's ranges at queue time (R203-R206, R215).
-/
namespace Sys2Proof.Machine

/-- A partition. -/
def Dev.part (d : Dev) (o : Nat) : Part := tget d.parts o {}
/-- A partition changed. -/
def Dev.setPart (d : Dev) (o : Nat) (p : Part) : Dev := { d with parts := tset d.parts o p }
/-- Partitions that exist. -/
def Dev.livePart (d : Dev) : List Nat := (List.range 8).filter (fun p => (d.part p).st != 0)

/-- Bytes of a 16 GiB unit (09 Table 09-4). -/
def unitBytes : Nat := 2 ^ 34

/-- Partitions other than o that hold some of the HBM range [a, a + n) of space 0 or 1. -/
def Dev.heldByOther (d : Dev) (o a n : Nat) : Bool :=
  d.livePart.any (fun p => p != o &&
    (if dpaSpace a == 0 then
      (rangeFrom (dpaOff a / unitBytes) ((dpaOff a + n - 1) / unitBytes + 1 - dpaOff a / unitBytes)).any
        (fun u => (d.part p).units.getLsbD u)
    else (d.part p).affine.getLsbD (dpaSite a)))

/-- The owner may reach [a, a + n), a in canonical form (09 R205). The management domain may reach any target. -/
def Dev.owns (d : Dev) (o a n : Nat) (_write : Bool) : Bool :=
  if o == 8 then true
  else
    let p := d.part o
    if !isLocal a then decide (dpaSpace a ≤ 3)
    else
      match dpaSpace a with
      | 0 => (rangeFrom (dpaOff a / unitBytes) ((dpaOff a + (n - 1)) / unitBytes + 1 - dpaOff a / unitBytes)).all
          (fun u => p.units.getLsbD u)
      | 1 => p.affine.getLsbD (dpaSite a)
      | 2 => p.groups.getLsbD (8 * dpaSite a + dpaCore a / 8)
      | 3 => p.groups.getLsbD (8 * dpaSite a + dpaCore a / 8)
      | 12 => true
      | 14 => p.partner
      | 15 => bf a 43 26 == 0 && (rangeFrom (dpaOff a / 8) ((dpaOff a + (n - 1)) / 8 + 1 - dpaOff a / 8)).all
          (fun s => d.regVisible o (8 * s))
      | _ => false

/-- A table pointer or context root that the walk accepts (09 R201). -/
def Dev.ptrOk (d : Dev) (o a size : Nat) : Bool :=
  isLocal a && decide (dpaSpace a ≤ 1) && a % size == 0 && (o == 8 || !d.heldByOther o a size)

/-- A context of an owner: partitions 0-7, 8 the management domain. -/
def Dev.ctx (d : Dev) (o k : Nat) : Ctx := tget (d.part o).ctx k {}

/-- One walk: a leaf, or the status and the size of the page-table region that fails. -/
inductive WalkR where
  | leaf (l : Leaf)
  | fail (s : BitVec 16) (span : Nat)

/-- One level of the walk: table address, index, page size of a leaf, size of the next table, 0 at L3 (09 R199-R201). -/
def Dev.walkLevel (d : Dev) (acc : Acc) (o tbl idx page next : Nat) : Dev × Option (BitVec 16) × Nat × Bool :=
  let r := d.readBytes acc (tbl + 8 * idx) 8
  let e := leNat r.bytes
  if isExc r.st then (r.d, some r.st, 0, false)
  else
    let adr := r.d.canon (bf e 55 13 * 8192)
    let leaf := bit e 1
    if !bit e 0 || bf e 12 4 != 0 || bf e 63 56 != 0 then (r.d, some sUnmapped, 0, false)
    else if leaf then (if adr % page != 0 then (r.d, some sUnmapped, 0, false) else (r.d, none, e, true))
    else if next == 0 || !r.d.ptrOk o adr next then (r.d, some sUnmapped, 0, false)
    else (r.d, none, e, false)

/-- The leaf a PTE makes of a page. -/
def mkLeaf (d : Dev) (e dva page : Nat) : Leaf :=
  { dva := alignDown dva page, size := page, dpa := d.canon (bf e 55 13 * 8192), w := bit e 2, imm := bit e 3 }

/-- The three-level walk for a DVA (09 Table 09-2). -/
def Dev.walk (d : Dev) (acc : Acc) (o k dva : Nat) : Dev × WalkR :=
  let c := d.ctx o k
  let root := d.canon c.root.toNat
  if !c.valid || !d.ptrOk o root 8192 then (d, .fail sUnmapped (2 ^ 48))
  else
    let (d, f, e, lf) := d.walkLevel acc o root (bf dva 47 38) (2 ^ 38) 8192
    match f with
    | some s => (d, .fail s (2 ^ 38))
    | none =>
      if lf then (d, .leaf (mkLeaf d e dva (2 ^ 38)))
      else
        let (d, f, e, lf) := d.walkLevel acc o (d.canon (bf e 55 13 * 8192)) (bf dva 37 28) (2 ^ 28) 32768
        match f with
        | some s => (d, .fail s (2 ^ 28))
        | none =>
          if lf then (d, .leaf (mkLeaf d e dva (2 ^ 28)))
          else
            let (d, f, e, _) := d.walkLevel acc o (d.canon (bf e 55 13 * 8192)) (bf dva 27 16) 65536 0
            match f with
            | some s => (d, .fail s 65536)
            | none => (d, .leaf (mkLeaf d e dva 65536))

/-- The Dispatcher's translation of one DVA: from its cache where the command says so, else by a walk that fills the cache
(09 R202). The newest translation of a DVA is found first; older ones stand until an INVALIDATE purges what they name (R207). -/
def Dev.xlOne (d : Dev) (acc : Acc) (o k dva : Nat) : Dev × WalkR :=
  let hit := d.disp.tlb.find? (fun t => !t.stale && t.owner == o && t.ctx == k && t.dva ≤ dva && dva < t.dva + t.size)
  match (if acc.env.useTlb then hit else none) with
  | some t => (d, .leaf { dva := t.dva, size := t.size, dpa := t.dpa, w := t.w, imm := t.imm })
  | none =>
    let r := d.walk acc o k dva
    match r.2 with
    | .leaf l =>
      let e : Tlb := { owner := o, ctx := k, dva := l.dva, size := l.size, dpa := l.dpa, w := l.w, imm := l.imm }
      ({ r.1 with disp := { r.1.disp with tlb := e :: r.1.disp.tlb.filter (fun t => t != e) } }, r.2)
    | .fail _ _ => r

/-- The cached translations that sel picks are none any more; what they named stays known to INVALIDATE (09 R207). -/
def Dev.staleTlb (d : Dev) (sel : Tlb → Bool) : Dev :=
  { d with disp := { d.disp with tlb := d.disp.tlb.map (fun t => if sel t then { t with stale := true } else t) } }

/-- A DVA range a packet names: start, bytes, whether it is written (09 R203, 12 R264). -/
structure Range where
  /-- First DVA. -/
  dva : Nat
  /-- Bytes. -/
  n : Nat
  /-- Write use. -/
  write : Bool := false
deriving DecidableEq, Repr

/-- Translation so far: leaves reached, the failures as (check 1-4, DVA, status), and whether 1,024 leaves are passed. -/
structure XlState where
  /-- The module. -/
  d : Dev
  /-- Distinct leaves reached, in order. -/
  leaves : List Leaf := []
  /-- Failures met. -/
  fails : List (Nat × Nat × BitVec 16) := []
  /-- More than 1,024 leaves. -/
  past : Bool := false

/-- Offset of the first byte of [a, a + n) that the owner may not reach (09 R204, R205): the first unit or register that is not
its own, else the start. -/
def Dev.firstOut (d : Dev) (o a n : Nat) : Nat :=
  let q := fun (g i : Nat) => g * i - dpaOff a
  if !isLocal a then 0
  else if dpaSpace a == 0 then
    match (rangeFrom (dpaOff a / unitBytes) ((dpaOff a + (n - 1)) / unitBytes + 1 - dpaOff a / unitBytes)).find?
        (fun u => !(d.part o).units.getLsbD u) with
    | some u => q unitBytes u
    | none => 0
  else if dpaSpace a == 15 && bf a 43 26 == 0 then
    match (rangeFrom (dpaOff a / 8) ((dpaOff a + (n - 1)) / 8 + 1 - dpaOff a / 8)).find? (fun s => !d.regVisible o (8 * s)) with
    | some s => q 8 s
    | none => 0
  else 0

/-- A leaf checked for the part [p, q) that a range uses (09 R204 checks 2-4). -/
def leafChecks (d : Dev) (o : Nat) (l : Leaf) (p q : Nat) (w : Bool) : List (Nat × Nat × BitVec 16) :=
  (if w && l.imm then [(2, p, sRoRegion)] else []) ++
  (if w && !l.w then [(3, p, sPerm)] else []) ++
  (if d.owns o (l.dpa + (p - l.dva)) (q - p) w then [] else [(4, p + d.firstOut o (l.dpa + (p - l.dva)) (q - p), sPerm)])

/-- The leaves of one range, ascending, with as many pages at most as the fuel says. -/
def xlRange (acc : Acc) (o k : Nat) (w : Bool) (endp : Nat) : Nat → Nat → XlState → XlState
  | 0, _, x => x
  | fuel + 1, p, x =>
    if endp ≤ p || x.past then x
    else
      match x.leaves.find? (fun l => l.dva ≤ p && p < l.dva + l.size) with
      | some l =>
        let q := min endp (l.dva + l.size)
        xlRange acc o k w endp fuel q { x with fails := x.fails ++ leafChecks x.d o l p q w }
      | none =>
        let r := x.d.xlOne acc o k (p % 2 ^ 48)
        match r.2 with
        | .fail s span => xlRange acc o k w endp fuel (alignDown p span + span) { x with d := r.1, fails := x.fails ++ [(1, p, s)] }
        | .leaf l =>
          if x.leaves.length ≥ 1024 then { x with d := r.1, past := true }
          else
            let q := min endp (l.dva + l.size)
            xlRange acc o k w endp fuel q
              { x with d := r.1, leaves := x.leaves ++ [l], fails := x.fails ++ leafChecks r.1 o l p q w }

/-- Every range of a packet, from what has been reached so far. -/
def xlRanges (acc : Acc) (o k : Nat) (rs : List Range) (x : XlState) : XlState :=
  rs.foldl (fun x r => if r.n = 0 then x else xlRange acc o k r.write (r.dva + r.n) (r.n / 65536 + 2) r.dva x) x

/-- The failure that decides: the first check failed, at the lowest DVA (09 R204). -/
def worstFail (l : List (Nat × Nat × BitVec 16)) : Option (Nat × Nat × BitVec 16) :=
  l.foldl (fun b e => match b with
    | none => some e
    | some x => if e.1 < x.1 || (e.1 == x.1 && e.2.1 < x.2.1) then some e else b) none

/-- PART_XLT_ERR counts a translation failure once (09 R204, Table 09-6). -/
def Dev.countXlt (d : Dev) (o chk : Nat) : Dev :=
  if o < 8 then
    let p := d.part o
    d.setPart o (if chk == 1 then { p with xltUnm := satAdd p.xltUnm 1 } else { p with xltPerm := satAdd p.xltPerm 1 })
  else d

/-- What the translation of a packet's ranges comes to (09 R204, R206): the module, and the status and RESULT of a failure. More
than 1,024 leaves take precedence over every failure. -/
def XlState.verdict (x : XlState) (o : Nat) : Dev × Option (BitVec 16 × Nat) :=
  if x.past then (x.d, some (sBadParam, 0))
  else
    match worstFail x.fails with
    | some (c, v, s) => (x.d.countXlt o c, some (s, v))
    | none => (x.d, none)

/-! Captured translations in use. -/

/-- The DPA a captured leaf gives a DVA. -/
def leafDpa (ls : List Leaf) (dva : Nat) : Option (Nat × Leaf) :=
  (ls.find? (fun l => l.dva ≤ dva && dva < l.dva + l.size)).map (fun l => (l.dpa + (dva - l.dva), l))

/-- A DVA range cut at the pages it crosses: (DPA, bytes, immutable). -/
def pieces (ls : List Leaf) : Nat → Nat → Nat → List (Option Nat × Nat × Bool)
  | 0, _, _ => []
  | fuel + 1, dva, n =>
    if n = 0 then []
    else
      match leafDpa ls dva with
      | none => [(none, n, false)]
      | some (a, l) =>
        let m := min n (l.dva + l.size - dva)
        (some a, m, l.imm) :: pieces ls fuel (dva + m) (n - m)

/-- A read through captured translations. -/
def Dev.readDva (d : Dev) (acc : Acc) (ls : List Leaf) (dva n : Nat) : RdR :=
  (pieces ls (n / 65536 + 2) dva n).foldl (fun x p => match p.1 with
    | none => { x with bytes := x.bytes ++ List.replicate p.2.1 0, st := thenSt x.st sUnmapped }
    | some a =>
      let r := x.d.readBytes { acc with imm := p.2.2 } a p.2.1
      { d := r.d, bytes := x.bytes ++ r.bytes, st := thenSt x.st r.st,
        fail := if isExc r.st && !isExc x.st then r.fail else x.fail }) { d := d }

/-- A write through captured translations. -/
def Dev.writeDva (d : Dev) (acc : Acc) (ls : List Leaf) (dva : Nat) (b : List Byte) : WrR :=
  ((pieces ls (b.length / 65536 + 2) dva b.length).foldl (fun (x : WrR × List Byte) p => match p.1 with
    | none => ({ x.1 with st := thenSt x.1.st sUnmapped }, x.2.drop p.2.1)
    | some a =>
      let r := x.1.d.writeBytes acc a (x.2.take p.2.1)
      ({ d := r.d, st := thenSt x.1.st r.st, fail := if isExc r.st && !isExc x.1.st then r.fail else x.1.fail },
        x.2.drop p.2.1)) ({ d := d }, b)).1

end Sys2Proof.Machine
end

