-- ==== Sys2Proof/Machine/Operands.lean ====
section
/-!
DEFINITION. Machine/Operands.lean: the packet and its fields (spec/11_queues_packets.md R246, Table 11-1;
spec/12_command_reference.md R261, R266-R268, Tables 12-1 to 12-10), tensor descriptors, formats, and the access of operands.
-/
namespace Sys2Proof.Machine

/-! The packet. -/

/-- Parameter word i of a packet. -/
def Pkt.word (p : Pkt) (i : Nat) : Nat := (p.words.getD i 0).toNat
/-- Field [hi:lo] of word i. -/
def Pkt.f (p : Pkt) (i hi lo : Nat) : Nat := bf (p.word i) hi lo
/-- Word i of extension block b. -/
def Pkt.blk (p : Pkt) (b i : Nat) : Nat := p.word (8 + 8 * b + i)
/-- The packet's owner. -/
def Pkt.owner (p : Pkt) : Nat := qOwner p.q

/-- A packet header's fields (11 Table 11-1). -/
structure Header where
  /-- OPC. -/
  opc : Nat
  /-- FLG. -/
  flg : Nat
  /-- TAG. -/
  tag : Nat
  /-- LEN. -/
  len : Nat
  /-- FMT. -/
  fmt : Nat
  /-- QOS. -/
  qos : Nat
  /-- DEP. -/
  dep : Nat
deriving DecidableEq, Repr

/-- The header a packet's word 0 holds. -/
def header (w : Nat) : Header :=
  { opc := bf w 7 0, flg := bf w 15 8, tag := bf w 31 16, len := bf w 35 32, fmt := bf w 39 36, qos := bf w 47 40, dep := bf w 63 48 }

/-- LEN an opcode requires; none for a value that is no opcode (12 Table 12-2). -/
def opLen (opc : Nat) : Option Nat :=
  match opc with
  | 0x00 => some 0
  | 0x01 => some 0
  | 0x02 => some 0
  | 0x03 => some 0
  | 0x04 => some 0
  | 0x05 => some 0
  | 0x10 => some 2
  | 0x11 => some 2
  | 0x12 => some 2
  | 0x13 => some 2
  | 0x14 => some 1
  | 0x15 => some 1
  | 0x20 => some 1
  | 0x21 => some 1
  | 0x22 => some 1
  | 0x30 => some 0
  | 0x31 => some 0
  | 0x32 => some 0
  | 0x33 => some 0
  | 0x34 => some 0
  | 0x35 => some 0
  | 0x36 => some 0
  | 0x37 => some 0
  | 0x40 => some 0
  | 0x41 => some 0
  | 0x50 => some 0
  | 0x51 => some 0
  | 0x52 => some 0
  | 0x60 => some 0
  | 0x61 => some 0
  | 0x62 => some 0
  | 0x70 => some 1
  | 0x71 => some 0
  | 0x72 => some 0
  | 0x80 => some 0
  | 0x81 => some 0
  | 0xF0 => some 0
  | _ => none

/-- Opcodes that only a management-domain queue may issue (12 R268). -/
def opMgmt (opc : Nat) : Bool := [0x52, 0x60, 0x61, 0x62, 0x80].contains opc

/-! Reserved bits (12 R261). -/

/-- Bits [hi:lo] as a mask. -/
def fieldMask (hi lo : Nat) : Nat := 2 ^ (hi + 1) - 2 ^ lo
/-- The mask of a DVA field. -/
def m48 : Nat := fieldMask 47 0
/-- The mask of a full word. -/
def m64 : Nat := fieldMask 63 0
/-- Masks of a tensor descriptor's four words (12 Table 12-1). -/
def tdMask : List Nat := [m48, m64, fieldMask 39 0, m48]

/-- The defined bits of words 1 up, by opcode; a word that is not listed has none (12 Tables 12-3 to 12-10). -/
def defBits (opc : Nat) : List Nat :=
  match opc with
  | 0x02 => [m48, m64, 1]
  | 0x03 => [m48, m64, 3 + fieldMask 63 32]
  | 0x04 => [1]
  | 0x05 => [255, m48, m48]
  | 0x10 => [m64, fieldMask 57 0, m48, 0, 0, 0, 0] ++ tdMask ++ tdMask ++ tdMask ++ tdMask
  | 0x11 => [m64, fieldMask 59 0, m48, 0, 0, 0, 0] ++ tdMask ++ tdMask ++ tdMask ++ tdMask
  | 0x12 => [m64, fieldMask 57 0, m48, m64, m64, 0, 0] ++ tdMask ++ tdMask ++ tdMask ++ tdMask
  | 0x13 => [511 + fieldMask 63 32, m48, 0, 0, 0, 0, 0] ++ tdMask ++ tdMask ++ tdMask ++ tdMask
  | 0x14 => [3 + fieldMask 63 32, m48, m48, m48, m48, 0, 0] ++ tdMask ++ tdMask
  | 0x15 => [fieldMask 42 0 + fieldMask 47 44, m64, m64, m64, m48, 0, 0] ++ [m48, m48, m48, m48, m48]
  | 0x20 => [fieldMask 55 0, fieldMask 51 0, m48, m64, fieldMask 31 0, m64, fieldMask 31 0] ++ [m48, m48]
  | 0x21 => [fieldMask 55 0, fieldMask 51 0, m48, m64, fieldMask 31 0, m64, fieldMask 31 0] ++ [m48, m48, fieldMask 15 0, m48]
  | 0x22 => [m64, m48, m48, m48, m48, 127 + fieldMask 12 8 + fieldMask 17 16, m64] ++ [m48]
  | 0x30 => [7 + fieldMask 13 8 + fieldMask 23 16 + fieldMask 27 24 + fieldMask 44 32, m48]
  | 0x31 => [m48, m48, fieldMask 20 0]
  | 0x32 => [m48]
  | 0x33 => [m48, m48, 127]
  | 0x34 => [m48]
  | 0x35 => [m48, fieldMask 31 0, m48, 7 + fieldMask 13 8]
  | 0x36 => [m48, fieldMask 31 0, m48]
  | 0x37 => [m48]
  | 0x40 => [m48, 15 + fieldMask 11 8]
  | 0x41 => [m48, 15 + fieldMask 11 8, fieldMask 15 0]
  | 0x50 => [m48, m48, fieldMask 31 0, m48]
  | 0x51 => [m48, m64, m64, 31]
  | 0x52 => [255, m64, 255, m64, 255]
  | 0x60 => [7 + fieldMask 14 8, m48, fieldMask 26 0, fieldMask 5 0 + 256]
  | 0x61 => [7 + fieldMask 14 8, m48, fieldMask 26 0, fieldMask 5 0 + 256]
  | 0x62 => [7]
  | 0x70 => [31 + fieldMask 9 8, m48, 0, 0, 0, 0, 0] ++ tdMask
  | 0x71 => [fieldMask 8 0, m48]
  | 0x72 => [1, m48]
  | 0x80 => [7 + fieldMask 10 8]
  | 0x81 => [15 + fieldMask 12 8]
  | 0xF0 => [31 + fieldMask 14 8]
  | _ => []

/-- No reserved bit of words 1 up is set. -/
def reservedOk (opc : Nat) (ws : List (BitVec 64)) : Bool :=
  let ms := defBits opc
  (List.range ws.length).all (fun i => i == 0 || (ws.getD i 0).toNat &&& (m64 - ms.getD (i - 1) 0) == 0)

/-! Formats and tensor descriptors (12 R266, Table 12-1). -/

/-- Bits of an element of a format. -/
def fmtBits (f : Nat) : Nat :=
  match f with
  | 0 => 8
  | 1 => 8
  | 2 => 8
  | 3 => 4
  | 4 => 8
  | 5 => 4
  | 6 => 16
  | 7 => 16
  | _ => 32

/-- The format has block scales. -/
def isMx (f : Nat) : Bool := f == 3 || f == 4

/-- A tensor descriptor. -/
structure TD where
  /-- BASE. -/
  base : Nat := 0
  /-- ROWS. -/
  rows : Nat := 0
  /-- COLS. -/
  cols : Nat := 0
  /-- STRIDE. -/
  stride : Nat := 0
  /-- FMT. -/
  fmt : Nat := 0
  /-- SCALE. -/
  scale : Nat := 0
deriving DecidableEq, Repr, Inhabited

/-- The tensor descriptor that four words spell (12 Table 12-1). -/
def tdOfWords (ws : List (BitVec 64)) : TD :=
  let w := fun i => (ws.getD i 0).toNat
  { base := bf (w 0) 47 0, rows := bf (w 1) 31 0, cols := bf (w 1) 63 32, stride := bf (w 2) 31 0, fmt := bf (w 2) 39 32,
    scale := bf (w 3) 47 0 }

/-- The four words of half h of extension block b. -/
def Pkt.tdWords (p : Pkt) (b h : Nat) : List (BitVec 64) := (List.range 4).map (fun i => p.words.getD (8 + 8 * b + 4 * h + i) 0)

/-- Half h of extension block b as a tensor descriptor. -/
def Pkt.td (p : Pkt) (b h : Nat) : TD := tdOfWords (p.tdWords b h)

/-- Bytes of one row. -/
def TD.rowBytes (t : TD) : Nat := (t.cols * fmtBits t.fmt + 7) / 8

/-- The descriptor's fields are in range (12 Table 12-1). A block format carries scales; another has none. -/
def TD.ok (t : TD) : Bool :=
  t.base % 64 == 0 && decide (1 ≤ t.rows) && decide (t.rows ≤ 2 ^ 24) && decide (1 ≤ t.cols) && decide (t.cols ≤ 2 ^ 24)
    && decide (t.fmt ≤ 9) && (fmtBits t.fmt != 4 || t.cols % 2 == 0)
    && t.stride % 64 == 0 && decide (t.rowBytes ≤ t.stride) && (isMx t.fmt || t.scale == 0)

/-- Bytes from BASE to the end of the last row (12 R264). -/
def TD.extent (t : TD) : Nat := (t.rows - 1) * t.stride + t.rowBytes

/-- Lines of K of a tensor used along its rows (true) or columns, and the bytes of its scales (12 R266). -/
def TD.scaleBytes (t : TD) (alongRows : Bool) : Nat :=
  if isMx t.fmt then (if alongRows then t.rows * ((t.cols + 31) / 32) else t.cols * ((t.rows + 31) / 32)) else 0

/-- The ranges of a descriptor: its elements and its scales. -/
def TD.ranges (t : TD) (write alongRows : Bool) : List Range :=
  [{ dva := t.base, n := t.extent, write := write }] ++
  (if isMx t.fmt then [{ dva := t.scale, n := t.scaleBytes alongRows, write := write }] else [])

/-- [a, a + n) cut at 4 KiB boundaries: (address, bytes). -/
def cut4k : Nat → Nat → Nat → List (Nat × Nat)
  | 0, _, _ => []
  | f + 1, a, n =>
    if n = 0 then []
    else
      let m := min n (4096 - a % 4096)
      (a, m) :: cut4k f (a + m) (n - m)

/-- Two byte ranges overlap. -/
def overlaps (a n b m : Nat) : Bool := decide (a < b + m) && decide (b < a + n) && n != 0 && m != 0

/-- Two descriptors' elements or scales overlap. -/
def TD.overlap (t u : TD) : Bool :=
  (t.ranges true true).any (fun r => (u.ranges true true).any (fun s => overlaps r.dva r.n s.dva s.n))

/-! Core masks (12 R267). -/

/-- Groups that execute a packet: the mask's, or every group held, or every group with a live core. -/
def Dev.groupsOf (d : Dev) (owner mask : Nat) : List Nat :=
  if mask != 0 then maskBits mask 48
  else if owner == 8 then (List.range 48).filter (fun b => d.groupPresent (b / 8) (b % 8))
  else maskBits (d.part owner).groups.toNat 48

/-- The mask names only groups the owner holds. -/
def Dev.maskPermitted (d : Dev) (owner mask : Nat) : Bool :=
  owner == 8 || (maskBits mask 48).all (fun b => (d.part owner).groups.getLsbD b)

/-- Cores in service of a list of groups, by key. -/
def Dev.coresOf (d : Dev) (groups : List Nat) : List Nat :=
  groups.flatMap (fun b => ((List.range 8).map (fun i => (b / 8, 8 * (b % 8) + i))).filterMap
    (fun c => if d.coreLive c.1 c.2 then some (coreKey c.1 c.2) else none))

/-- CORE_MASK of a packet, for the opcodes that run on cores. -/
def Pkt.coreMask (p : Pkt) : Option Nat :=
  match p.opc.toNat with
  | 0x10 => some (p.f 3 47 0)
  | 0x11 => some (p.f 3 47 0)
  | 0x12 => some (p.f 3 47 0)
  | 0x13 => some (p.f 2 47 0)
  | 0x14 => some (p.f 5 47 0)
  | 0x15 => some (p.f 5 47 0)
  | 0x20 => some (bf (p.blk 0 1) 47 0)
  | 0x21 => some (bf (p.blk 0 1) 47 0)
  | 0x22 => some (bf (p.blk 0 0) 47 0)
  | _ => none

/-- Cores that run a packet. -/
def Dev.pktCores (d : Dev) (p : Pkt) : List Nat :=
  match p.coreMask with
  | none => []
  | some m => d.coresOf (d.groupsOf p.owner m)

/-- Opcodes for which OK_CORRECTED is listed (12 Table 12-2), and those whose status a remote node answers (16 Table 16-3). -/
def corrListed (opc : Nat) : Bool :=
  List.contains [0x10, 0x11, 0x12, 0x13, 0x14, 0x15, 0x20, 0x21, 0x22, 0x31, 0x40, 0x41, 0x50, 0x51] opc

/-- A status as the packet's opcode can report it: a correction met by an opcode that does not list OK_CORRECTED is OK. -/
def Pkt.asListed (p : Pkt) (st : BitVec 16) : BitVec 16 := if st == sCorrected && !corrListed p.opc.toNat then sOk else st

/-! The access of a packet. -/

/-- The access of a packet's units: charged to its owner, through the RLC of the stack of the core, KPM or DMA complex that makes
it; DEDUCED in part: log 25. -/
def Pkt.acc (p : Pkt) (e : Env) : Acc :=
  { owner := some p.owner, site := (p.core.map (fun k => k / 64)).orElse (fun _ => p.site), ord := some p.ord, q := some p.q,
    env := e }

/-- The packet as the core that does piece i of its work runs it: pieces are dealt to its cores in turn (log 31). -/
def Pkt.at (p : Pkt) (i : Nat) : Pkt := { p with core := (p.on[i % p.on.length]?).orElse (fun _ => p.core) }

/-- A DPA held by a device-resident structure is one the owner may use (12 R263). -/
def Dev.dpaOk (d : Dev) (owner a n : Nat) : Bool := d.owns owner (d.canon a) n false

/-- An operand of a packet read. -/
def Dev.readOp (d : Dev) (p : Pkt) (e : Env) (dva n : Nat) : RdR := d.readDva (p.acc e) p.leaves dva n

end Sys2Proof.Machine
end

