-- ==== Sys2Proof/Machine/StoreBuf.lean ====
section
/-!
DEFINITION. Machine/StoreBuf.lean: the store buffer of a core (spec/10_ordering.md R225-R228): entries of 64 bytes with a byte
mask, merging into the youngest, issue in order, forwarding to loads, and the drain.
-/
namespace Sys2Proof.Machine

/-- A core's store buffer, oldest first. -/
def Dev.sbOf (d : Dev) (k : Nat) : List SbEntry := tget d.sb k []
/-- A core's store buffer changed. -/
def Dev.setSb (d : Dev) (k : Nat) (l : List SbEntry) : Dev :=
  { d with sb := if l.isEmpty then tdel d.sb k else tset d.sb k l }

/-- The DPA is the core's own slice or SRAM (10 R223). -/
def isPrivate (k a : Nat) : Bool :=
  isLocal a && (dpaSpace a == 2 || dpaSpace a == 3) && coreKey (dpaSite a) (dpaCore a) == k

/-- Runs of written bytes of an entry's block: (offset, bytes). -/
def sbRuns : List (Option Byte) → Nat → List (Nat × List Byte)
  | [], _ => []
  | none :: r, i => sbRuns r (i + 1)
  | some b :: r, i => match sbRuns r (i + 1) with
    | (j, bs) :: rest => if j == i + 1 then (i, b :: bs) :: rest else (i, [b]) :: (j, bs) :: rest
    | [] => [(i, [b])]

/-- The status a failed entry gives the packet that wrote it (10 decided case). -/
def Dev.failPkt (d : Dev) (ord : Nat) (s : BitVec 16) : Dev :=
  { d with free := d.free + 1, disp := { d.disp with pkts := d.disp.pkts.map (fun p =>
      if p.ord == ord then
        { p with status := p.asListed (thenSt p.status s), result := if isExc s && !isExc p.status then Config.freeValue d.free else p.result }
      else p) } }

/-! Writes that an exclusive hold keeps back (10 R235). -/

/-- A slot changed. -/
def Dev.setSlot (d : Dev) (k : Nat) (x : KSlot) : Dev := { d with kpm := { d.kpm with slots := tset d.kpm.slots k x } }

/-- A write that was kept back, made now; a failure goes to the packet that made it. -/
def Dev.makeHeld (d : Dev) (e : Env) (h : HeldW) : Dev :=
  let acc : Acc := { owner := h.owner, ord := h.ord, q := h.q, core := h.core, bar4 := h.bar4, env := e }
  if h.poison then d.poisonWord acc h.addr
  else
    let r := d.writeWord acc (alignDown h.addr 32) (h.addr % 32) h.bytes
    match h.ord with
    | some n => if r.2 == sOk then r.1 else r.1.failPkt n r.2
    | none => r.1

/-- Every write kept back is tried again, in order; those whose granule is still held stay. -/
def Dev.releaseHeld (d : Dev) (e : Env) : Dev :=
  d.kpm.held.foldl (fun d h => d.makeHeld e h) { d with kpm := { d.kpm with held := [] } }

/-- The exclusive hold of a slot ends at 2 us: its reservation stays, and the writes it kept back are performed. -/
def Dev.endHold (d : Dev) (e : Env) (k : Nat) : Dev :=
  let s := d.kslot k
  match s.excl with
  | none => d
  | some _ => ((d.advTo (s.exclAt + 2000)).setSlot k { s with st := 2, excl := none }).releaseHeld e

/-- A point that waits for writes: the exclusive holds that keep some of them back end at their 2 us (log 79). -/
def Dev.awaitHeld (d : Dev) (e : Env) (sel : HeldW → Bool) : Dev :=
  (d.kpm.slots.filter (fun s => d.kpm.held.any (fun h => sel h && s.2.excl == some (alignDown h.addr 256)))).foldl
    (fun d s => d.endHold e s.1) d

/-! Issue and drain. -/

/-- An entry of core k's buffer issued: it is performed, or kept back by an exclusive hold. -/
def Dev.issueEntry (d : Dev) (env : Env) (k : Nat) (e : SbEntry) : Dev :=
  let acc : Acc := { owner := some (qOwner e.q), ord := some e.ord, q := some e.q, core := some k, env := env }
  let r := (sbRuns e.data 0).foldl (fun (x : WrR) run =>
    let y := x.d.writeBytes acc (e.blk + run.1) run.2
    { d := y.d, st := thenSt x.st y.st, fail := if isExc x.st then x.fail else y.fail }) { d := d }
  if r.st == sOk then r.d else r.d.failPkt e.ord r.st

/-- The oldest n entries of a core's buffer issued in order. -/
def Dev.issueN (d : Dev) (e : Env) (k : Nat) : Nat → Dev
  | 0 => d
  | n + 1 => match d.sbOf k with
    | [] => d
    | x :: r => ((d.setSb k r).issueEntry e k x).issueN e k n

/-- Every write issued from a core's buffer is performed. -/
def Dev.awaitCore (d : Dev) (e : Env) (k : Nat) : Dev := d.awaitHeld e (fun h => h.core == some k)

/-- A core's buffer drained (10 R226): every entry is issued and performed. -/
def Dev.drain (d : Dev) (e : Env) (k : Nat) : Dev := (d.issueN e k (d.sbOf k).length).awaitCore e k

/-- Bytes laid over a block's masked bytes. -/
def sbMerge (old : List (Option Byte)) (o : Nat) (b : List Byte) : List (Option Byte) :=
  old.take o ++ b.map some ++ old.drop (o + b.length)

/-- STALLS or FULL of an owner counted (10 R238). -/
def Dev.countSb (d : Dev) (owner : Nat) (full : Bool) : Dev :=
  if owner < 8 then
    let p := d.part owner
    d.setPart owner (if full then { p with sbFull := satAdd p.sbFull 1 } else { p with sbStalls := satAdd p.sbStalls 1 })
  else d

/-- A write of one block enters the buffer: merged into the youngest entry, or a new one, which waits for room while all
16 are in use (10 R225). -/
def Dev.sbPush (d : Dev) (e : Env) (p : Pkt) (k blk o : Nat) (b : List Byte) : Dev :=
  let l := d.sbOf k
  let fresh : SbEntry := { blk := blk, data := sbMerge (List.replicate 64 none) o b, ord := p.ord, q := p.q }
  match l.getLast? with
  | some y =>
    if y.blk == blk then d.setSb k (l.dropLast ++ [{ y with data := sbMerge y.data o b, ord := p.ord, q := p.q }])
    else
      let d := if 16 ≤ l.length then (d.countSb p.owner true).issueN e k 1 else d
      d.setSb k (d.sbOf k ++ [fresh])
  | none => d.setSb k [fresh]

/-- Bytes cut at 64-byte blocks. -/
def cutBlocks : Nat → Nat → List Byte → List (Nat × Nat × List Byte)
  | 0, _, _ => []
  | f + 1, a, b => match b with
    | [] => []
    | _ => let o := a % 64
      (a - o, o, b.take (64 - o)) :: cutBlocks f (a - o + 64) (b.drop (64 - o))

/-- A write by a core's units at a DPA: private memory and device registers directly (registers after a drain), any other
memory through the buffer. -/
def Dev.coreWrite (d : Dev) (p : Pkt) (acc : Acc) (k a : Nat) (b : List Byte) : WrR :=
  let a := d.canon a
  if isPrivate k a then d.writeBytes acc a b
  else if isLocal a && dpaSpace a == 15 then (d.drain acc.env k).writeBytes acc a b
  else
    match d.locate a with
    | .bad s => { d := d, st := s, fail := a }
    | _ => { d := (cutBlocks (b.length / 64 + 2) a b).foldl (fun d x => d.sbPush acc.env p k x.1 x.2.1 x.2.2) d }

/-- The newest entry whose mask overlaps a piece: its index. -/
def sbFind (l : List SbEntry) (blk o n : Nat) : Option (Nat × SbEntry) :=
  ((List.range l.length).zip l).reverse.find? (fun e =>
    e.2.blk == blk && ((e.2.data.drop o).take n).any Option.isSome)

/-- A load of a piece within one block (10 R227). -/
def Dev.coreLoad (d : Dev) (p : Pkt) (acc : Acc) (k a n : Nat) : RdR :=
  let blk := a - a % 64
  match sbFind (d.sbOf k) blk (a % 64) n with
  | none => d.readBytes acc a n
  | some (i, e) =>
    let part := (e.data.drop (a % 64)).take n
    if part.all Option.isSome then { d := d, bytes := part.map (fun x => x.getD 0) }
    else (((d.countSb p.owner false).issueN acc.env k (i + 1)).awaitCore acc.env k).readBytes acc a n

/-- Pieces of [a, a + n) within 64-byte blocks. -/
def blockPieces : Nat → Nat → Nat → List (Nat × Nat)
  | 0, _, _ => []
  | f + 1, a, n => if n = 0 then [] else
    let m := min n (64 - a % 64)
    (a, m) :: blockPieces f (a + m) (n - m)

/-- A read by a core's units at a DPA; of a device register only after a drain (10 R226). -/
def Dev.coreRead (d : Dev) (p : Pkt) (acc : Acc) (k a n : Nat) : RdR :=
  let a := d.canon a
  if isPrivate k a || (d.sbOf k).isEmpty then d.readBytes acc a n
  else if isLocal a && dpaSpace a == 15 then (d.drain acc.env k).readBytes acc a n
  else (blockPieces (n / 64 + 2) a n).foldl (fun x q =>
    let r := x.d.coreLoad p acc k q.1 q.2
    { d := r.d, bytes := x.bytes ++ r.bytes, st := thenSt x.st r.st, fail := if isExc r.st && !isExc x.st then r.fail else x.fail })
    { d := d }

/-- A read by a packet at a DPA: by its core where it runs on one. -/
def Dev.readA (d : Dev) (p : Pkt) (acc : Acc) (a n : Nat) : RdR :=
  match p.core with
  | some k => d.coreRead p acc k a n
  | none => d.readBytes acc a n

/-- A write by a packet at a DPA. -/
def Dev.writeA (d : Dev) (p : Pkt) (acc : Acc) (a : Nat) (b : List Byte) : WrR :=
  match p.core with
  | some k => d.coreWrite p acc k a b
  | none => d.writeBytes acc a b

/-- A read of an operand of a packet by DVA. -/
def Dev.readP (d : Dev) (p : Pkt) (e : Env) (dva n : Nat) : RdR :=
  (pieces p.leaves (n / 65536 + 2) dva n).foldl (fun x q => match q.1 with
    | none => { x with bytes := x.bytes ++ List.replicate q.2.1 0, st := thenSt x.st sUnmapped }
    | some a =>
      let r := x.d.readA p { p.acc e with imm := q.2.2 } a q.2.1
      { d := r.d, bytes := x.bytes ++ r.bytes, st := thenSt x.st r.st,
        fail := if isExc r.st && !isExc x.st then r.fail else x.fail }) { d := d }

/-- A write of an operand of a packet by DVA. -/
def Dev.writeP (d : Dev) (p : Pkt) (e : Env) (dva : Nat) (b : List Byte) : WrR :=
  ((pieces p.leaves (b.length / 65536 + 2) dva b.length).foldl (fun (x : WrR × List Byte) q => match q.1 with
    | none => ({ x.1 with st := thenSt x.1.st sUnmapped }, x.2.drop q.2.1)
    | some a =>
      let r := x.1.d.writeA p (p.acc e) a (x.2.take q.2.1)
      ({ d := r.d, st := thenSt x.1.st r.st, fail := if isExc r.st && !isExc x.1.st then r.fail else x.1.fail },
        x.2.drop q.2.1)) ({ d := d }, b)).1

/-- The ranges of a DVA range as captured DPAs. -/
def dpaPieces (ls : List Leaf) (dva n : Nat) : List (Nat × Nat) :=
  (pieces ls (n / 65536 + 2) dva n).filterMap (fun q => q.1.map (fun a => (a, q.2.1)))

/-- The buffers of the cores a packet runs on drained (10 R226). -/
def Dev.drainPkt (d : Dev) (e : Env) (p : Pkt) : Dev := (nub (p.on ++ p.core.toList)).foldl (fun d k => d.drain e k) d

/-- A written operand poisoned (06 R146): the destination of a failed read. The writes that its cores made before are performed
first (10 R225, R226). -/
def Dev.poisonP (d : Dev) (p : Pkt) (e : Env) (dva n : Nat) : Dev :=
  (dpaPieces p.leaves dva n).foldl (fun d q => d.poisonRange (p.acc e) q.1 q.2) (d.drainPkt e p)

/-- What an operation of a packet comes to: the module, the status, the RESULT, and the ranges written by DPA. -/
structure OpR where
  /-- The module. -/
  d : Dev
  /-- STATUS. -/
  st : BitVec 16 := 0
  /-- RESULT. -/
  res : Nat := 0
  /-- Ranges written. -/
  wrote : List (Nat × Nat) := []

end Sys2Proof.Machine
end

