-- ==== Sys2Proof/Machine/Pkts.lean ====
section
/-!
DEFINITION. Machine/Pkts.lean: packets in flight: finding and finishing them, rings, the status entry, completion and its
interrupts (spec/11_queues_packets.md R239-R252, spec/10_ordering.md R221, R226, R237).
-/
namespace Sys2Proof.Machine

/-- A queue. -/
def Dev.queue (d : Dev) (q : QRef) : Queue := tget d.queues (qKey q) {}
/-- A queue changed. -/
def Dev.setQueue (d : Dev) (q : QRef) (x : Queue) : Dev := { d with queues := tset d.queues (qKey q) x }

/-- Queue of a key. -/
def keyQ (k : Nat) : QRef :=
  if k < 512 then .part ⟨k / 64 % 8, Nat.mod_lt _ (by decide)⟩ ⟨k % 64, Nat.mod_lt _ (by decide)⟩
  else .mgmt ⟨(k - 512) % 16, Nat.mod_lt _ (by decide)⟩

/-- A packet in flight. -/
def Dev.pkt? (d : Dev) (q : QRef) (tag : BitVec 16) : Option Pkt := d.disp.pkts.find? (fun p => p.q == q && p.tag == tag)

/-- Packets of a queue in flight (11 R243). -/
def Dev.inflight (d : Dev) (q : QRef) : List Pkt := d.disp.pkts.filter (fun p => p.q == q)

/-- ABORTs that a queue carries, found and not completed (11 R255). -/
def Dev.abortsOf (d : Dev) (q : QRef) : List AbortJob := d.disp.aborts.filter (fun j => j.kind == .packet && j.q == some q)

/-- Packets of a queue taken and not completed, ABORTs among them (11 R243). -/
def Dev.outstanding (d : Dev) (q : QRef) : Nat := (d.inflight q).length + (d.abortsOf q).length

/-- A packet of the queue with that tag has been taken and not completed (11 R247). -/
def Dev.tagOut (d : Dev) (q : QRef) (tag : BitVec 16) : Bool := (d.pkt? q tag).isSome || (d.abortsOf q).any (fun j => j.tag == tag)

/-- Every packet in flight changed by f. -/
def Dev.mapPkts (d : Dev) (f : Pkt → Pkt) : Dev := { d with disp := { d.disp with pkts := d.disp.pkts.map f } }

/-- The packet number ord changed by f. -/
def Dev.modPkt (d : Dev) (ord : Nat) (f : Pkt → Pkt) : Dev := d.mapPkts (fun p => if p.ord == ord then f p else p)

/-- A packet's effect is done: its STATUS and RESULT stand. -/
def Dev.finish (d : Dev) (ord : Nat) (st : BitVec 16) (res : Nat) : Dev :=
  d.modPkt ord (fun p => { p with phase := .done, status := thenSt st p.status, result := BitVec.ofNat 64 res })

/-- The RESULT of a packet is one the spec states: that of a success, where its opcode has one; of a VERIFY, a SEND or an
ARBOR_INSERT; the last value of a WAIT that has read; the DPA that R263 refuses (12 R263, Tables 12-3, 12-7, 12-9, 14 R313, 15 R340,
16 R363). -/
def Pkt.resultSaid (p : Pkt) (st : BitVec 16) (res : Nat) : Bool :=
  (!isExc st && !(List.contains [0x04, 0x37, 0x52, 0x60, 0x61] p.opc.toNat)) || List.contains [0x22, 0x36, 0x50] p.opc.toNat
    || ((p.opc == 0x20 || p.opc == 0x21) && st == sPerm) || (p.opc == 0x03 && p.waitRid != 0) || (res != 0 && st == sPerm)

/-- A packet's effect is done; a RESULT that the spec leaves open is a free value (log 8). -/
def Dev.close (d : Dev) (p : Pkt) (st : BitVec 16) (res : Nat) : Dev :=
  if p.resultSaid st res then d.finish p.ord st res else d.draw.finish p.ord st (Config.freeValue d.free).toNat

/-- The DPA ranges a watch slot covers: the elements of its TD and, in a block format, their scales (18 R396, R399). -/
def Watch.extent (w : Watch) : List (Nat × Nat) :=
  ((tdOfWords w.td).ranges false true).flatMap (fun r => dpaPieces w.leaves r.dva r.n)

/-- Watch slots of an owner whose extent a list of written ranges overlaps (18 R397). -/
def Dev.triggered (d : Dev) (owner : Nat) (wrote : List (Nat × Nat)) : List Nat :=
  if wrote.isEmpty then [] else
  (List.range 32).filter (fun s =>
    let w := tget d.lpe (32 * owner + s) {}
    w.bound && w.extent.any (fun l => wrote.any (fun r => overlaps l.1 l.2 r.1 r.2)))

/-- An operation's outcome recorded in its packet, with the digests it triggers (18 R397). -/
def Dev.conclude (p : Pkt) (r : OpR) : Dev :=
  let trig := if isExc r.st then [] else r.d.triggered p.owner r.wrote
  (r.d.close p (p.asListed r.st) r.res).modPkt p.ord (fun x => { x with wrote := r.wrote, trig := trig })

/-- The page descriptors that a KPM packet operates on, by DPA (14 R303): the one it names, or those of its list. -/
def Dev.descsOf (d : Dev) (p : Pkt) : List Nat :=
  let named := (leafDpa p.leaves (p.f 1 47 0)).toList.map (fun x => d.canon x.1)
  match p.opc.toNat with
  | 0x31 => named
  | 0x32 => named
  | 0x33 => named
  | 0x34 => named
  | 0x37 => named
  | 0x36 =>
    let l := p.dvas.filter (fun r => r.1 == p.f 3 47 0)
    l.flatMap (fun r => (dpaPieces p.leaves r.1 r.2).flatMap (fun x => (chunks 8 (d.peek x.1 x.2)).map (fun b => d.canon (leNat b % 2 ^ 56))))
  | _ => []

/-- Operations on one page descriptor execute one at a time, in the order in which the Dispatcher started them (14 R303). -/
def Dev.descTurn (d : Dev) (p : Pkt) : Bool :=
  let mine := d.descsOf p
  mine.isEmpty || !d.disp.pkts.any (fun x => x.phase == .started && x.startNo < p.startNo && x.ord != p.ord
    && (d.descsOf x).any (fun a => mine.contains a))

/-- A command on a packet that has started, with one of the opcodes it belongs to, that no ABORT waits to reset and whose turn it
is on its descriptors. -/
def Dev.onPkt (d : Dev) (ops : List Nat) (q : QRef) (tag : BitVec 16) (f : Dev → Pkt → Dev) : Dev :=
  match d.pkt? q tag with
  | some p =>
    if p.phase == .started && ops.contains p.opc.toNat && !d.disp.aborts.any (fun j => j.stuck.contains p.ord) && d.descTurn p then f d p
    else d
  | none => d

/-! Rings. -/

/-- Slots of the submission ring. -/
def Queue.sqSize (x : Queue) : Nat := 2 ^ x.sqLog2.toNat
/-- Entries of the completion ring. -/
def Queue.cqSize (x : Queue) : Nat := 2 ^ x.cqLog2.toNat
/-- Slots between head and tail. -/
def Queue.waiting (x : Queue) : Nat := (x.sqTail.toNat + x.sqSize - x.sqHead.toNat) % x.sqSize
/-- Free completion entries. -/
def Queue.cqFree (x : Queue) : Nat := (x.cqHead.toNat + x.cqSize - x.cqTail.toNat - 1) % x.cqSize

/-- Head moved past the slots that ABORT has already dealt with. -/
def Queue.skipSlots : Nat → Queue → Queue
  | 0, x => x
  | n + 1, x =>
    if x.skip.contains x.sqHead.toNat && x.sqHead != x.sqTail then
      let h := x.sqHead.toNat
      Queue.skipSlots n { x with skip := x.skip.filter (fun s => s != h), sqHead := BitVec.ofNat 16 ((h + 1) % x.sqSize) }
    else x

/-- DPA of slot i of the submission ring. -/
def Queue.slotAddr (x : Queue) (i : Nat) : Nat := x.sqBase.toNat + 64 * (i % x.sqSize)

/-- Word 0 of the packet at a slot, as memory holds it. -/
def Dev.peekHeader (d : Dev) (x : Queue) (slot : Nat) : Header := header (leNat (d.peek (x.slotAddr slot) 8))

/-- A packet of 1 + len slots read from a ring: the module, its words, and the status of the reads. -/
def Dev.readPacket (d : Dev) (e : Env) (q : QRef) (slot len : Nat) : Dev × List (BitVec 64) × BitVec 16 :=
  let x := d.queue q
  let r := (List.range (1 + len)).foldl (fun (r : RdR) i =>
    let y := r.d.readBytes { owner := some (qOwner q), env := e } (x.slotAddr (slot + i)) 64
    { d := y.d, bytes := r.bytes ++ y.bytes, st := thenSt r.st y.st }) { d := d }
  (r.d, (chunks 8 r.bytes).map (fun b => BitVec.ofNat 64 (leNat b)), r.st)

/-- A ring read failed (11 decided case): the queue stops with CAUSE 5. -/
def Dev.ringError (d : Dev) (q : QRef) : Dev := d.setQueue q { d.queue q with st := 3, cause := 5 }

/-! The status entry. -/

/-- The 16 bytes of a status entry (11 Table 11-2). -/
def statusEntry (tag st : BitVec 16) (stamp : Nat) (res : BitVec 64) : List Byte :=
  leBytes 2 tag.toNat ++ leBytes 2 st.toNat ++ leBytes 4 (stamp % 2 ^ 32) ++ leBytes 8 res.toNat

/-- The queue's interrupt policy after an entry is written (11 R245): the module and the queue. -/
def Dev.signalEntry (d : Dev) (q : QRef) (irq : Bool) : Dev :=
  let x := d.queue q
  let x := { x with unsig := x.unsig + 1, oldest := some (x.oldest.getD d.now) }
  if x.irqEn && x.irqVec != 0 && (irq || x.irqCount.toNat + 1 ≤ x.unsig) then
    (d.setQueue q { x with unsig := 0, oldest := none }).emit (.msix (ownerFn (qOwner q)) x.irqVec.toNat)
  else d.setQueue q x

/-- Die that completes a packet: that of its KPM, DMA complex or cores, else IOD0, where the Dispatcher is (11 R249). -/
def Pkt.die (p : Pkt) : Nat := p.site.getD ((p.on.head?.map (· / 64)).getD 5)

/-- A status entry written, stamped by die n: entry, completion tail, MSI-X, in this order (10 R237); the tail waits for an entry that an exclusive
hold keeps back. -/
def Dev.writeEntry (d : Dev) (e : Env) (n : Nat) (q : QRef) (tag st : BitVec 16) (res : BitVec 64) (irq : Bool) : Dev :=
  let a := (d.queue q).cqBase.toNat + 16 * (d.queue q).cqTail.toNat
  let r := d.writeBytes { owner := some (qOwner q), env := e } a (statusEntry tag st (d.stampOn e n) res)
  let d := r.d.awaitHeld e (fun h => overlaps h.addr h.bytes.length (r.d.canon a) 16)
  let x := d.queue q
  let d := d.setQueue q { x with cqTail := BitVec.ofNat 16 ((x.cqTail.toNat + 1) % x.cqSize), lastDone := tag }
  d.signalEntry q irq

/-- A completed packet entered into the completed-tag window of 256 (11 R252). -/
def Dev.enterWindow (d : Dev) (p : Pkt) : Dev :=
  let x := d.queue p.q
  let e : WinEntry := { tag := p.tag, opc := p.opc, status := p.status, result := p.result }
  d.setQueue p.q { x with window := (e :: x.window).take 256 }

/-- Packets that wait for one that has completed learn its status (11 R248). -/
def Dev.wakeDeps (d : Dev) (ord : Nat) (st : BitVec 16) : Dev :=
  d.mapPkts (fun p => if p.depOrd == some ord then { p with depMet := true, depSt := st } else p)

/-- A packet that is done leaves: its entry is written, its tag enters the window unless it was answered from it, and those
that depend on it learn of it. -/
def Dev.retire (d : Dev) (e : Env) (p : Pkt) : Dev :=
  let d := d.writeEntry e p.die p.q p.tag p.status p.result (bit p.flg.toNat 2)
  let d := if p.hit then d else d.enterWindow p
  let d := d.count (some p.owner) 1 (if isExc p.status then 14 else 13) 1
  let d := { d with disp := { d.disp with pkts := d.disp.pkts.filter (fun x => x.ord != p.ord) } }
  d.wakeDeps p.ord p.status

/-- Remote and partner writes of a DMA packet, by its number, that no response has answered (10 R231). -/
def Dev.sentWrites (d : Dev) (ord : Nat) : Bool :=
  d.lnk.rids.any (fun r => r.ord == ord && (match r.use with | .dmaWrite _ _ _ => true | _ => false))
    || d.zf.reqs.any (fun r => r.wr && !r.dead && !r.sync && r.ord == ord)

/-- A packet of a DMA engine (12 Table 12-2). -/
def Pkt.isDma (p : Pkt) : Bool := p.opc == 0x40 || p.opc == 0x41

/-- The writes of a finished packet performed before its status entry (10 R221, R226 items 2 and 5): its cores' buffers drain, and
exclusive holds end. The DMA engines' writes are waited for only under FLG.FENCE (10 R231). -/
def Dev.settle (d : Dev) (e : Env) (p : Pkt) : Dev :=
  if p.isDma && !bit p.flg.toNat 0 then d
  else (d.drainPkt e p).awaitHeld e (fun h => h.ord == some p.ord)

/-- PACKET_COMPLETE: the writes of a finished packet are performed, then it leaves (11 R249). A DMA packet with FLG.FENCE waits for
the responses to its writes (10 R231). -/
def Dev.completePkt (d : Dev) (e : Env) (q : QRef) (tag : BitVec 16) : Dev :=
  match d.pkt? q tag with
  | none => d
  | some p =>
    if p.phase == .done && p.trig.isEmpty && (d.queue q).cqFree != 0 && !(bit p.flg.toNat 0 && d.sentWrites p.ord) then
      let d := d.settle e p
      match d.pkt? q tag with
      | none => d
      | some p => d.retire e p
    else d

end Sys2Proof.Machine
end

