-- ==== Sys2Proof/Machine/DmaBuf.lean ====
section
/-!
DEFINITION. Machine/DmaBuf.lean: a DMA channel's packet and its buffer blocks (spec/13_dma.md R279-R281, R292, R293): pieces
that arrive, failures that end the transfer, and the stop at a block boundary.
-/
namespace Sys2Proof.Machine

/-- What a command meets in the world outside, with the ZF slots it moved for an owner (18 R386). -/
def Dev.meet (d : Dev) (e : Env) (owner : Option Nat) : Dev := (d.applyEnv e).countZf owner e.zf

/-- A channel changed. -/
def Dev.setChan (d : Dev) (k : Nat) (c : DmaCh) : Dev := { d with dmaCh := tset d.dmaCh k c }
/-- The packet a channel carries changed by f. -/
def Dev.modJob (d : Dev) (k : Nat) (f : DmaJob → DmaJob) : Dev :=
  let c := d.chan k
  d.setChan k { c with job := c.job.map f }

/-- The channel carries that packet. -/
def Dev.jobIs (d : Dev) (k : Nat) (q : QRef) (tag : BitVec 16) : Bool :=
  match (d.chan k).job with | some j => j.q == q && j.tag == tag | none => false

/-- A block is full. -/
def DmaBlk.full (b : DmaBlk) : Bool := b.want ≤ b.data.length

/-- Pieces that continue a block's data taken in. -/
def DmaBlk.absorb : Nat → DmaBlk → DmaBlk
  | 0, b => b
  | n + 1, b =>
    match b.pieces.find? (fun p => p.1 == b.off + b.data.length) with
    | none => b
    | some p => DmaBlk.absorb n { b with data := b.data ++ p.2, pieces := b.pieces.filter (fun x => x.1 != p.1) }

/-- A piece that has arrived at offset off of the transfer. -/
def DmaBlk.accept (b : DmaBlk) (off : Nat) (x : List Byte) : DmaBlk :=
  if b.off ≤ off && off < b.off + b.want then
    let b := { b with pieces := b.pieces ++ [(off, x)] }
    DmaBlk.absorb b.pieces.length b
  else b

/-- A source failure at offset off (13 R292): what lies before it is still written, nothing after it; the first failure in the
order of the transfer stands. -/
def DmaJob.failSrc (j : DmaJob) (off : Nat) (st : BitVec 16) : DmaJob :=
  if isExc j.status && (j.failDst || j.failAt ≤ j.src + off) then { j with stop := true }
  else
    { j with
      status := st, failAt := j.src + off, failDst := false, stop := true,
      blocks := (j.blocks.filter (fun b => b.off < off)).map (fun b =>
        if off < b.off + b.want then { b with want := off - b.off, data := b.data.take (off - b.off), pieces := b.pieces.filter (fun p => p.1 < off) } else b) }

/-- A destination failure at DPA a: nothing further is written. A transfer that an ABORT, a fence or a map-out has stopped keeps
that status, and a is the first byte not written (13 R291, R293). -/
def DmaJob.failAtDst (j : DmaJob) (a : Nat) (st : BitVec 16) : DmaJob :=
  if j.aborting && isExc j.status then { j with failAt := a, stop := true, blocks := [] }
  else { j with status := st, failAt := a, failDst := true, stop := true, blocks := [] }

/-- The stop of an ABORT, a fence or a map-out at the next block boundary (13 R293): blocks already read are written, blocks
still being read are dropped. -/
def DmaJob.halt (j : DmaJob) (st : BitVec 16) : DmaJob :=
  { j with
    aborting := true, stop := true, blocks := j.blocks.takeWhile DmaBlk.full,
    status := if isExc j.status then j.status else st,
    failAt := if isExc j.status then j.failAt
      else j.dst + (match (j.blocks.takeWhile DmaBlk.full).getLast? with | some b => b.off + b.want | none => j.wr) }

/-- A channel stopped. -/
def Dev.stopChan (d : Dev) (k : Nat) (st : BitVec 16) : Dev :=
  match (d.chan k).job with
  | none => d
  | some j => d.setChan k { d.chan k with job := some (j.halt st), st := 3 }

/-- Piece of a read that has arrived for the packet of a channel. -/
def Dev.dmaPiece (d : Dev) (k : Nat) (q : QRef) (tag : BitVec 16) (off : Nat) (x : List Byte) : Dev :=
  if d.jobIs k q tag then d.modJob k (fun j => { j with blocks := j.blocks.map (fun b => b.accept off x) }) else d

/-- A read of a piece of n bytes failed: where the data was bad, its destination is to be poisoned, after what lies before it has
been written (13 R292, 08 R192, 16 R353). -/
def Dev.dmaReadFail (d : Dev) (k : Nat) (q : QRef) (tag : BitVec 16) (off n : Nat) (st : BitVec 16) : Dev :=
  if d.jobIs k q tag then d.modJob k (fun j =>
    let x := j.failSrc off st
    if x.status == st && x.failAt == j.src + off && !x.failDst then
      { x with bad := if st == sPoison || st == sUe then some (off, n) else none }
    else x)
  else d

/-- What a failed source word leaves at the destination: poison, where the owner may write there (13 R292). -/
def Dev.dmaPoison (d : Dev) (acc : Acc) (j : DmaJob) : Dev :=
  match j.bad with
  | some (off, n) => if d.owns (qOwner j.q) (d.canon (j.dst + off)) n true then d.poisonRange acc (j.dst + off) n else d
  | none => d

/-- A write of a piece of descriptor dno of packet ord is answered. A failure that comes after its descriptor has ended goes to the
packet while that is still outstanding, and its RESULT is the DPA (DESIGN CHOICE, log 94). -/
def Dev.dmaWritten (d : Dev) (k ord dno off a : Nat) (st : BitVec 16) : Dev :=
  let mine := match (d.chan k).job with | some j => j.ord == ord && j.doneD == dno && j.active | none => false
  if mine then d.modJob k (fun j =>
    let j := { j with outst := j.outst - 1, corr := j.corr || st == sCorrected }
    if isExc st && !isExc j.status then j.failAtDst (j.dst + off) st else j)
  else if isExc st then
    d.modPkt ord (fun p => if p.phase == .done && !isExc p.status then { p with status := st, result := BitVec.ofNat 64 a } else p)
  else d

end Sys2Proof.Machine
end

