-- ==== Sys2Proof/Machine/Barrier.lean ====
section
/-!
DEFINITION. Machine/Barrier.lean: the isolation barrier: frames and their acceptance, the fourteen messages at both ends, the
CAN side of the Facility Controller, and the timeouts (spec/02_module_barrier.md R57-R73).
-/
namespace Sys2Proof.Machine

/-! Frames. -/

/-- The sixteen bytes of a frame (02 R61, R62). -/
def frameBytes (typ seq : Byte) (payload : List Byte) : List Byte :=
  let b := [typ, seq] ++ padTo 12 payload
  b ++ leBytes 2 (crc16 b)

/-- Bytes 0-13 of a received frame. -/
def frHead (f : Frame) : List Byte := [f.typ, f.seq] ++ padTo 12 f.payload
/-- The frame arrives whole and its CRC checks. -/
def frSound (f : Frame) : Bool := !f.gap && f.crc.toNat == crc16 (frHead f)
/-- A little-endian field of the payload. -/
def frField (f : Frame) (o n : Nat) : Nat := fieldAt f.payload o n
/-- Byte o of the payload. -/
def frByte (f : Frame) (o : Nat) : Byte := byteAt f.payload o

/-- Types that are acknowledged (02 Table 02-11). -/
def ackedType (t : Byte) : Bool := [0x02#8, 0x03#8, 0x05#8, 0x82#8, 0x83#8, 0x85#8].contains t

/-! The Supervisor's end. -/

/-- The Supervisor runs: the host side is up and its rails are on. -/
def Dev.supAlive (d : Dev) : Bool := d.rails.pg == 6 && !d.rails.latchedOff && !d.rails.tripHold

/-- A new frame from the Supervisor (02 R61, R65); an acked one waits for its acknowledgement (R64). -/
def Dev.supSend (d : Dev) (typ : Byte) (payload : List Byte) : Dev :=
  let u : Unacked := { typ := typ, seq := d.sup.seq, payload := padTo 12 payload }
  let d1 := d.emit (.barrier .host (frameBytes typ d.sup.seq payload))
  { d1 with sup := { d1.sup with seq := d1.sup.seq + 1, unacked := if ackedType typ then d1.sup.unacked ++ [u] else d1.sup.unacked } }

/-- A new frame from the Facility Controller. -/
def Dev.fcSend (d : Dev) (typ : Byte) (payload : List Byte) : Dev :=
  let u : Unacked := { typ := typ, seq := d.fc.seq, payload := padTo 12 payload }
  let d1 := d.emit (.barrier .facility (frameBytes typ d.fc.seq payload))
  { d1 with fc := { d1.fc with seq := d1.fc.seq + 1, unacked := if ackedType typ then d1.fc.unacked ++ [u] else d1.fc.unacked } }

/-- FUSE has ended since supplies valid (03 R81). -/
def Dev.fuseEnded (d : Dev) : Bool :=
  d.sys.phase != 1 && d.sys.phase != 2 && (d.sys.phase != 0xF || d.sys.failCause == 1 || d.sys.stFuse != 0)

/-- The serial number of the record. -/
def Dev.serial (d : Dev) : List Byte := (List.range 8).map (fun i => d.touchByte (24 + i))

/-- HST_IDENT (02 Table 02-11, 20 R426): class state 0xFF until SYS_READY has been set. -/
def Dev.sendIdent (d : Dev) : Dev :=
  let nbr := if d.sys.fuseLoaded then d.fuse.nbr else 0
  let cls : Byte := if d.sys.everReady then (if d.kept then 1 else 0) else 0xFF
  d.supSend 0x84 (leBytes 2 (d.sysBuild % 2 ^ 16) ++ d.serial ++ [nbr, cls])

/-- Hottest effective reading of a class in the package, quarter degrees; a sensor that has not been read shows its reset value. -/
def Dev.hottest (d : Dev) (c : Nat) : Int :=
  match (List.range 6).filterMap (fun n => tget? (d.dom n).hot c) with
  | [] => 0
  | x :: r => r.foldl max x

/-- Payload of HST_STATUS (02 Table 02-11); the spec gives the State byte no encoding (log 12). -/
def Dev.statusPayload (d : Dev) (power : BitVec 16) : List Byte :=
  let tj := fun c => leBytes 2 (sField 16 (tenths (d.hottest c)))
  let lvl := maxOf 0 ((List.range 6).map d.level)
  let stop := (List.range 6).any (fun n => (d.dom n).stopping || d.stopped n)
  [BitVec.ofNat 8 (Config.openResult 12 [d.sysState])] ++ leBytes 2 power.toNat ++ tj 0 ++ tj 1 ++ tj 2 ++ [BitVec.ofNat 8 lvl] ++
    [BitVec.ofNat 8 (b2n stop + 2 * b2n d.thm.trip + 4 * b2n d.sys.ready)]

/-- HST_STATUS sent, and the always-on copy refreshed (02 R63, 17 R383). -/
def Dev.sendStatus (d : Dev) (power : BitVec 16) : Dev :=
  let p := padTo 12 (d.statusPayload power)
  let d := d.supSend 0x81 p
  { d with thm := { d.thm with aon := p, aonAt := d.now } }

/-- A record of at most 44 bytes sent in fragments of eleven (02 Table 02-11). -/
def Dev.sendRecord (d : Dev) (typ : Byte) (r : List Byte) : Dev :=
  let fs := chunks 11 r
  (List.range fs.length).foldl (fun d i =>
    d.supSend typ ([BitVec.ofNat 8 (16 * i + fs.length)] ++ fs.getD i [])) d

/-- What an accepted message does at the Supervisor (02 R63, R66-R69); DEDUCED in part: log 16. -/
def Dev.supApply (d : Dev) (f : Frame) : Dev :=
  match f.typ.toNat with
  | 0x01 => { d with
      pwr := { d.pwr with vIn := BitVec.ofNat 16 (frField f 0 2), iIn := BitVec.ofNat 16 (frField f 2 2) },
      sup := { d.sup with facIn := BitVec.ofNat 16 (frField f 4 2), facOut := BitVec.ofNat 16 (frField f 6 2),
                          facFlow := BitVec.ofNat 16 (frField f 8 2), flow := BitVec.ofNat 16 (frField f 8 2) } }
  | 0x02 =>
    let rack := frByte f 2 == 0
    ({ d with pwr := { d.pwr with
        capW := BitVec.ofNat 16 (frField f 0 2), capSrc := if rack then 0 else 1,
        shed := if rack then 0 else d.pwr.shed, shed0 := !rack && d.pwr.shed0 } }).raisePwr 1
  | 0x03 =>
    match (frByte f 0).toNat with
    | 0 => ({ d with
        thm := { d.thm with facLvl := 15 },
        pwr := { d.pwr with shed := if d.pwr.shed == 2 then 2 else 1, shed0 := true } }).raisePwr 2
    | 1 => ({ d with pwr := { d.pwr with shed := 2 } }).raisePwr 2
    | _ => d
  | 0x04 =>
    ({ d with
      pwr := { d.pwr with inlet := BitVec.ofNat 16 (frField f 2 2), outlet := BitVec.ofNat 16 (frField f 4 2) },
      sup := { d.sup with flow := BitVec.ofNat 16 (frField f 6 2) } }).raisePwr 4
  | 0x05 =>
    let ms := frField f 0 2
    (if ms == 0xFFFF then { d with pwr := { d.pwr with isoUntil := none, isoHalt := false } }
     else { d with pwr := { d.pwr with isoUntil := some (d.now + ms * 1000000), isoHalt := d.pwr.isoHalt || decide (ms ≤ 20) } }).raisePwr 8
  | 0x06 => let d := d.raisePwr 32; if d.fuseEnded then d.sendIdent else d
  | 0x07 =>
    let d := { d with sup := { d.sup with unacked := d.sup.unacked.filter (fun u => !(u.typ == frByte f 0 && u.seq == frByte f 1)) } }
    if frByte f 0 == 0x85 then { d with pwr := { d.pwr with pending := false } } else d
  | _ => d

/-- A frame reaches the Supervisor (02 R62, R64, R65, R71); DEDUCED in part: log 15. -/
def Dev.supFrame (d : Dev) (f : Frame) : Dev :=
  if !d.supAlive then d
  else if !(frSound f) || !(1 ≤ f.typ.toNat && f.typ.toNat ≤ 7) then { d with pwr := { d.pwr with crcErr := satAdd d.pwr.crcErr 1 } }
  else if d.sup.rxLast == some f.seq then
    let d := { d with sup := { d.sup with dups := d.sup.dups + 1 } }
    if ackedType f.typ then d.supSend 0x87 [f.typ, f.seq] else d
  else
    let skip := match d.sup.rxLast with | none => 0 | some l => if d.pwr.lost then 0 else (f.seq - l - 1).toNat
    let d := { d with pwr := { d.pwr with gaps := satAdd d.pwr.gaps skip, lost := false }, sup := { d.sup with rxLast := some f.seq } }
    let d := d.supApply f
    if ackedType f.typ then d.supSend 0x87 [f.typ, f.seq] else d

/-! The Facility Controller's end. -/

/-- FC state byte (02 R59). -/
def FcState.code : FcState → Byte
  | .uvHold => 0x01
  | .hostSilent => 0x02
  | .hostRunning => 0x03
  | .ovHold => 0x04

/-- A CAN FD frame from the FC, 16 data bytes (02 R58). -/
def Dev.canSend (d : Dev) (id : Nat) (data : List Byte) : Dev := d.emit (.can id (padTo 16 data))
/-- The identifier base + n. -/
def Dev.canId (d : Dev) (base : Nat) : Nat := base + d.fc.slot.toNat

/-- Flags of FAC_STATUS and FAC_COOLANT (02 Table 02-11). -/
def Dev.facFlags (d : Dev) (r : FacReading) : Nat :=
  b2n r.leak + 2 * b2n r.flowLow + 4 * b2n r.inletRange + 8 * b2n d.fc.below44 + 16 * b2n r.canOff

/-- Payload of FAC_STATUS. -/
def Dev.facStatusPayload (d : Dev) (r : FacReading) : List Byte :=
  leBytes 2 r.vin.toNat ++ leBytes 2 r.iin.toNat ++ leBytes 2 r.inlet.toNat ++ leBytes 2 r.outlet.toNat ++ leBytes 2 r.flow.toNat
    ++ leBytes 2 (d.facFlags r)
/-- Payload of FAC_COOLANT. -/
def Dev.facCoolantPayload (d : Dev) (r : FacReading) : List Byte :=
  leBytes 2 (d.facFlags r) ++ leBytes 2 r.inlet.toNat ++ leBytes 2 r.outlet.toNat ++ leBytes 2 r.flow.toNat

/-- The cap in force at the FC, and whether it is the derived one (02 R44). -/
def FC.cap (f : FC) : Nat × Bool :=
  match f.derived with
  | some w => if w < f.rackCap.toNat then (w, true) else (f.rackCap.toNat, false)
  | none => (f.rackCap.toNat, false)

/-- FAC_POWER_CAP with the cap in force. -/
def Dev.sendCap (d : Dev) : Dev :=
  let c := d.fc.cap
  let d := { d with fc := { d.fc with lastSent := BitVec.ofNat 16 c.1 } }
  d.fcSend 0x02 (leBytes 2 c.1 ++ [if c.2 then 1 else 0])

/-- FAC_POWER_CAP where the cap in force differs by 25 W or more from the last one sent (02 R44). -/
def Dev.sendCapIfMoved (d : Dev) : Dev :=
  let c := d.fc.cap.1
  let l := d.fc.lastSent.toNat
  if 25 ≤ (c - l) + (l - c) then d.sendCap else d

/-- What the FC retained goes to the rack (02 R72). -/
def Dev.serveRetained (d : Dev) : Dev :=
  let id := d.canId 0x240
  let d := match d.fc.lastStatus with | some b => d.canSend id b | none => d
  d.fc.stopRec.foldl (fun d b => d.canSend id b) d

/-- The SEQ that fragment 0 of a stop record has, from a fragment's frame: the Supervisor sends a record's fragments one after
another (DEDUCED, log 92). -/
def fragBase (b : List Byte) : Byte := byteAt b 1 - (byteAt b 2 >>> 4)

/-- The fragments held with one more: those of another record are dropped. A fragment may come in any order (02 R64). -/
def addFrag (held : Tbl (List Byte)) (i : Nat) (b : List Byte) : Tbl (List Byte) :=
  tset (held.filter (fun x => fragBase x.2 == fragBase b)) i b

/-- What an accepted host message does at the FC (02 R58, R72). -/
def Dev.fcApply (d : Dev) (f : Frame) : Dev :=
  let d := if f.typ == 0x87 then d else d.canSend (d.canId 0x240) (frHead f)
  match f.typ.toNat with
  | 0x81 => { d with fc := { d.fc with lastStatus := some (frHead f), st := if d.fc.st == .hostSilent then .hostRunning else d.fc.st } }
  | 0x82 =>
    let i := bf (frByte f 0).toNat 7 4
    let n := bf (frByte f 0).toNat 3 0
    let fr := addFrag d.fc.frags i (frHead f)
    if (List.range n).all (fun k => (tget? fr k).isSome) then
      { d with fc := { d.fc with stopRec := (List.range n).map (fun k => tget fr k []), frags := [] } }
    else { d with fc := { d.fc with frags := fr } }
  | 0x84 => { d with fc := { d.fc with identWait := d.fc.identWait - 1 } }
  | 0x87 => { d with fc := { d.fc with unacked := d.fc.unacked.filter (fun u => !(u.typ == frByte f 0 && u.seq == frByte f 1)) } }
  | _ => d

/-- A frame reaches the FC (02 R62, R64, R65). -/
def Dev.fcFrame (d : Dev) (f : Frame) : Dev :=
  if !d.fc.hk then d
  else if !(frSound f) || !(0x81 ≤ f.typ.toNat && f.typ.toNat ≤ 0x87) then { d with fc := { d.fc with discards := d.fc.discards + 1 } }
  else if d.fc.rxLast == some f.seq then
    let d := { d with fc := { d.fc with dups := d.fc.dups + 1 } }
    if ackedType f.typ then d.fcSend 0x07 [f.typ, f.seq] else d
  else
    let d := { d with fc := { d.fc with rxLast := some f.seq } }
    let d := d.fcApply f
    if ackedType f.typ then d.fcSend 0x07 [f.typ, f.seq] else d

/-- A frame on its way to the Supervisor, of the type the command names. -/
def Dev.toSup (d : Dev) (f : Frame) : Dev := d.supFrame f
/-- A frame on its way to the FC. -/
def Dev.toFc (d : Dev) (f : Frame) : Dev := d.fcFrame f

/-- A CAN frame the FC takes: one of its identifiers, 16 data bytes, an ISO CAN FD base frame (02 R57, R58). -/
def Dev.canTakes (d : Dev) (f : CanFrame) (id : Nat) : Bool := d.fc.hk && f.id == id && !f.foreign && f.data.length == 16

/-! Retransmission and silence. -/

/-- No acknowledgement came 5 ms after an acked frame was sent (02 R64). -/
def Dev.retransmit (d : Dev) (side : Side) (seq : BitVec 8) : Dev :=
  match side with
  | .host =>
    match d.sup.unacked.find? (fun u => u.seq == seq) with
    | none => d
    | some u =>
      if !d.supAlive then d
      else if u.sends < 8 then
        let l := d.sup.unacked.map (fun x => if x.seq == seq then { x with sends := x.sends + 1 } else x)
        ({ d with sup := { d.sup with unacked := l } }).emit (.barrier .host (frameBytes u.typ u.seq u.payload))
      else
        let d := { d with
          sup := { d.sup with unacked := d.sup.unacked.filter (fun x => x.seq != seq) },
          pwr := { d.pwr with unackedN := satAdd d.pwr.unackedN 1 } }
        if u.typ == 0x85 then { d with pwr := { d.pwr with pending := false, failed := true } } else d
  | .facility =>
    match d.fc.unacked.find? (fun u => u.seq == seq) with
    | none => d
    | some u =>
      if !d.fc.hk then d
      else if u.sends < 8 then
        let l := d.fc.unacked.map (fun x => if x.seq == seq then { x with sends := x.sends + 1 } else x)
        ({ d with fc := { d.fc with unacked := l } }).emit (.barrier .facility (frameBytes u.typ u.seq u.payload))
      else { d with fc := { d.fc with unacked := d.fc.unacked.filter (fun x => x.seq != seq), abandoned := d.fc.abandoned + 1 } }

/-! PCIe (03 R86, R446). -/

/-- A link with the host exists. -/
def Dev.pcieUp (d : Dev) : Bool := d.supAlive && !d.pins.perst && d.pins.refclk

/-- A function answers memory requests: the link is up, configuration succeeds, the function exists and MSE is set. -/
def Dev.hostOk (d : Dev) (fn : Fn) : Bool :=
  d.pcieUp && d.fuseEnded && tget d.pcie.mse (fnKey fn) false && (fn == .pf || d.pcie.vfEnable)

/-- The turn of a request of the host: the posted writes that it made through BAR4 before are performed first (10 R223, R236); an
exclusive hold that keeps one back ends (log 79). -/
def Dev.hostTurn (d : Dev) : Dev := d.awaitHeld {} (·.bar4)

/-- A request to a BAR of a function: f where the function answers; Unsupported Request where MSE is clear; else no answer. That a
memory request before the end of FUSE, the link up, gets no answer is the model's choice (DESIGN CHOICE, log 84). -/
def Dev.hostReq? (d : Dev) (fn : Fn) (f : Dev → Dev) : Dev :=
  if d.hostOk fn then f d.hostTurn
  else d.emit (.noAnswer fn (d.pcieUp && d.fuseEnded))

/-! The PWR registers (02 Table 02-13). -/

/-- A write of PWR_REQ by the management function (02 decided case: ignored while a request is pending). -/
def Dev.wrPwrReq (d : Dev) (v : Nat) : Dev :=
  if d.pwr.pending then d
  else
    let d := { d with pwr := { d.pwr with reqW := BitVec.ofNat 16 (bf v 15 0), failed := d.pwr.failed && !bit v 18 } }
    if bit v 16 && d.supAlive then ({ d with pwr := { d.pwr with pending := true } }).supSend 0x85 (leBytes 2 (bf v 15 0)) else d

/-! The commands. -/

/-- FAC_STATUS_PERIOD (02 R63). -/
def execFacStatusPeriod (r : FacReading) (s : State) : Host.Outcome State Fault Refusal :=
  onDev s (fun d => if d.fc.hk then d.fcSend 0x01 (d.facStatusPayload r) else d)
/-- FC_STATE_FRAME_PERIOD (02 Table 02-9). -/
def execFcStateFramePeriod (r : FacReading) (s : State) : Host.Outcome State Fault Refusal :=
  onDev s (fun d => if d.fc.hk then d.canSend (d.canId 0x200) ([d.fc.st.code] ++ d.facStatusPayload r) else d)
/-- HST_STATUS_PERIOD (03 R81, 17 R383). -/
def execHstStatusPeriod (power : BitVec 16) (s : State) : Host.Outcome State Fault Refusal :=
  onDev s (fun d => if d.supAlive && d.fuseEnded then d.sendStatus power else d)
/-- COOLANT_EVENT (02 R58, R63). -/
def execCoolantEvent (r : FacReading) (s : State) : Host.Outcome State Fault Refusal :=
  onDev s (fun d => if d.fc.hk then (d.fcSend 0x04 (d.facCoolantPayload r)).canSend (d.canId 0x280) (d.facCoolantPayload r) else d)
/-- CAN_FAC_SHED_NOW (02 Table 02-9). -/
def execCanFacShedNow (f : CanFrame) (s : State) : Host.Outcome State Fault Refusal :=
  onDev s (fun d => if d.canTakes f 0x080 then d.fcSend 0x03 (f.data.take 12) else d)
/-- CAN_FAC_ISOLATE_WARN (02 Table 02-9). -/
def execCanFacIsolateWarn (f : CanFrame) (s : State) : Host.Outcome State Fault Refusal :=
  onDev s (fun d => if d.canTakes f (d.canId 0x0C0) then d.fcSend 0x05 (f.data.take 12) else d)
/-- CAN_FAC_POWER_CAP (02 Table 02-9, R44). -/
def execCanFacPowerCap (f : CanFrame) (s : State) : Host.Outcome State Fault Refusal :=
  onDev s (fun d => if d.canTakes f (d.canId 0x100) then
    ({ d with fc := { d.fc with rackCap := BitVec.ofNat 16 (fieldAt f.data 0 2) } }).sendCapIfMoved else d)
/-- CAN_FAC_IDENT_REQ (02 Table 02-9, R72). -/
def execCanFacIdentReq (f : CanFrame) (s : State) : Host.Outcome State Fault Refusal :=
  onDev s (fun d => if d.canTakes f (d.canId 0x140) then
    (({ d with fc := { d.fc with identWait := d.fc.identWait + 1 } }).fcSend 0x06 []) else d)
/-- INPUT_BELOW_44V (02 R44). -/
def execInputBelow44V (below : Bool) (s : State) : Host.Outcome State Fault Refusal :=
  onDev s (fun d => if d.fc.hk then
    (if below then { d with fc := { d.fc with below44 := true } }
     else ({ d with fc := { d.fc with below44 := false, derived := none } }).sendCapIfMoved) else d)
/-- DERIVED_CAP_TICK (02 R44): I_LIM x V_in, V_in in units of 10 mV, rounded down to a watt. -/
def execDerivedCapTick (vin : Nat) (s : State) : Host.Outcome State Fault Refusal :=
  onDev s (fun d => if d.fc.hk && d.fc.below44 then
    ({ d with fc := { d.fc with derived := some (iLim d.fuse.variant * vin / 100) } }).sendCapIfMoved else d)

/-- FAC_STATUS (02 R63, R71). -/
def execFacStatus (f : Frame) (s : State) : Host.Outcome State Fault Refusal := onDev s (fun d => d.toSup f)
/-- FAC_POWER_CAP (02 R66, R67). -/
def execFacPowerCap (f : Frame) (s : State) : Host.Outcome State Fault Refusal := onDev s (fun d => d.toSup f)
/-- FAC_SHED_NOW (02 R67). -/
def execFacShedNow (f : Frame) (s : State) : Host.Outcome State Fault Refusal := onDev s (fun d => d.toSup f)
/-- FAC_COOLANT (02 R69). -/
def execFacCoolant (f : Frame) (s : State) : Host.Outcome State Fault Refusal := onDev s (fun d => d.toSup f)
/-- FAC_ISOLATE_WARN (02 R68). -/
def execFacIsolateWarn (f : Frame) (s : State) : Host.Outcome State Fault Refusal := onDev s (fun d => d.toSup f)
/-- FAC_IDENT_REQ (02 R63). -/
def execFacIdentReq (f : Frame) (s : State) : Host.Outcome State Fault Refusal := onDev s (fun d => d.toSup f)
/-- FAC_ACK (02 R64). -/
def execFacAck (f : Frame) (s : State) : Host.Outcome State Fault Refusal := onDev s (fun d => d.toSup f)
/-- HST_STATUS (02 R72). -/
def execHstStatus (f : Frame) (s : State) : Host.Outcome State Fault Refusal := onDev s (fun d => d.toFc f)
/-- HST_STOP_RECORD (02 R72). -/
def execHstStopRecord (f : Frame) (s : State) : Host.Outcome State Fault Refusal := onDev s (fun d => d.toFc f)
/-- HST_TRIP_RECORD (02 R63). -/
def execHstTripRecord (f : Frame) (s : State) : Host.Outcome State Fault Refusal := onDev s (fun d => d.toFc f)
/-- HST_IDENT (02 R63, R72). -/
def execHstIdent (f : Frame) (s : State) : Host.Outcome State Fault Refusal := onDev s (fun d => d.toFc f)
/-- HST_POWER_REQ (02 R70). -/
def execHstPowerReq (f : Frame) (s : State) : Host.Outcome State Fault Refusal := onDev s (fun d => d.toFc f)
/-- HST_THERMAL (02 R63). -/
def execHstThermal (f : Frame) (s : State) : Host.Outcome State Fault Refusal := onDev s (fun d => d.toFc f)
/-- HST_ACK (02 R64). -/
def execHstAck (f : Frame) (s : State) : Host.Outcome State Fault Refusal := onDev s (fun d => d.toFc f)

/-- BARRIER_RETRANSMIT_TIMEOUT (02 R64). -/
def execBarrierRetransmitTimeout (side : Side) (seq : BitVec 8) (s : State) : Host.Outcome State Fault Refusal :=
  onDev s (fun d => d.retransmit side seq)
/-- BARRIER_LOST_TIMEOUT (02 R71). -/
def execBarrierLostTimeout (s : State) : Host.Outcome State Fault Refusal :=
  onDev s (fun d => if d.supAlive then ({ d with pwr := { d.pwr with lost := true } }).raisePwr 16 else d)
/-- HOST_SILENT_TIMEOUT (02 R72). -/
def execHostSilentTimeout (s : State) : Host.Outcome State Fault Refusal :=
  onDev s (fun d => if d.fc.hk && d.fc.st == .hostRunning then
    ({ d with fc := { d.fc with st := .hostSilent } }).serveRetained else d)
/-- IDENT_ANSWER_TIMEOUT (02 R72). -/
def execIdentAnswerTimeout (s : State) : Host.Outcome State Fault Refusal :=
  onDev s (fun d => if d.fc.hk && d.fc.identWait != 0 then
    let d := { d with fc := { d.fc with identWait := d.fc.identWait - 1 } }
    if d.fc.lastStatus.isNone then d.canSend (d.canId 0x240) [] else d.serveRetained
  else d)
/-- ISOLATE_HALT (02 R68): 20 ms remain. -/
def execIsolateHalt (s : State) : Host.Outcome State Fault Refusal :=
  onDev s (fun d => match d.pwr.isoUntil with
    | none => d
    | some t => if d.supAlive then
        let d := d.advTo (t - 20000000)
        { d with pwr := { d.pwr with isoHalt := true } }
      else d)
/-- PWR_REQ_GO (02 R70). -/
def execPwrReqGo (fn : Fn) (v : BitVec 32) (s : State) : Host.Outcome State Fault Refusal :=
  onDev s (fun d => d.hostReq? fn (fun d => if fn == .pf then d.wrPwrReq v.toNat else d))

end Sys2Proof.Machine
end

