-- ==== Sys2Proof/Machine/Power.lean ====
section
/-!
DEFINITION. Machine/Power.lean: the input comparators, the bus converter, the rails, powering down, TRIP, the voltage operating
points and the SMBus responder (spec/02_module_barrier.md R39-R54, spec/03_power_to_ready.md R74, R75, R88,
spec/17_thermal_escapement.md R380-R383).
-/
namespace Sys2Proof.Machine

/-- A command of the host side: nothing happens while it has no power (log 5). -/
def onUp (s : State) (f : Dev → Dev) : Host.Outcome State Fault Refusal := onDev s (fun d => if d.supAlive then f d else d)

/-! Rails. -/

/-- What survives the loss of the host-side rails: fuses, pins, the FC, the always-on domain, and the world outside. -/
def Dev.lasting (d : Dev) : Dev :=
  { fuse := d.fuse, pins := d.pins, fc := d.fc, rails := d.rails, mem := d.mem, out := d.out, free := d.free,
    thm := { trip := d.thm.trip, tripDom := d.thm.tripDom, tripCls := d.thm.tripCls, aon := d.thm.aon, aonAt := d.thm.aonAt } }

/-- The always-on domain loses its contents with AUX 3.3 V (17 R383). -/
def Dev.loseAux (d : Dev) : Dev :=
  { d with thm := { d.thm with trip := false, tripDom := 0, tripCls := 0, aon := [], aonAt := 0 },
           rails := { d.rails with smbReady := false } }

/-- Supplies valid (03 R74): every block starts at its reset values (21 R440), and memory holds open contents (log 7). -/
def Dev.suppliesValid (d : Dev) : Dev :=
  let x := d.lasting
  { x with free := x.free + 1, mem := x.mem.fill (mkDpa 0 0) (mkDpa 3 (2 ^ 44 - 1)) (.opened (x.free + 1)) }

/-- The host side loses all its rails (03 R88). -/
def Dev.powerDown (d : Dev) : Dev :=
  let x := d.lasting.loseAux
  { x with rails := { x.rails with pg := 0, offTenMs := false, latchedOff := false, tripHold := false } }

/-- The FC enters HOST_SILENT: what it has retained goes to the rack, once (02 R72). -/
def Dev.fcSilent (d : Dev) : Dev :=
  if d.fc.st == .hostSilent then d else ({ d with fc := { d.fc with st := .hostSilent } }).serveRetained

/-- The bus converter enabled: a host-side power-up begins, and the FC's receiver starts anew (02 R65, 03 R74). -/
def Dev.enableConverter (d : Dev) : Dev :=
  let x := d.fcSilent
  { x with rails := { x.rails with converter := true, pendingEnable := false, offTenMs := false }, fc := { x.fc with rxLast := none } }

/-- The bus converter wants to be enabled: at once where every power-good has been off for 10 ms, else then (03 R75). -/
def Dev.wantConverter (d : Dev) : Dev :=
  if d.rails.offTenMs then d.enableConverter
  else ({ d with rails := { d.rails with pendingEnable := true } }).fcSilent

/-- The bus converter disabled; the host side powers down. -/
def Dev.disableConverter (d : Dev) (st : FcState) : Dev :=
  let x := d.powerDown
  { x with rails := { x.rails with converter := false, pendingEnable := false }, fc := { x.fc with st := st } }

/-! Sideband outputs (02 Table 02-7). -/

/-- AUX 3.3 V is good (03 Table 03-1). -/
def Dev.auxGood (d : Dev) : Bool := 2 ≤ d.rails.pg && !d.rails.latchedOff

/-- Levels the module drives on its sideband pins. -/
structure OutPins where
  /-- CLKREQ# is held low: whenever AUX 3.3 V is good. -/
  clkreqLow : Bool
  /-- MODULE_PRESENT is tied to ground. -/
  presentLow : Bool
deriving DecidableEq, Repr

/-- The sideband outputs of a module (02 R52). -/
def Dev.outPins (d : Dev) : OutPins := { clkreqLow := d.auxGood, presentLow := true }

/-! The commands of the input and the rails. -/

/-- FC_HOUSEKEEPING_UP (02 R39, R41, R58, R65). -/
def execFcHousekeepingUp (s : State) : Host.Outcome State Fault Refusal :=
  onDev s (fun d => if d.fc.hk then d else { d with fc := { slot := d.pins.slot, st := .uvHold, uvHold := true } })
/-- FC_HOUSEKEEPING_DOWN (02 R72). -/
def execFcHousekeepingDown (s : State) : Host.Outcome State Fault Refusal :=
  onDev s (fun d =>
    let x := d.powerDown
    { x with rails := { x.rails with converter := false, pendingEnable := false },
             fc := { hk := false, slot := d.fc.slot, st := .uvHold, uvHold := true } })
/-- UV_RISING (02 R447). -/
def execUvRising (s : State) : Host.Outcome State Fault Refusal :=
  onDev s (fun d => if d.fc.hk && d.fc.uvHold then
    let x := { d with fc := { d.fc with uvHold := false } }
    if x.fc.ovHold then x else x.wantConverter
  else d)
/-- UV_FALLING (02 R40, R447). -/
def execUvFalling (s : State) : Host.Outcome State Fault Refusal :=
  onDev s (fun d => ({ d with fc := { d.fc with uvHold := true } }).disableConverter .uvHold)
/-- OV_RISING (02 R40, R447). -/
def execOvRising (s : State) : Host.Outcome State Fault Refusal :=
  onDev s (fun d => ({ d with fc := { d.fc with ovHold := true } }).disableConverter .ovHold)
/-- OV_FALLING (02 R40, R447). -/
def execOvFalling (s : State) : Host.Outcome State Fault Refusal :=
  onDev s (fun d => if d.fc.ovHold then
    let x := { d with fc := { d.fc with ovHold := false } }
    if x.fc.uvHold then { x with fc := { x.fc with st := .uvHold } } else x.wantConverter
  else d)
/-- CONVERTER_REENABLE_DELAY (03 R75). -/
def execConverterReenableDelay (s : State) : Host.Outcome State Fault Refusal :=
  onDev s (fun d => if d.rails.pg == 0 && !d.rails.converter then
    let x := { d with rails := { d.rails with offTenMs := true } }
    if x.rails.pendingEnable then x.enableConverter else x
  else d)
/-- RAIL_POWER_GOOD (03 R74): the next power-good of Table 03-1; the last one is supplies valid. -/
def execRailPowerGood (s : State) : Host.Outcome State Fault Refusal :=
  onDev s (fun d =>
    if d.rails.converter && d.rails.pg < 6 && !d.rails.latchedOff && !d.rails.tripHold then
      let x := { d with rails := { d.rails with pg := d.rails.pg + 1, offTenMs := false } }
      if x.rails.pg == 6 then x.suppliesValid else x
    else d)
/-- HOST_POWER_DOWN (03 R88). The bus converter stays enabled, so the rails may come up again at once; the spec does not say whether
it is disabled when the 12 V intermediate falls (DESIGN CHOICE, log 83). -/
def execHostPowerDown (s : State) : Host.Outcome State Fault Refusal := onDev s Dev.powerDown

/-- A trip of class c in domain n: every regulator but AUX 3.3 V is cut; the latch holds the first one (17 R382, R383). -/
def Dev.tripCut (d : Dev) (n c : Nat) : Dev :=
  if 2 ≤ d.rails.pg && !d.rails.latchedOff then
    let x := d.lasting
    let t := if x.thm.trip then x.thm
      else { x.thm with trip := true, tripDom := BitVec.ofNat 3 n, tripCls := BitVec.ofNat 2 c }
    { x with thm := t, rails := { x.rails with pg := 2, tripHold := true } }
  else d

/-- TRIP (17 R382, R383). -/
def execTrip (n : Fin 6) (cls : Fin 4) (s : State) : Host.Outcome State Fault Refusal := onDev s (fun d => d.tripCut n.val cls.val)
/-- TRIP_RELEASE (17 R383): the rails restart from step 3 of Table 03-1; DEDUCED in part: log 49. -/
def execTripRelease (s : State) : Host.Outcome State Fault Refusal :=
  onDev s (fun d => if d.rails.tripHold then { d with rails := { d.rails with tripHold := false } } else d)
/-- DOMAIN5_POWER_DOWN (17 R380): once the four fragments are acknowledged, or 10 ms have passed, the host side goes off and
stays off: the 12 V intermediate stays up, AUX 3.3 V does not. -/
def execDomain5PowerDown (waited : Bool) (s : State) : Host.Outcome State Fault Refusal :=
  onDev s (fun d =>
    if d.supAlive && (d.dom 5).stopping && (d.dom 5).srec.written && (waited || !d.sup.unacked.any (fun u => u.typ == 0x82)) then
      let x := d.lasting.loseAux
      { x with rails := { x.rails with pg := 1, latchedOff := true } }
    else d)

/-! Voltage operating points (02 R49, R50). -/

/-- The die of a site has left service: isolated, failed or stopped; its registers keep their values (21 R438); DEDUCED in part: log 20. -/
def Dev.dieOut (d : Dev) (n : Nat) : Bool := 4 ≤ (d.siteSt n).toNat || d.stopped n

/-- A VOP change of a site asked for: it begins at once, or when the changes before it have ended (12 decided case); DEDUCED in part: log 34. -/
def Dev.vopRequest (d : Dev) (n : Nat) (v : BitVec 3) (cmd : Option (QRef × BitVec 16)) : Dev :=
  let first := !d.pwr.vopQ.any (fun j => j.site == n)
  let j : VopJob := { site := n, vop := v, cmd := cmd, begun := first, before := tget d.pwr.rail n 4 }
  { d with pwr := { d.pwr with vop := tset d.pwr.vop n v, busy := putBit d.pwr.busy n true, vopQ := d.pwr.vopQ ++ [j] } }

/-- The sites a write of PWR_VOP changes: active compute stacks whose field differs. -/
def Dev.vopSites (d : Dev) (v : Nat) : List Nat :=
  (List.range 6).filter (fun n => d.csActive n && !d.dieOut n && (tget d.pwr.vop n 4).toNat != bf v (3 * n + 2) (3 * n))

/-- A write of PWR_VOP by the management function. -/
def Dev.wrPwrVop (d : Dev) (v : Nat) : Dev :=
  (d.vopSites v).foldl (fun d n => d.vopRequest n (BitVec.ofNat 3 (bf v (3 * n + 2) (3 * n))) none) d

/-- The change in progress on a site ends; the next one of that site begins. -/
def Dev.vopDone (d : Dev) (n : Nat) : Dev :=
  match d.pwr.vopQ.find? (fun j => j.site == n && j.begun) with
  | none => d
  | some j =>
    let rest := d.pwr.vopQ.eraseP (fun x => x.site == n && x.begun)
    let q := match rest.findIdx? (fun x => x.site == n) with
      | none => rest
      | some i => rest.modify i (fun x => { x with begun := true, before := j.vop })
    let d := { d with pwr := { d.pwr with
      rail := tset d.pwr.rail n j.vop, vopQ := q, busy := putBit d.pwr.busy n (q.any (fun x => x.site == n)) } }
    match j.cmd with
    | none => d
    | some c => match d.pkt? c.1 c.2 with
      | some p => if p.phase == .started then d.finish p.ord sOk j.before.toNat else d
      | none => d

/-- Every compute stack returns to VOP4 (03 R90). -/
def Dev.vopReset (d : Dev) : Dev := { d with pwr := { d.pwr with vop := [], rail := [], busy := 0, vopQ := [] } }

/-- PWR_VOP_WRITE (02 R50, Table 02-13). -/
def execPwrVopWrite (fn : Fn) (v : BitVec 32) (s : State) : Host.Outcome State Fault Refusal :=
  onDev s (fun d => d.hostReq? fn (fun d => if fn == .pf then d.wrPwrVop v.toNat else d))
/-- VOP_CHANGE_DONE (02 R50). -/
def execVopChangeDone (n : Fin 6) (s : State) : Host.Outcome State Fault Refusal := onUp s (fun d => d.vopDone n.val)

/-! SMBus (02 R53, R54). -/

/-- The responder's address. -/
def Dev.smbAddr (d : Dev) : Nat := 0x58 + d.pins.smbSel.toNat

/-- The status block (02 Table 02-8): fields the module cannot fill yet read zero; DEDUCED in part: log 18. -/
def Dev.smbBlock (d : Dev) : List Byte :=
  let id := d.supAlive && d.fuseEnded
  let stop := (List.range 6).any (fun n => (d.dom n).stopping || d.stopped n)
  let hot := (d.hottest 0) / 4
  (if id then leBytes 4 d.sysId ++ leBytes 2 (d.sysBuild % 2 ^ 16) else List.replicate 6 0)
    ++ [BitVec.ofNat 8 (b2n d.supAlive + 2 * b2n d.sys.ready + 4 * b2n d.thm.trip + 8 * b2n stop + 16 * b2n (d.supAlive && d.pwr.lost))]
    ++ [BitVec.ofNat 8 (if d.supAlive then hot.toNat else 0)]
    ++ leBytes 2 (if d.supAlive then d.pwr.capW.toNat else 0)
    ++ (if id then d.serial.take 6 else List.replicate 6 0)

/-- SMBUS_READY (02 R54): 20 ms after AUX 3.3 V is good. -/
def execSmbusReady (s : State) : Host.Outcome State Fault Refusal :=
  onDev s (fun d => if d.auxGood then { d with rails := { d.rails with smbReady := true } } else d)
/-- SMBUS_BLOCK_READ (02 R53, R54): byte count, block and PEC; the PEC covers the whole transaction. -/
def execSmbusBlockRead (addr : BitVec 7) (code : BitVec 8) (s : State) : Host.Outcome State Fault Refusal :=
  onDev s (fun d => if d.rails.smbReady && addr.toNat == d.smbAddr && code == 0 then
    let a := d.smbAddr
    let b := d.smbBlock
    let pec := crc8 ([BitVec.ofNat 8 (2 * a), 0, BitVec.ofNat 8 (2 * a + 1), 16] ++ b)
    d.emit (.smbus ([16] ++ b ++ [BitVec.ofNat 8 pec]))
  else d)
/-- SMBUS_WRITE (02 R53): the address and the command byte are acknowledged, nothing is written. -/
def execSmbusWrite (addr : BitVec 7) (_code : BitVec 8) (_data : List (BitVec 8)) (s : State) : Host.Outcome State Fault Refusal :=
  onDev s (fun d => if d.rails.smbReady && addr.toNat == d.smbAddr then d.emit (.smbusAck 2) else d)

end Sys2Proof.Machine
end

