-- ==== Sys2Proof/Machine/Links.lean ====
section
/-!
DEFINITION. Machine/Links.lean: Fidom links and the messages they carry (spec/16_fidom_links.md R344-R364): flits, credits and
replay, routes, failover, executed windows, remote requests and what their responses complete.
-/
namespace Sys2Proof.Machine

/-! Remote requests. -/

/-- A status of Table 16-3 as the source reports it. -/
def rspStatus (s : Nat) : BitVec 16 :=
  match s with
  | 0 => sOk
  | 1 => sCorrected
  | 2 => sUe
  | 3 => sPoison
  | 4 => sUnmapped
  | 5 => sPerm
  | 6 => sLinkFail
  | 7 => sNotReady
  | _ => sThermalStop

/-- A status met at the target as Table 16-3 reports it; DEDUCED in part: log 54. -/
def tgtStatus (s : BitVec 16) : Nat :=
  if s == sOk then 0 else if s == sCorrected then 1 else if s == sUe then 2 else if s == sPoison then 3
  else if s == sUnmapped then 4 else if s == sThermalStop then 8 else if s == sNotReady then 7 else 5

/-- A packet that waits for one response is done. -/
def Dev.answerPkt (d : Dev) (q : QRef) (tag : BitVec 16) (st : BitVec 16) (res : Nat) : Dev :=
  match d.pkt? q tag with
  | some p => if p.phase == .started then d.close p st res else d
  | none => d

/-- A SEND in progress. -/
def Dev.sendJob? (d : Dev) (q : QRef) (tag : BitVec 16) : Option SendJob := d.disp.sends.find? (fun j => j.q == q && j.tag == tag)
/-- A SEND changed, or ended. -/
def Dev.setSend (d : Dev) (j : SendJob) : Dev :=
  { d with disp := { d.disp with sends := d.disp.sends.map (fun x => if x.q == j.q && x.tag == j.tag then j else x) } }
/-- A SEND ended. -/
def Dev.endSend (d : Dev) (j : SendJob) (st : BitVec 16) : Dev :=
  ({ d with disp := { d.disp with sends := d.disp.sends.filter (fun x => !(x.q == j.q && x.tag == j.tag)) } }).answerPkt j.q j.tag st j.ok

/-- A remote request entered; it is sent when R354 and R356 allow. -/
def Dev.request (d : Dev) (r : Rid) : Dev :=
  let id := d.freeRid
  let key := 2 * r.node + b2n (r.vc == 2)
  let xs := tget d.lnk.xseq key 0 + 1
  let r := { r with
    rid := id, since := d.now, sent := false, xseq := if r.tracked then xs else 0, ord := ((d.pkt? r.q r.tag).map (·.ord)).getD r.ord }
  { d with lnk := { d.lnk with
      rids := d.lnk.rids ++ [r], nextRid := id + 1, gone := d.lnk.gone.filter (fun g => g.rid != id),
      xseq := if r.tracked then tset d.lnk.xseq key xs else d.lnk.xseq } }

/-- A RID is no longer outstanding (16 R360). -/
def Dev.dropRid (d : Dev) (rid : BitVec 16) (late : Bool) : Dev :=
  { d with lnk := { d.lnk with
      rids := d.lnk.rids.filter (fun r => r.rid != rid),
      gone := ({ rid := rid, late := late } :: d.lnk.gone.filter (fun g => g.rid != rid)).take 65536 } }

/-- The new value an atomic stores (12 Table 12-9). -/
def atomicNew (op w old operand cmp : Nat) : Nat :=
  let m := 2 ^ w
  match op with
  | 0 => (old + operand) % m
  | 1 => operand % m
  | 2 => if old == cmp % m then operand % m else old
  | 3 => old &&& (operand % m)
  | 4 => old ||| (operand % m)
  | 5 => max old (operand % m)
  | _ => min old (operand % m)

/-- The bytes that a remote write or atomic leaves at its target, once it has been answered with success (10 R220). -/
def Dev.ridStored (d : Dev) (r : Rid) (data : List Byte) : Dev :=
  let n := if r.op == 3 then (if bit r.arg.toNat 3 then 8 else 4) else r.len
  let b := if r.op == 3 then
      leBytes n (atomicNew (r.arg.toNat % 8) (8 * n) (leNat (data.take n)) (fieldAt r.data 0 8) (fieldAt r.data 8 8))
    else padTo n r.data
  if r.op == 1 then d else { d with mem := d.mem.putList (r.addr % 2 ^ 56) b }

/-- What a remote request comes to: its status, and the data of its response (16 R353, R362, R363). A SIGNAL with OP 0 goes as a
WR, whose response carries no old value: its RESULT is a free value (log 8). -/
def Dev.ridDone (d : Dev) (r : Rid) (st : BitVec 16) (data : List Byte) : Dev :=
  let d := if isExc st then d else d.ridStored r data
  match r.use with
  | .signal => d.draw.answerPkt r.q r.tag st (Config.freeValue d.free).toNat
  | .atomic => d.answerPkt r.q r.tag st (if isExc st then 0 else leNat (data.take 8))
  | .dmaRead n ch off =>
    if isExc st then d.dmaReadFail (chKey n ch) r.q r.tag off r.len st
    else
      let d := d.dmaPiece (chKey n ch) r.q r.tag off (padTo r.len data)
      if st == sCorrected then (if d.jobIs (chKey n ch) r.q r.tag then d.modJob (chKey n ch) (fun j => { j with corr := true }) else d) else d
  | .dmaWrite n ch off => d.dmaWritten (chKey n ch) r.ord r.dno off r.addr st
  | .segment =>
    match d.sendJob? r.q r.tag with
    | none => d
    | some j =>
      let failed := isExc j.fail
      let j := { j with
        left := j.left - 1, ok := if failed || isExc st then j.ok else j.ok + r.len,
        corr := j.corr || st == sCorrected, fail := if failed then j.fail else if isExc st then st else 0 }
      let drop := if isExc j.fail && !failed then d.lnk.rids.filter (fun x => x.use == .segment && x.q == r.q && x.tag == r.tag && !x.sent) else []
      let d := drop.foldl (fun d x => d.dropRid x.rid true) d
      let j := { j with left := j.left - drop.length }
      let d := d.setSend j
      if j.left = 0 then
        if isExc j.fail then d.endSend j j.fail
        else if j.notify != 0 then
          (d.setSend { j with left := 1 }).request
            { op := 3, node := dpaNode j.notify, vc := 0, tracked := true, owner := r.owner, q := r.q, tag := r.tag, addr := j.notify,
              len := 8, use := .notify, data := leBytes 8 1, arg := 8 }
        else d.endSend j (if j.corr then sCorrected else sOk)
      else d
  | .notify =>
    match d.sendJob? r.q r.tag with
    | none => d
    | some j => d.endSend j (if isExc st then st else if j.corr || st == sCorrected then sCorrected else sOk)

/-- A request may be sent now (16 R354, R356); DESIGN CHOICE in part: log 55. -/
def Dev.maySend (d : Dev) (r : Rid) : Bool :=
  !d.lnk.quiet && !(r.tracked && d.lnk.rids.any (fun x => x.tracked && x.node == r.node && x.vc == r.vc && x.xseq == r.xseq - 1024))

/-- The message of a request. -/
def Dev.reqMsg (d : Dev) (r : Rid) : Msg :=
  { op := r.op, tracked := r.tracked, hops := 8, owner := r.owner, atom := r.arg.toNat, rid := r.rid.toNat, xseq := r.xseq.toNat,
    dst := r.node, src := d.sys.node.toNat, len := r.len, session := d.lnk.session.toNat, addr := r.addr % 2 ^ 56, data := r.data }

/-- A message put on its way again or for the first time: with no link up in either mask a response is dropped, a request of
this node fails, and another node's request is answered with STATUS 6 (16 R358). -/
def Dev.dispatch (d : Dev) (m : Msg) (sends : Nat) (owner : Option Nat) : Nat → Dev
  | 0 => d.emit (.dropped m)
  | n + 1 =>
    match (if sends < 4 then d.route m.dst m.vc else none) with
    | some l => d.enqueue l { msg := m, vc := m.vc, left := chunks 16 m.encode, sends := sends, owner := owner }
    | none =>
      if m.op == 5 then d.emit (.dropped m)
      else if m.src == d.sys.node.toNat then
        match d.lnk.rids.find? (fun r => r.rid.toNat == m.rid) with
        | some r => (d.dropRid r.rid true).ridDone r sLinkFail []
        | none => d.emit (.dropped m)
      else d.dispatch { op := 5, tracked := m.tracked, rid := m.rid, xseq := m.xseq, dst := m.src, src := d.sys.node.toNat, owner := m.owner,
                        session := d.lnk.session.toNat, status := 6, addr := m.addr } 0 none n

/-- Requests sent that may be sent now, oldest first; one that fails at once may let another go. -/
def Dev.sendDue (d : Dev) : Nat → Dev
  | 0 => d
  | n + 1 =>
    match d.lnk.rids.find? (fun r => !r.sent && d.maySend r) with
    | none => d
    | some r =>
      let d := { d with lnk := { d.lnk with rids := d.lnk.rids.map (fun (x : Rid) => if x.rid == r.rid then { x with sent := true } else x) } }
      (d.dispatch (d.reqMsg r) 0 (some r.owner) 2).sendDue n

/-- Every request that may be sent is sent. -/
def Dev.sendAll (d : Dev) : Dev := d.sendDue (2 * d.lnk.rids.length + 2)

/-- A RID outstanding ends: freed, completed with a status, and requests that waited for its number go (16 R354, R359). -/
def Dev.endRid (d : Dev) (r : Rid) (late : Bool) (st : BitVec 16) (data : List Byte) : Dev :=
  ((d.dropRid r.rid late).ridDone r st data).sendAll

/-- Requests of some packets abandoned (11 Table 11-4 step 3). -/
def Dev.abandon (d : Dev) (hit : QRef → BitVec 16 → Bool) : Dev :=
  let l := d.lnk.rids.filter (fun r => hit r.q r.tag)
  let d := l.foldl (fun d r => d.dropRid r.rid true) d
  if l.isEmpty then d else d.sendAll

/-! Links going up and down (16 R345, R348, R358). -/

/-- Messages of a link that went down, put on other links: requests already sent carry DUP. -/
def Dev.failover (d : Dev) (l : List TxMsg) : Dev :=
  let d := l.foldl (fun d t =>
    let m := if t.sends != 0 && t.msg.op != 5 then { t.msg with dup := true } else t.msg
    d.dispatch m t.sends t.owner 2) d
  if l.isEmpty then d else d.raiseLnk 4

/-- A link goes down: four downs within 10 s hold it (16 R345). -/
def Dev.dropLink (d : Dev) (l : Nat) (st : BitVec 3) : Dev :=
  let x := d.link l
  let times := (d.now :: x.downTimes).filter (fun t => d.now < t + 10000000000)
  let held := st == 3 && 4 ≤ times.length
  let d := d.setLink l { x with
    st := if held then 4 else st, downs := satAdd x.downs 1, txSeq := 0, rxSeq := 0, nakd := false, replay := [], repTimes := [],
    downTimes := times, crReq := 512, crRsp := 1024, crStr := 2048, freed := (0, 0, 0), txq := [], rxu := [] }
  let d := d.raiseLnk (if held then 10 else 2)
  let d := if st == 5 then d.publishLive else d
  d.failover x.txq

/-- LINK_TRAINED (16 R345, 03 R79). -/
def Dev.linkUp (d : Dev) (l : Nat) (node : BitVec 8) (peer : BitVec 7) : Dev :=
  let x := d.link l
  if x.st == 1 || x.st == 3 || (x.st == 0 && d.sys.phase == 4 && d.linkExposed l && d.iodActive (linkSite l)) then
    (d.setLink l { x with
      st := 2, peerNode := node, peerLink := peer, txSeq := 0, rxSeq := 0, nakd := false, replay := [], repTimes := [],
      crReq := 512, crRsp := 1024, crStr := 2048, freed := (0, 0, 0), txq := [], rxu := [] }).raiseLnk 1
  else d

/-! Reception (16 R347). -/

/-- The ACK of a flit: flits up to it leave the replay buffer, and messages whose last unit they carried are done with. -/
def Link.acked (x : Link) (ack : BitVec 10) : Link :=
  match x.replay.findIdx? (fun f => f.seq == ack) with
  | none => x
  | some i =>
    let gone := (x.replay.take (i + 1)).map (·.seq)
    { x with
      replay := x.replay.drop (i + 1),
      txq := x.txq.filter (fun t => !(t.left.isEmpty && (match t.last with | some s => gone.contains s | none => true))) }

/-- The replay a NAK asks for; the ninth within 24 us takes the link down (16 R348). -/
def Dev.replayLink (d : Dev) (l : Nat) : Dev :=
  let x := d.link l
  if x.replay.isEmpty then d
  else
    let times := (d.now :: x.repTimes).filter (fun t => d.now < t + 24000)
    let d := d.setLink l { x with replays := satAdd x.replays 1, repTimes := times }
    if 9 ≤ times.length then d.dropLink l 3
    else x.replay.foldl (fun d f => (d.emit (.flit l f.bytes)).count none 3 (8 * l + 6) 128) d

/-- One unit that has arrived: with it, a message may be whole. -/
def Dev.rxUnit (d : Dev) (l vc : Nat) (u : List Byte) : Dev :=
  let x := d.link l
  let us := tget x.rxu vc [] ++ [u]
  let m := Msg.decode us.flatten
  if 2 ≤ us.length && m.nUnits ≤ us.length then
    let d := d.setLink l { x with rxu := tdel x.rxu vc }
    { d with lnk := { d.lnk with held := d.lnk.held ++ [{ id := d.lnk.nextHeld, msg := m, link := l }], nextHeld := d.lnk.nextHeld + 1 } }
  else d.setLink l { x with rxu := tset x.rxu vc us }

/-- A message leaves the receive buffers: their units are credit again, and its bytes are charged (18 R387). -/
def Dev.freeHeld (d : Dev) (h : Held) (owner : Option Nat) : Dev :=
  let d := d.count owner 3 (8 * h.link + (if owner.isSome then 3 + h.msg.vc else 7)) (16 * h.msg.nUnits)
  let d := { d with lnk := { d.lnk with held := d.lnk.held.filter (fun x => x.id != h.id) } }
  let x := d.link h.link
  let n := h.msg.nUnits
  if x.st == 2 then d.setLink h.link { x with freed :=
    if h.msg.vc == 0 then (x.freed.1 + n, x.freed.2.1, x.freed.2.2)
    else if h.msg.vc == 1 then (x.freed.1, x.freed.2.1 + n, x.freed.2.2)
    else (x.freed.1, x.freed.2.1, x.freed.2.2 + n) }
  else d

/-- An answering flit: whatever waits, else an empty one that carries ACK, NAK and credit. -/
def Dev.answerFlit (d : Dev) (l : Nat) (nak : Bool) : Dev :=
  let x := d.link l
  if x.st == 2 && x.replay.length < 512 then (d.sendFlit l nak).pump l 1024 else d

/-- FLIT_RECEIVE (16 R344, R347); DEDUCED in part: log 53. -/
def Dev.rxFlit (d : Dev) (l : Nat) (f : List Byte) (fec : FecEnv) : Dev :=
  let x := d.link l
  if x.st != 2 then d
  else
    let d := d.setLink l { x with
      fecC := if fec.corrected then satAdd x.fecC 1 else x.fecC, fecU := if fec.uncorr then satAdd x.fecU 1 else x.fecU }
    if fec.uncorr || f.length != 128 || fieldAt f 124 4 != crc32 (f.take 124) then
      ((d.setLink l { d.link l with nakd := true }).count none 3 (8 * l + 7) 128).answerFlit l true
    else
      let ack : BitVec 10 := BitVec.ofNat 10 (fieldAt f 2 2)
      let d := d.setLink l ((d.link l).acked ack)
      let d := if bit (fieldAt f 2 2) 15 then d.replayLink l else d
      let x := d.link l
      if x.st != 2 then d
      else if x.rxSeq.toNat != fieldAt f 0 2 % 1024 then
        let d := d.count none 3 (8 * l + 7) 128
        if x.nakd then d
        else if (x.rxSeq.toNat + 1024 - fieldAt f 0 2 % 1024) % 1024 ≤ 512 then d.answerFlit l false
        else (d.setLink l { x with nakd := true }).answerFlit l true
      else
        let c := fieldAt f 4 4
        let d := d.setLink l { x with
          rxSeq := x.rxSeq + 1, nakd := false, crReq := min 512 (x.crReq + bf c 9 0), crRsp := min 1024 (x.crRsp + bf c 19 10),
          crStr := min 2048 (x.crStr + bf c 29 20) }
        let d := d.count none 3 (8 * l + 7) 16
        let d := (List.range 7).foldl (fun d i =>
          let vc := bf (fieldAt f 8 2) (2 * i + 1) (2 * i)
          if vc == 3 then d.count none 3 (8 * l + 7) 16 else d.rxUnit l vc ((f.drop (12 + 16 * i)).take 16)) d
        d.answerFlit l false

/-! Execution at the target (16 R354-R357, R362). -/

/-- The response of a request. -/
def Dev.respond (d : Dev) (m : Msg) (owner : Option Nat) (status : Nat) (data : List Byte) : Dev :=
  d.dispatch { op := 5, tracked := m.tracked, rid := m.rid, xseq := m.xseq, dst := m.src, src := d.sys.node.toNat, owner := m.owner,
               atom := m.atom, len := data.length, session := d.lnk.session.toNat, status := status, addr := m.addr, data := data } 0 owner 2

/-- An atomic operation on a word of this module: one indivisible read and write (16 R362, 10 R232): status and old value. -/
def Dev.atomicAt (d : Dev) (acc : Acc) (a op : Nat) (wide : Bool) (operand cmp : Nat) : Dev × BitVec 16 × Nat :=
  let n := if wide then 8 else 4
  let r := d.readBytes acc a n
  if isExc r.st then (r.d, r.st, 0)
  else
    let old := leNat r.bytes
    let w := r.d.writeBytes acc a (leBytes n (atomicNew op (8 * n) old operand cmp))
    (w.d, thenSt r.st w.st, old)

/-- Site whose thermal domain holds a target. -/
def Dev.homeSite (d : Dev) (a : Nat) : Nat :=
  match dpaSpace a with
  | 0 => match d.interLoc (dpaOff a) with | some (h, _, _) => h / 2 | none => 9
  | _ => dpaSite a

/-- A request executed: status of Table 16-3, data of the response. -/
def Dev.execRemote (d : Dev) (e : Env) (o : Nat) (m : Msg) : Dev × Nat × List Byte :=
  let a := d.canon m.addr
  let acc : Acc := { owner := some o, env := e }
  let n := if m.op == 3 then (if bit m.atom 3 then 8 else 4) else m.len
  if !isLocal a || 3 < dpaSpace a || (m.op == 3 && 2 < dpaSpace a) || !d.owns o a (max n 1) (m.op != 1) then (d, 5, [])
  else if d.stopped (d.homeSite a) then (d, 8, [])
  else
    match m.op with
    | 1 =>
      let r := d.readBytes acc a m.len
      (r.d, tgtStatus r.st, if isExc r.st then [] else r.bytes)
    | 3 =>
      let x := d.atomicAt acc a (m.atom % 8) (bit m.atom 3) (fieldAt m.data 0 8) (fieldAt m.data 8 8)
      (x.1, tgtStatus x.2.1, if isExc x.2.1 then [] else leBytes 8 x.2.2)
    | _ =>
      let w := d.writeBytes acc a (padTo m.len m.data)
      (w.d, tgtStatus w.st, [])

/-- The first import entry that matches a request: its local owner (16 R357). -/
def Dev.importOf (d : Dev) (m : Msg) : Option Nat :=
  ((List.range 64).find? (fun i =>
    let v := (tget d.lnk.imp i 0).toNat
    bit v 0 && bf v 23 16 == m.src && bf v 4 1 == m.owner)).map (fun i => bf (tget d.lnk.imp i 0).toNat 8 5)

/-- The window of a source node and channel. -/
def Dev.win (d : Dev) (k : Nat) : XWin := tget d.lnk.wins k {}

/-- A request executed and its outcome recorded (16 R354). -/
def Dev.recordRemote (d : Dev) (e : Env) (o k : Nat) (m : Msg) : Dev :=
  let x := d.execRemote e o m
  let w := x.1.win k
  let d := { x.1 with lnk := { x.1.lnk with wins := tset x.1.lnk.wins k { w with
    done := tset w.done m.xseq (BitVec.ofNat 16 x.2.1, BitVec.ofNat 64 (leNat x.2.2)) } } }
  d.respond m (some o) x.2.1 x.2.2

/-- A tracked request against its executed window (16 R354). -/
def Dev.tracked (d : Dev) (e : Env) (o : Nat) (m : Msg) : Dev :=
  let k := 2 * m.src + b2n (m.vc == 2)
  let w := d.win k
  let dist := (w.top.toNat + 65536 - m.xseq) % 65536
  if !w.init || 32768 ≤ dist then
    let keep := w.done.filter (fun x => (m.xseq + 65536 - x.1) % 65536 < 1024)
    let nw : XWin := { top := BitVec.ofNat 16 m.xseq, init := true, done := if w.init then keep else [] }
    let d := { d with lnk := { d.lnk with wins := tset d.lnk.wins k nw } }
    d.recordRemote e o k m
  else if dist < 1024 then
    match tget? w.done m.xseq with
    | none => d.recordRemote e o k m
    | some (st, v) =>
      let d := { d with lnk := { d.lnk with dupReq := satAdd d.lnk.dupReq 1 } }
      d.respond m (some o) st.toNat (if m.op == 3 && st.toNat < 2 then leBytes 8 v.toNat else [])
  else ({ d with lnk := { d.lnk with dropped := satAdd d.lnk.dropped 1 } }).respond m (some o) 9 []

/-- A held message dropped (16 R350): a request is answered with STATUS 6. -/
def Dev.dropHeld (d : Dev) (h : Held) : Dev :=
  let d := (d.freeHeld h none).emit (.dropped h.msg)
  let d := { d with lnk := { d.lnk with dropped := satAdd d.lnk.dropped 1 } }
  if h.msg.op == 5 then d else d.respond h.msg none 6 []

/-- A held message for another node (16 R350). -/
def Dev.forward (d : Dev) (h : Held) : Dev :=
  if h.msg.hops = 0 then d.dropHeld h
  else (d.freeHeld h none).dispatch { h.msg with hops := h.msg.hops - 1 } 0 none 2

/-- The local owner a request of this node is accepted for: an import entry matches and R205 and R197 allow the target. -/
def Dev.accepts (d : Dev) (m : Msg) : Option Nat :=
  match d.importOf m with
  | none => none
  | some o =>
    let a := d.canon m.addr
    let n := if m.op == 3 then (if bit m.atom 3 then 8 else 4) else max m.len 1
    if isLocal a && dpaSpace a ≤ 3 && !(m.op == 3 && 2 < dpaSpace a) && d.owns o a n (m.op != 1) then some o else none

/-- A request of a new session empties both windows of its source (16 R356). -/
def Dev.meetSession (d : Dev) (m : Msg) : Dev :=
  if (tget? d.lnk.sess m.src) == some (BitVec.ofNat 16 m.session) then d
  else
    let d := { d with lnk := { d.lnk with
      sess := tset d.lnk.sess m.src (BitVec.ofNat 16 m.session), wins := tdel (tdel d.lnk.wins (2 * m.src)) (2 * m.src + 1) } }
    d.raiseLnk 16

/-- INBOUND_REQUEST (16 R354-R357). -/
def Dev.inRequest (d : Dev) (h : Held) (e : Env) : Dev :=
  let m := h.msg
  if m.dst != d.sys.node.toNat then d.forward h
  else if !d.sys.ready then (d.freeHeld h none).respond m none 7 []
  else
    let d := d.meetSession m
    match d.accepts m with
    | none => (d.freeHeld h none).respond m none 5 []
    | some o =>
      let d := (d.freeHeld h (some o)).countZf (some o) e.zf
      if m.tracked then d.tracked e o m
      else
        let x := d.execRemote e o m
        x.1.respond m (some o) x.2.1 x.2.2

/-- INBOUND_RESPONSE (16 R353, R360). -/
def Dev.inResponse (d : Dev) (h : Held) : Dev :=
  let m := h.msg
  if m.dst != d.sys.node.toNat then d.forward h
  else
    let r? := d.lnk.rids.find? (fun r => r.rid.toNat == m.rid && r.sent)
    let d := d.freeHeld h (r?.map (·.owner))
    match r? with
    | some r =>
      if m.status == 9 then { d with lnk := { d.lnk with late := satAdd d.lnk.late 1 } }
      else d.endRid r false (rspStatus m.status) m.data
    | none =>
      let late := (d.lnk.gone.find? (fun g => g.rid.toNat == m.rid)).map (·.late) |>.getD true
      if late then { d with lnk := { d.lnk with late := satAdd d.lnk.late 1 } }
      else { d with lnk := { d.lnk with dupRsp := satAdd d.lnk.dupRsp 1 } }

/-- A held message by its number. -/
def Dev.heldMsg (d : Dev) (id : Nat) : Option Held := d.lnk.held.find? (fun h => h.id == id)

/-- OP of a request (16 Table 16-2). -/
def isReqMsg (m : Msg) : Bool := decide (1 ≤ m.op) && decide (m.op ≤ 4)

/-- A request's turn: no earlier one of the same source node and VC waits (10 Table 10-2). -/
def Dev.msgTurn (d : Dev) (h : Held) : Bool :=
  !d.lnk.held.any (fun x => x.id < h.id && isReqMsg x.msg && x.msg.src == h.msg.src && x.msg.vc == h.msg.vc)

/-! The commands. -/

/-- LINK_TRAINED (16 R345). -/
def execLinkTrained (l : Fin 72) (node : BitVec 8) (peer : BitVec 7) (s : State) : Host.Outcome State Fault Refusal :=
  onUp s (fun d => d.linkUp l.val node peer)
/-- LINK_DOWN (16 R348, R358). -/
def execLinkDown (l : Fin 72) (s : State) : Host.Outcome State Fault Refusal :=
  onUp s (fun d => if (d.link l.val).st == 2 then d.dropLink l.val 3 else d)
/-- LINK_ACK_TIMEOUT (16 R348): 24 us with unacknowledged flits and no advance of ACK. -/
def execLinkAckTimeout (l : Fin 72) (s : State) : Host.Outcome State Fault Refusal :=
  onUp s (fun d => if (d.link l.val).st == 2 && !(d.link l.val).replay.isEmpty then d.dropLink l.val 3 else d)
/-- LINK_HOLD_EXPIRY (16 R345). -/
def execLinkHoldExpiry (l : Fin 72) (s : State) : Host.Outcome State Fault Refusal :=
  onUp s (fun d => if (d.link l.val).st == 4 then
    let d := d.advTo (((d.link l.val).downTimes.headD d.now) + 10000000000)
    d.setLink l.val { d.link l.val with st := 1 }
  else d)
/-- FLIT_RECEIVE (16 R347). -/
def execFlitReceive (l : Fin 72) (f : List (BitVec 8)) (fec : FecEnv) (s : State) : Host.Outcome State Fault Refusal :=
  onUp s (fun d => d.rxFlit l.val f fec)
/-- INBOUND_REQUEST (16 R357). -/
def execInboundRequest (id : Nat) (e : Env) (s : State) : Host.Outcome State Fault Refusal :=
  onUp s (fun d =>
    let d := d.applyEnv e
    match d.heldMsg id with
    | some h =>
      if h.msg.op == 5 then d
      else if !isReqMsg h.msg then d.freeHeld h none
      else if d.msgTurn h then d.inRequest h e else d
    | none => d)
/-- INBOUND_RESPONSE (16 R353). -/
def execInboundResponse (id : Nat) (e : Env) (s : State) : Host.Outcome State Fault Refusal :=
  onUp s (fun d =>
    let d := d.applyEnv e
    match d.heldMsg id with
    | some h => if h.msg.op == 5 then d.inResponse h else d
    | none => d)
/-- MESSAGE_HOLD_EXPIRY (16 R350). -/
def execMessageHoldExpiry (id : Nat) (s : State) : Host.Outcome State Fault Refusal :=
  onUp s (fun d => match d.heldMsg id with | some h => d.dropHeld h | none => d)
/-- TRANSACTION_TIMEOUT (16 R359). -/
def execTransactionTimeout (rid : BitVec 16) (e : Env) (s : State) : Host.Outcome State Fault Refusal :=
  onUp s (fun d =>
    let d := d.applyEnv e
    match d.lnk.rids.find? (fun r => r.rid == rid && r.sent) with
    | some r => d.endRid r true sTimeout []
    | none => d)
/-- SESSION_QUIET_END (16 R356): 10 ms after SYS_READY, remote requests may be sent. -/
def execSessionQuietEnd (s : State) : Host.Outcome State Fault Refusal :=
  onUp s (fun d => if d.sys.ready then ({ d with lnk := { d.lnk with quiet := false } }).sendAll else d)

end Sys2Proof.Machine
end

