-- ==== Sys2Proof/Machine/Partner.lean ====
section
/-!
DEFINITION. Machine/Partner.lean: messages to and from the partner die (spec/08_die_fabric.md R191-R194, R448).
-/
namespace Sys2Proof.Machine

/-- The CRC of a message holds. -/
def prtCrcOk (m : List Byte) : Bool :=
  64 ≤ m.length && fieldAt m 60 4 == crc32c (m.take 60 ++ leBytes 4 0 ++ m.drop 64)

/-- A request entered; it is sent when fewer than MAX_OUT are outstanding. -/
def Dev.prtAsk (d : Dev) (r : PrtReq) : Dev := { d with zf := { d.zf with reqs := d.zf.reqs ++ [r] } }

/-- Requests sent while TAGs are free. -/
def Dev.prtPump (d : Dev) : Nat → Dev
  | 0 => d
  | n + 1 =>
    match d.zf.reqs.findIdx? (fun r => r.ptag.isNone && !r.dead), d.prtTag with
    | some i, some t =>
      match d.zf.reqs[i]? with
      | none => d
      | some r =>
        let reqs := (d.zf.reqs.set i { r with ptag := some t, data := [] }).filter (fun x => !(x.dead && x.ptag == some t))
        let d := { d with zf := { d.zf with reqs := reqs } }
        (d.emit (.partner (prtMsg (if r.wr then 2 else 1) (b2n (r.len == 256)) 0 t r.addr r.data))).prtPump n
    | _, _ => d

/-- Reads of a piece of a DMA transfer: n bytes at window offset a, at offset off of the transfer. -/
def Dev.prtRead (d : Dev) (cx ch : Nat) (j : DmaJob) (a off n : Nat) : Dev :=
  let l := prtSplit d.zf.prtMaxLen (n / 64 + 2) a (a + n)
  let d := l.foldl (fun d m =>
    let lo := max m.1 a
    let hi := min (m.1 + m.2) (a + n)
    d.prtAsk { addr := m.1, len := m.2, cplx := cx, ch := ch, q := j.q, tag := j.tag, ord := j.ord, dno := j.doneD, off := off + (lo - a),
               take := hi - lo, skip := lo - m.1 }) d
  d.prtPump d.zf.reqs.length

/-- Writes of a piece of a DMA transfer; bytes of a slot outside the piece keep what the window held (log 44). -/
def Dev.prtWrite (d : Dev) (cx ch : Nat) (j : DmaJob) (a off : Nat) (b : List Byte) : Dev × Nat :=
  let l := prtSplit d.zf.prtMaxLen (b.length / 64 + 2) a (a + b.length)
  let base := mkDpa 14 0
  let d := { d with mem := d.mem.putList (base + a) b }
  let d := l.foldl (fun d m =>
    let lo := max m.1 a
    let hi := min (m.1 + m.2) (a + b.length)
    d.prtAsk { addr := m.1, len := m.2, wr := true, cplx := cx, ch := ch, q := j.q, tag := j.tag, ord := j.ord, dno := j.doneD,
               off := off + (lo - a), take := hi - lo, skip := lo - m.1, data := d.mem.bytes (base + m.1) m.2 }) d
  (d.prtPump d.zf.reqs.length, l.length)

/-- A partner request ends; one that a unit made for itself was answered with the unit's command. -/
def Dev.prtEnd (d : Dev) (r : PrtReq) (st : BitVec 16) (data : List Byte) : Dev :=
  let k := chKey r.cplx r.ch
  if r.sync then d
  else if r.wr then d.dmaWritten k r.ord r.dno r.off (mkDpa 14 (r.addr + r.skip)) st
  else if isExc st then d.dmaReadFail k r.q r.tag r.off r.take st
  else d.dmaPiece k r.q r.tag r.off (padTo r.take ((data.drop r.skip).take r.take))

/-- PRT_ERR counts. -/
def Dev.prtErrCrc (d : Dev) : Dev := { d with zf := { d.zf with errCrc := satAdd d.zf.errCrc 1 } }
/-- LATE_RSP counted. -/
def Dev.prtErrLate (d : Dev) : Dev := { d with zf := { d.zf with errLate := satAdd d.zf.errLate 1 } }
/-- REFUSED_IN counted. -/
def Dev.prtErrIn (d : Dev) : Dev := { d with zf := { d.zf with errRefused := satAdd d.zf.errRefused 1 } }

/-- A response from the partner (08 R192). -/
def Dev.prtResponse (d : Dev) (m : List Byte) : Dev :=
  if !d.partnerReady then d
  else if !prtCrcOk m then d.prtErrCrc
  else if fieldAt m 0 1 != 3 then d
  else
    let t := fieldAt m 4 2
    match d.zf.reqs.find? (fun r => r.ptag == some t) with
    | none => d.prtErrLate
    | some r =>
      let d := { d with zf := { d.zf with reqs := d.zf.reqs.filter (fun x => x.ptag != some t) } }
      if r.dead then (d.prtErrLate).prtPump d.zf.reqs.length
      else
        let st := match fieldAt m 2 1 with | 0 => sOk | 1 => sPoison | _ => sUe
        (d.prtEnd r st (m.drop 64)).prtPump d.zf.reqs.length

/-- No response within 50 us (08 R192). -/
def Dev.prtTimeout (d : Dev) (t : Nat) : Dev :=
  match d.zf.reqs.find? (fun r => r.ptag == some t && !r.dead) with
  | none => d
  | some r =>
    let d := { d with zf := { d.zf with
      reqs := d.zf.reqs.map (fun (x : PrtReq) => if x.ptag == some t then { x with dead := true } else x), errTimeout := satAdd d.zf.errTimeout 1 } }
    (d.prtEnd r sTimeout []).prtPump d.zf.reqs.length

/-- A range touches the page region of an enabled pool (14 R295). -/
def Dev.inKvPages (d : Dev) (a n : Nat) : Bool :=
  d.kpm.pools.any (fun e => e.2.enable && overlaps a n (d.canon e.2.base.toNat) (e.2.units * e.2.unitBytes))

/-- A request from the partner (08 R193): inside the aperture, in space 0x0 or 0x1 and clear of KV pages, it is executed;
otherwise it is answered with ERROR. -/
def Dev.prtInbound (d : Dev) (m : List Byte) (e : Env) : Dev :=
  if !d.partnerReady then d
  else if !prtCrcOk m then d.prtErrCrc
  else
    let op := fieldAt m 0 1
    let n := if fieldAt m 1 1 == 1 then 256 else 64
    let t := fieldAt m 4 2
    let off := fieldAt m 8 6
    let a := d.canon d.zf.inBase.toNat + off
    let size := d.zf.inSize.toNat * 2 ^ 20
    if op != 1 && op != 2 then d
    else if !d.zf.prtInit || size < off + n || !isLocal a || 1 < dpaSpace a || dpaSpace (a + n - 1) != dpaSpace a
        || d.inKvPages a n then
      (d.prtErrIn).emit (.partner (prtMsg 3 (b2n (n == 256)) 2 t 0 []))
    else if op == 1 then
      let r := d.readBytes { env := e } a n
      let st := if isExc r.st then (if r.st == sPoison then 1 else 2) else 0
      r.d.emit (.partner (prtMsg 3 (b2n (n == 256)) st t 0 (if st == 0 then r.bytes else [])))
    else
      let w := d.writeBytes { env := e } a (padTo n (m.drop 64))
      w.d.emit (.partner (prtMsg 3 (b2n (n == 256)) (if isExc w.st then 2 else 0) t 0 []))

/-- The partner is lost at run time (08 R194, 17 R448): messages in flight end with st, S4 becomes PARTNER_FAILED with CAUSE 7,
and the class is broken by cause PARTNER. -/
def Dev.partnerLost (d : Dev) (st : BitVec 16) : Dev :=
  if d.siteSt 4 != 3 then d
  else
    let l := d.zf.reqs.filter (fun r => !r.dead)
    let d := { d with
      sys := { d.sys with site := tset d.sys.site 4 4 },
      zf := { d.zf with reqs := [], prtSt := 3, prtCause := 7 } }
    let d := l.foldl (fun d r => d.prtEnd r st []) d
    d.breakClass 2

/-! The commands. -/

/-- PARTNER_RESPONSE (08 R192). -/
def execPartnerResponse (m : List (BitVec 8)) (e : Env) (s : State) : Host.Outcome State Fault Refusal :=
  onUp s (fun d => (d.applyEnv e).prtResponse m)
/-- PARTNER_RESPONSE_TIMEOUT (08 R192). -/
def execPartnerResponseTimeout (ptag : Nat) (e : Env) (s : State) : Host.Outcome State Fault Refusal :=
  onUp s (fun d => (d.applyEnv e).prtTimeout ptag)
/-- PARTNER_INBOUND_REQUEST (08 R193). -/
def execPartnerInboundRequest (m : List (BitVec 8)) (e : Env) (s : State) : Host.Outcome State Fault Refusal :=
  onUp s (fun d => (d.meet e none).prtInbound m e)
/-- PARTNER_LINK_LOSS (08 R194). -/
def execPartnerLinkLoss (e : Env) (s : State) : Host.Outcome State Fault Refusal :=
  onUp s (fun d => (d.applyEnv e).partnerLost sLinkFail)

end Sys2Proof.Machine
end

