-- ==== Sys2Proof/Machine/Dma.lean ====
section
/-!
DEFINITION. Machine/Dma.lean: the DMA engines (spec/13_dma.md R278-R293): packets on channels, descriptors, blocks read and
written in turn, check values, write-back and chains.
-/
namespace Sys2Proof.Machine

/-- A complex takes packets: fitted, active and not fenced (13 R278, 03 R85). -/
def Dev.cplxOk (d : Dev) (n : Nat) : Bool := let x : DmaCx := tget d.dma n {}; x.present && !x.fenced && !d.dieOut (n / 2)

/-- DMA_ERR counts the end of a descriptor (13 Table 13-5). -/
def Dev.countDma (d : Dev) (n : Nat) (st : BitVec 16) : Dev :=
  if st == sCheck then { d with dma := tmod d.dma n {} (fun x => { x with mismatch := satAdd x.mismatch 1 }) }
  else if isExc st then { d with dma := tmod d.dma n {} (fun x => { x with failed := satAdd x.failed 1 }) }
  else d

/-- The job of a packet on its channel. -/
def dmaJobOf (p : Pkt) : DmaJob :=
  { q := p.q, tag := p.tag, ord := p.ord, desc := ((leafDpa p.leaves (p.f 1 47 0)).map (·.1)).getD 0, chain := p.opc == 0x41,
    maxD := if p.opc == 0x41 then p.f 3 15 0 else 1 }

/-- A channel with no packet takes the next one that waits for it. -/
def Dev.nextJob (d : Dev) (n ch : Nat) : Dev :=
  let k := chKey n ch
  let c := d.chan k
  match c.job, c.waiting with
  | none, (q, tag) :: r =>
    match d.pkt? q tag with
    | some p => d.setChan k { c with job := some (dmaJobOf p), waiting := r, st := 1 }
    | none => d.setChan k { c with waiting := r }
  | _, _ => d

/-- Packets in the order in which they were taken (13 R280). -/
def Dev.byOrd (d : Dev) (l : List (QRef × BitVec 16)) : List (QRef × BitVec 16) :=
  let ord := fun (x : QRef × BitVec 16) => match d.pkt? x.1 x.2 with | some p => p.ord | none => 0
  sortBy (fun a b => ord a ≤ ord b) l

/-- A DMA packet has started: it takes its channel, or waits for it (13 R278-R280). -/
def Dev.dmaBegin (d : Dev) (p : Pkt) : Dev :=
  let ch := p.f 2 3 0
  let n := p.f 2 11 8
  if 12 ≤ n || !d.cplxOk n then d.close p sBadParam 0
  else if p.owner != 8 && ch / 2 != p.owner then d.close p sPerm 0
  else
    let k := chKey n ch
    let c := d.chan k
    if c.job.isSome && (match c.job with | some j => j.q == p.q && j.tag == p.tag | none => false) || c.waiting.contains (p.q, p.tag) then d
    else (d.setChan k { c with waiting := d.byOrd (c.waiting ++ [(p.q, p.tag)]) }).nextJob n ch

/-- Owner of the packet a channel carries. -/
def DmaJob.owner (j : DmaJob) : Nat := qOwner j.q

/-- A packet leaves its channel with its status and RESULT (13 R291). -/
def Dev.endJob (d : Dev) (n ch : Nat) (st : BitVec 16) (res : Nat) : Dev :=
  let k := chKey n ch
  match (d.chan k).job with
  | none => d
  | some j =>
    let d := d.setChan k { d.chan k with job := none, st := 0 }
    let d := match d.pkt? j.q j.tag with
      | some p =>
        let trig := if isExc st then [] else d.triggered p.owner j.pend
        (d.finish p.ord st res).modPkt p.ord (fun x => { x with wrote := j.pend, trig := trig })
      | none => d
    d.nextJob n ch

/-- The access of a channel for its packet. -/
def DmaJob.acc (j : DmaJob) (n : Nat) (e : Env) : Acc :=
  { owner := some j.owner, site := some (n / 2), ord := some j.ord, q := some j.q, env := e }

/-- A descriptor that moved nothing ends its packet (13 R286, R291). -/
def Dev.refuseDesc (d : Dev) (n ch : Nat) (j : DmaJob) (st : BitVec 16) (res : Nat) : Dev :=
  (d.countDma n st).endJob n ch st (if isExc st then res else j.moved)

/-- The status word of a descriptor written with OWN = 1 and then with OWN = 0 (13 R289). -/
def Dev.writeBack (d : Dev) (acc : Acc) (j : DmaJob) (st : BitVec 16) (crcOk : Bool) (crc : Nat) : Dev :=
  let v := st.toNat + (if crcOk then 2 ^ 16 * crc + 2 ^ 48 else 0) + 2 ^ 49 * b2n (isExc st && j.failDst)
  ((d.writeBytes acc (j.desc + 56) (leBytes 8 (v + 2 ^ 63))).d.writeBytes acc (j.desc + 56) (leBytes 8 v)).d

/-- A descriptor is read once, and starts or is refused (13 R283-R286). One whose OWN is clear is not the engine's to write
(DEDUCED, log 57). -/
def Dev.startDesc (d : Dev) (e : Env) (n ch : Nat) : Dev :=
  let k := chKey n ch
  match (d.chan k).job with
  | none => d
  | some j =>
    if j.active then d
    else if j.aborting then d.endJob n ch j.status j.dst
    else
      let a := d.canon j.desc
      let sp := dpaSpace a
      if a % 64 != 0 || !isLocal a || !(sp == 0 || sp == 1 || sp == 12) then d.refuseDesc n ch j sBadParam j.desc
      else if !d.owns j.owner a 64 true then d.refuseDesc n ch j sPerm j.desc
      else
        let r := d.readBytes (j.acc n e) a 64
        if isExc r.st then r.d.refuseDesc n ch j r.st r.fail
        else
          let w := fun i => fieldAt r.bytes (8 * i) 8
          if !bit (w 7) 63 then r.d.refuseDesc n ch j sBadParam j.desc
          else
            let src := bf (w 0) 55 0
            let dst := bf (w 1) 55 0
            let b := bf (w 2) 31 0
            let s := r.d.canon src
            let t := r.d.canon dst
            let bad := bf (w 0) 63 56 != 0 || bf (w 1) 63 56 != 0 || bf (w 2) 63 37 != 0 || bf (w 3) 63 56 != 0 || bf (w 4) 63 32 != 0
              || w 6 != 0 || w 7 != 2 ^ 63 || b == 0 || (bit (w 2) 36 && !bit (w 2) 35) || dpaSpace s == 15 || dpaSpace t == 15
              || (overlaps s b t b && s < t)
            let j := { j with src := src, dst := dst }
            if bad then (r.d.writeBack (j.acc n e) j sBadParam false 0).refuseDesc n ch j sBadParam j.desc
            else r.d.setChan k { r.d.chan k with st := 1, job := some { j with
              active := true, src := src, dst := dst, bytes := b, fence := bit (w 2) 32, crcGen := bit (w 2) 33, crcApp := bit (w 2) 34,
              crcChk := bit (w 2) 35, fromSrc := bit (w 2) 36, next := bf (w 3) 55 0, expect := BitVec.ofNat 32 (bf (w 4) 31 0),
              rd := 0, wr := 0, crc := 0xFFFFFFFF#32, blocks := [], status := 0, failAt := 0, failDst := false,
              corr := r.st == sCorrected, corrAny := j.corrAny || j.corr, stop := false,
              outst := 0, bad := none, tail := false, pend := j.pend } }

/-! Blocks (13 R281, R282, R284, R292). -/

/-- Buffer blocks a channel holds. -/
def Dev.heldBlocks (d : Dev) (k : Nat) : Nat := match (d.chan k).job with | some j => j.blocks.length | none => 0

/-- A buffer block is free for a channel: two are guaranteed to every active channel. -/
def Dev.blockFree (d : Dev) (n ch : Nat) : Bool :=
  let mine := d.heldBlocks (chKey n ch)
  let others := (List.range 16).filter (fun c => c != ch && (d.chan (chKey n c)).job.isSome)
  mine < 2 || mine + (others.map (fun c => max 2 (d.heldBlocks (chKey n c)))).foldl (· + ·) 0 < 64

/-- Source and destination of a job's descriptor overlap. -/
def Dev.selfOverlap (d : Dev) (j : DmaJob) : Bool := overlaps (d.canon j.src) j.bytes (d.canon j.dst) j.bytes

/-- A channel's next block may be read. -/
def Dev.mayRead (d : Dev) (n ch : Nat) : Bool :=
  match (d.chan (chKey n ch)).job with
  | none => false
  | some j => j.active && !j.stop && j.rd < j.bytes && d.blockFree n ch && d.cplxOk n &&
      (!d.selfOverlap j || (j.blocks.isEmpty && j.outst == 0 && !d.kpm.held.any (fun h => h.ord == some j.ord)))

/-- It is the channel's turn: no other channel that may read comes first in the rotation. -/
def Dev.myTurn (d : Dev) (n ch : Nat) : Bool :=
  let t := (tget d.dma n {}).turn
  ((List.range 16).map (fun i => (t + 1 + i) % 16)).find? (d.mayRead n) == some ch

/-- Words of a source read in order until one fails; the owner's right is checked at each (13 R283). -/
def readUntil (o : Nat) (acc : Acc) : Nat → Nat → Nat → RdR → RdR
  | 0, _, _, x => x
  | f + 1, a, n, x =>
    if n = 0 || isExc x.st then x
    else
      let m := min n (32 - a % 32)
      if !x.d.owns o a m false then { x with st := sPerm, fail := a }
      else
        let r := x.d.readBytes acc a m
        if isExc r.st then { x with d := r.d, st := r.st, fail := a }
        else readUntil o acc f (a + m) (n - m) { d := r.d, bytes := x.bytes ++ r.bytes, st := thenSt x.st r.st }

/-- Words of a destination written in order until one fails. -/
def writeUntil (o : Nat) (acc : Acc) : List (Nat × Nat × List Byte) → WrR → WrR
  | [], x => x
  | p :: l, x =>
    if isExc x.st then x
    else if !x.d.owns o (p.1 + p.2.1) p.2.2.length true then { x with st := sPerm, fail := p.1 + p.2.1 }
    else
      let r := x.d.writeBytes acc (p.1 + p.2.1) p.2.2
      writeUntil o acc l { d := r.d, st := thenSt x.st r.st, fail := if isExc r.st then p.1 + p.2.1 else x.fail }

/-- Remote reads of a block: one message for each 4 KiB of the target that it touches (16 R352). -/
def Dev.dmaAskRemote (d : Dev) (n ch : Nat) (j : DmaJob) (a off m : Nat) : Dev :=
  let cut := min m (4096 - a % 4096)
  let ps := if cut < m then [(a, off, cut), (a + cut, off + cut, m - cut)] else [(a, off, m)]
  (ps.foldl (fun d p => d.request {
    op := 1, node := dpaNode a, owner := j.owner, q := j.q, tag := j.tag, addr := p.1, len := p.2.2, use := .dmaRead n ch p.2.1 }) d).sendAll

/-- One turn of the read engine: a whole block for one channel (13 R281), then a pause while the domain's level is not 0 (R282).
The pause ends with the engine's next turn (DESIGN CHOICE, log 93). -/
def Dev.readBlock (d : Dev) (e : Env) (n ch : Nat) : Dev :=
  let k := chKey n ch
  if d.halt (n / 2) || !(d.mayRead n ch && d.myTurn n ch) then d
  else
    match (d.chan k).job with
    | none => d
    | some j =>
      let d := { d with dma := tmod d.dma n {} (fun (x : DmaCx) => { x with turn := ch, pause := d.level (n / 2) }) }
      let m := min (j.bytes - j.rd) (4096 - (j.dst + j.rd) % 4096)
      let a := d.canon (j.src + j.rd)
      let b : DmaBlk := { off := j.rd, want := m, reqd := true }
      let d := d.setChan k { d.chan k with st := 1, job := some { j with rd := j.rd + m, blocks := j.blocks ++ [b] } }
      if !isLocal a then
        if !d.owns j.owner a m false || 3 < dpaSpace a then d.modJob k (fun j => j.failSrc b.off sPerm)
        else if d.sys.node.toNat == 0xFF then d.modJob k (fun j => j.failSrc b.off sUnmapped)
        else d.dmaAskRemote n ch j a b.off m
      else
        match d.locate a with
        | .partner off =>
          if !d.owns j.owner a m false then d.modJob k (fun j => j.failSrc b.off sPerm)
          else
            let fit := min m (d.zf.prtWindow.toNat * 2 ^ 20 - off)
            let d := if fit < m then d.modJob k (fun j => j.failSrc (b.off + fit) sUnmapped) else d
            d.prtRead n ch j off b.off fit
        | _ =>
          let r := readUntil j.owner (j.acc n e) (m / 32 + 2) a m { d := d }
          let d := r.d.dmaPiece k j.q j.tag b.off r.bytes
          let d := d.modJob k (fun j => { j with corr := j.corr || r.st == sCorrected })
          if isExc r.st then d.dmaReadFail k j.q j.tag (b.off + r.bytes.length) (min (m - r.bytes.length) (32 - r.fail % 32)) r.st else d

/-- The write engine writes a channel's first block once it is full (13 R281). -/
def Dev.writeBlock (d : Dev) (e : Env) (n ch : Nat) : Dev :=
  let k := chKey n ch
  match (d.chan k).job with
  | none => d
  | some (j : DmaJob) =>
    match j.blocks with
    | [] => d
    | b :: rest =>
      if !j.active || !b.full then d
      else
        let a := d.canon (j.dst + b.off)
        let data := b.data.take b.want
        let useCrc := j.crcGen || j.crcApp || j.crcChk
        let d := d.modJob k (fun j => { j with
          blocks := rest, wr := b.off + b.want, pend := if b.want = 0 then j.pend else j.pend ++ [(a, b.want)],
          crc := if useCrc then BitVec.ofNat 32 (crc32cReg j.crc.toNat data) else j.crc })
        if b.want = 0 then d
        else if !isLocal a then
          if !d.owns j.owner a b.want true || 3 < dpaSpace a then d.modJob k (fun j => j.failAtDst (j.dst + b.off) sPerm)
          else if d.sys.node.toNat == 0xFF then d.modJob k (fun j => j.failAtDst (j.dst + b.off) sUnmapped)
          else ((d.modJob k (fun j => { j with outst := j.outst + 1 })).request {
            op := 2, node := dpaNode a, owner := j.owner, q := j.q, tag := j.tag, addr := a, len := b.want, use := .dmaWrite n ch b.off, data := data,
            dno := j.doneD }).sendAll
        else
          match d.locate a with
          | .partner off =>
            let fit := min b.want (d.zf.prtWindow.toNat * 2 ^ 20 - off)
            if !d.owns j.owner a b.want true then d.modJob k (fun j => j.failAtDst (j.dst + b.off) sPerm)
            else if !d.zf.prtWrite then d.modJob k (fun j => j.failAtDst (j.dst + b.off) sUnmapped)
            else
              let x := d.prtWrite n ch j off b.off (data.take fit)
              let d := x.1.modJob k (fun j => { j with outst := j.outst + x.2 })
              if fit < b.want then d.modJob k (fun j => j.failAtDst (j.dst + b.off + fit) sUnmapped) else d
          | _ =>
            let w := writeUntil j.owner (j.acc n e) (cutWords (b.want / 32 + 2) a data) { d := d }
            let d := w.d.modJob k (fun j => { j with corr := j.corr || w.st == sCorrected })
            if isExc w.st then d.modJob k (fun j => j.failAtDst (j.dst + b.off + (w.fail - a)) w.st) else d

/-- Writes of a job are performed: answered, and none kept back by an exclusive hold. -/
def Dev.jobPerformed (d : Dev) (j : DmaJob) : Bool := j.outst == 0 && !d.kpm.held.any (fun h => h.ord == some j.ord)

/-- A descriptor's data is moved, or its transfer has stopped. -/
def DmaJob.moving (j : DmaJob) : Bool := !(j.blocks.isEmpty && (j.stop || j.wr == j.bytes))

/-- RESULT of a packet whose last descriptor ended so (12 Table 12-9, 13 R291). -/
def dmaResult (st : BitVec 16) (moved crc expect failAt : Nat) : Nat :=
  if st == sCheck then crc + 2 ^ 32 * expect else if isExc st then failAt else moved % 2 ^ 48

/-- The words of a range read in order until one fails: memory outside the module in one access. -/
def Dev.readSpan (d : Dev) (o : Nat) (acc : Acc) (a n : Nat) : RdR :=
  match d.locate a with
  | .remote _ => if d.owns o a n false then d.readBytes acc a n else { d := d, st := sPerm, fail := a }
  | .partner _ => if d.owns o a n false then d.readBytes acc a n else { d := d, st := sPerm, fail := a }
  | _ => readUntil o acc (n / 32 + 3) a n { d := d }

/-- The words of a range written in order until one fails: memory outside the module in one access. -/
def Dev.writeSpan (d : Dev) (o : Nat) (acc : Acc) (a : Nat) (b : List Byte) : WrR :=
  match d.locate a with
  | .remote _ => if d.owns o a b.length true then d.writeBytes acc a b else { d := d, st := sPerm, fail := a }
  | .partner _ => if d.owns o a b.length true then d.writeBytes acc a b else { d := d, st := sPerm, fail := a }
  | _ => writeUntil o acc (cutWords (b.length / 32 + 3) a b) { d := d }

/-- What follows the data of a descriptor, once: the poison of a failed source word, the expected value read, the CRC appended
(13 R287, R288, R292). -/
def Dev.descTail (d : Dev) (e : Env) (n ch : Nat) : Dev :=
  let k := chKey n ch
  match (d.chan k).job with
  | none => d
  | some j =>
    if j.tail then d
    else
      let acc := j.acc n e
      let d := d.dmaPoison acc j
      let crc := j.crc.toNat ^^^ 0xFFFFFFFF
      let x : RdR := if !isExc j.status && j.fromSrc then d.readSpan j.owner acc (d.canon (j.src + j.bytes)) 4 else { d := d }
      let j := if isExc x.st then { j with status := x.st, failAt := x.fail, failDst := false }
        else if j.fromSrc then { j with expect := BitVec.ofNat 32 (leNat x.bytes) } else j
      let a := x.d.canon (j.dst + j.bytes)
      let app := !isExc j.status && j.crcApp
      let w : WrR := if app then x.d.writeSpan j.owner acc a (leBytes 4 crc) else { d := x.d }
      let j := if isExc w.st then { j with status := w.st, failAt := w.fail, failDst := true } else j
      w.d.setChan k { w.d.chan k with job := some { j with
        tail := true, bad := none, corr := j.corr || x.st == sCorrected || w.st == sCorrected,
        pend := j.pend ++ (if app then [(a, 4)] else []) } }

/-- The end of a descriptor (13 R287-R291): check values, write-back, and the next descriptor or the end of the packet. With FENCE
the status word waits until every data write and the appended CRC are performed. -/
def Dev.endDesc (d : Dev) (e : Env) (n ch : Nat) : Dev :=
  let k := chKey n ch
  match (d.chan k).job with
  | none => d
  | some j =>
    if !j.active || j.moving then d
    else
      let d := d.descTail e n ch
      match (d.chan k).job with
      | none => d
      | some j =>
        if j.fence && !d.jobPerformed j then d
        else
          let crc := j.crc.toNat ^^^ 0xFFFFFFFF
          let done := !isExc j.status
          let expect := j.expect.toNat
          let st := if !done then j.status else if j.crcChk && crc != expect then sCheck else if j.corr then sCorrected else sOk
          let d := d.writeBack (j.acc n e) j st ((j.crcGen || j.crcApp || j.crcChk) && done) crc
          let d := d.countDma n st
          let moved := j.moved + (if done then j.bytes else 0)
          let j := { j with active := false, doneD := j.doneD + 1, moved := moved, pend := j.pend ++ [(d.canon j.desc + 56, 8)] }
          let d := d.setChan k { d.chan k with job := some j }
          if j.chain && !isExc st && j.next != 0 && (j.maxD == 0 || j.doneD < j.maxD) && !j.aborting then
            d.setChan k { d.chan k with job := some { j with desc := j.next } }
          else
            d.endJob n ch (if st == sOk && j.corrAny then sCorrected else st) (dmaResult st moved crc expect j.failAt)

/-- Remote and partner writes of a packet that no response has answered. -/
def Dev.sentCount (d : Dev) (ord : Nat) : Nat :=
  (d.lnk.rids.filter (fun r => r.ord == ord && (match r.use with | .dmaWrite _ _ _ => true | _ => false))).length
    + (d.zf.reqs.filter (fun r => r.wr && !r.dead && !r.sync && r.ord == ord)).length

/-- A channel that stops is run to its end: the blocks already read are written, the descriptor's status word too (13 R293). Under
FENCE the descriptor ends only when its writes are performed: those an exclusive hold keeps back at the hold's end, those sent to
the partner with their responses. -/
def Dev.drainChan (d : Dev) (e : Env) (n ch : Nat) : Nat → Dev
  | 0 => d
  | f + 1 =>
    let k := chKey n ch
    match (d.chan k).job with
    | none => d
    | some j =>
      if !j.blocks.isEmpty then (d.writeBlock e n ch).drainChan e n ch f
      else if j.active then
        let d := d.modJob k (fun j => { j with outst := d.sentCount j.ord })
        (if j.fence then (d.descTail e n ch).awaitHeld e (fun h => h.ord == some j.ord) else d).endDesc e n ch
      else d.endJob n ch j.status (j.dst + j.wr)

/-- Owner of the packet a channel carries. -/
def Dev.chanOwner (d : Dev) (n ch : Nat) : Option Nat := (d.chan (chKey n ch)).job.map DmaJob.owner

end Sys2Proof.Machine
end

