-- ==== Sys2Proof/Machine/Hash.lean ====
section
/-!
DEFINITION. Machine/Hash.lean: the hashes and the signature check the spec names: SHA-384 (spec/08_die_fabric.md R190,
spec/19_test_access_lock.md R415), SipHash-1-3 (spec/14_kv_pages_arbor.md R309), ECDSA P-384 (spec/19_test_access_lock.md R418).
-/
namespace Sys2Proof.Machine

/-! SHA-384 (FIPS 180-4). -/

/-- Low 64 bits. -/
def w64 (n : Nat) : Nat := n % 2 ^ 64
/-- Rotation of 64 bits to the right. -/
def rotr64 (n k : Nat) : Nat := w64 ((n >>> k) ||| (n <<< (64 - k)))
/-- Rotation of 64 bits to the left. -/
def rotl64 (n k : Nat) : Nat := w64 ((n <<< k) ||| (n >>> (64 - k)))

/-- Primes below 410; there are eighty. -/
def smallPrimes : List Nat :=
  (List.range 410).filter (fun n => 2 ≤ n && (List.range 21).all (fun k => k < 2 || n ≤ k || n % k != 0))

/-- The largest number whose k-th power is at most x, of whose bits those from bit n upward stand in r. -/
def rootFrom (k x : Nat) : Nat → Nat → Nat
  | 0, r => r
  | n + 1, r => rootFrom k x n (if (r + 2 ^ n) ^ k ≤ x then r + 2 ^ n else r)

/-- First 64 bits of the fraction of the k-th root of p: how FIPS 180-4 defines its constants. -/
def rootFraction (k p : Nat) : Nat := w64 (rootFrom k (p * 2 ^ (64 * k)) 68 0)

/-- Round constants: cube roots of the first eighty primes. -/
def shaRoundWords : List Nat := smallPrimes.map (rootFraction 3)

/-- Initial value of SHA-384: square roots of the ninth to sixteenth primes. -/
def shaStart : List Nat := ((smallPrimes.drop 8).take 8).map (rootFraction 2)

/-- Two rotations and a third term combined, as the four mixing functions of FIPS 180-4 do. -/
def shaMix (x i j third : Nat) : Nat := rotr64 x i ^^^ rotr64 x j ^^^ third

/-- The message schedule as a sliding window of the last sixteen words, oldest first: n further words, and the words so far. -/
def shaWords : Nat → List Nat → List Nat
  | 0, win => win
  | n + 1, win =>
    let at' := fun k => win.getD k 0
    let new := at' 0 + shaMix (at' 1) 1 8 (at' 1 >>> 7) + at' 9 + shaMix (at' 14) 19 61 (at' 14 >>> 6)
    at' 0 :: shaWords n (win.drop 1 ++ [w64 new])

/-- Bitwise choice. -/
def shaPick (s x y : Nat) : Nat := y ^^^ (s &&& (x ^^^ y))
/-- Bitwise majority. -/
def shaMajor (x y z : Nat) : Nat := (x &&& (y ||| z)) ||| (y &&& z)

/-- One round on the eight working variables with the sum of its constant and its word. -/
def shaRound (v : List Nat) (kw : Nat) : List Nat :=
  let at' := fun k => v.getD k 0
  let grow := at' 7 + shaMix (at' 4) 14 18 (rotr64 (at' 4) 41) + shaPick (at' 4) (at' 5) (at' 6) + kw
  let top := grow + shaMix (at' 0) 28 34 (rotr64 (at' 0) 39) + shaMajor (at' 0) (at' 1) (at' 2)
  w64 top :: ((v.set 3 (at' 3 + grow)).take 7).map w64

/-- One block of 128 bytes. -/
def shaBlock (h : List Nat) (b : List Byte) : List Nat :=
  let win := shaWords 64 ((chunks 8 b).map beNat)
  let out := (shaRoundWords.zip win).foldl (fun v kw => shaRound v (kw.1 + kw.2)) h
  (h.zip out).map (fun x => w64 (x.1 + x.2))

/-- SHA-384 of some bytes: 48 bytes. -/
def sha384 (m : List Byte) : List Byte :=
  let zeros := (239 - m.length % 128) % 128
  let blocks := chunks 128 (m ++ 0x80 :: List.replicate zeros 0 ++ beBytes 16 (8 * m.length))
  ((blocks.foldl shaBlock shaStart).flatMap (beBytes 8)).take 48

/-! SipHash-1-3. -/

/-- One SipRound. -/
def sipRound (v : Nat × Nat × Nat × Nat) : Nat × Nat × Nat × Nat :=
  let (v0, v1, v2, v3) := v
  let v0 := w64 (v0 + v1)
  let v1 := rotl64 v1 13 ^^^ v0
  let v0 := rotl64 v0 32
  let v2 := w64 (v2 + v3)
  let v3 := rotl64 v3 16 ^^^ v2
  let v0 := w64 (v0 + v3)
  let v3 := rotl64 v3 21 ^^^ v0
  let v2 := w64 (v2 + v1)
  let v1 := rotl64 v1 17 ^^^ v2
  (v0, v1, rotl64 v2 32, v3)

/-- One word compressed. -/
def sipWord (v : Nat × Nat × Nat × Nat) (m : Nat) : Nat × Nat × Nat × Nat :=
  let (a, b, c, e) := sipRound (v.1, v.2.1, v.2.2.1, v.2.2.2 ^^^ m)
  (a ^^^ m, b, c, e)

/-- SipHash-1-3 of some bytes under a 128-bit key. -/
def sipHash13 (key : Nat) (m : List Byte) : Nat :=
  let k0 := key % 2 ^ 64
  let k1 := key >>> 64 % 2 ^ 64
  let v := (k0 ^^^ 0x736f6d6570736575, k1 ^^^ 0x646f72616e646f6d, k0 ^^^ 0x6c7967656e657261, k1 ^^^ 0x7465646279746573)
  let full := m.length / 8
  let v := ((chunks 8 (m.take (8 * full))).map leNat).foldl sipWord v
  let v := sipWord v (w64 (leNat (m.drop (8 * full)) + 2 ^ 56 * (m.length % 256)))
  let (a, b, c, e) := iter 3 sipRound (v.1, v.2.1, v.2.2.1 ^^^ 0xff, v.2.2.2)
  a ^^^ b ^^^ c ^^^ e

/-! ECDSA over P-384 (FIPS 186-5). -/

/-- The field's prime. -/
def p384P : Nat := 2 ^ 384 - 2 ^ 128 - 2 ^ 96 + 2 ^ 32 - 1
/-- The group's order. -/
def p384N : Nat :=
  0xffffffffffffffffffffffffffffffffffffffffffffffffc7634d81f4372ddf581a0db248b0a77aecec196accc52973
/-- The curve's b. -/
def p384B : Nat :=
  0xb3312fa7e23ee7e4988e056be3f82d19181d9c6efe8141120314088f5013875ac656398d8a2ed19d2a85c8edd3ec2aef
/-- The base point. -/
def p384G : Nat × Nat :=
  (0xaa87ca22be8b05378eb1c71ef320ad746e1d3b628ba79b9859f741e082542a385502f25dbf55296c3a545e3872760ab7,
   0x3617de4a96262c6f5d9e98bf9292dc29f8f41dbd289a147ce9da3113b5f0b8c00a60b1ce1d7e819d7a431d7c90ea0e5f)

/-- Power modulo m, with as many bits of the exponent as the fuel says. -/
def powMod (m : Nat) : Nat → Nat → Nat → Nat
  | 0, _, _ => 1 % m
  | k + 1, b, e =>
    let r := powMod m k (b * b % m) (e / 2)
    if e % 2 = 1 then b * r % m else r

/-- Inverse modulo a prime of 384 bits. -/
def invMod (m a : Nat) : Nat := powMod m 384 (a % m) (m - 2)

/-- Sum of two points; none is the point at infinity. -/
def ecAdd (a b : Option (Nat × Nat)) : Option (Nat × Nat) :=
  match a, b with
  | none, q => q
  | p, none => p
  | some (x1, y1), some (x2, y2) =>
    if x1 == x2 && (y1 + y2) % p384P == 0 then none
    else
      let l := if x1 == x2 then (3 * x1 * x1 + (p384P - 3)) * invMod p384P (2 * y1) % p384P
        else (y2 + (p384P - y1)) * invMod p384P (x2 + (p384P - x1)) % p384P
      let x := (l * l + (p384P - x1) + (p384P - x2)) % p384P
      some (x, (l * (x1 + (p384P - x)) + (p384P - y1)) % p384P)

/-- A point times a number, with as many bits as the fuel says. -/
def ecMul : Nat → Nat → Option (Nat × Nat) → Option (Nat × Nat)
  | 0, _, _ => none
  | k + 1, n, p =>
    let r := ecMul k (n / 2) (ecAdd p p)
    if n % 2 = 1 then ecAdd p r else r

/-- The point lies on the curve. -/
def onCurve (q : Nat × Nat) : Bool :=
  q.1 < p384P && q.2 < p384P && (q.2 * q.2) % p384P == (q.1 * q.1 * q.1 + (p384P - 3) * q.1 + p384B) % p384P

/-- ECDSA P-384 verification of (r, s) over SHA-384 of a message (19 R418). -/
def ecdsaVerify (pub : Nat × Nat) (m : List Byte) (r s : Nat) : Bool :=
  if r = 0 || s = 0 || p384N ≤ r || p384N ≤ s || !onCurve pub then false
  else
    let z := beNat (sha384 m)
    let w := invMod p384N s
    match ecAdd (ecMul 384 (z * w % p384N) (some p384G)) (ecMul 384 (r * w % p384N) (some pub)) with
    | none => false
    | some (x, _) => x % p384N == r

end Sys2Proof.Machine
end

