-- ==== Sys2Proof/Machine/Num.lean ====
section
/-!
DEFINITION. Machine/Num.lean: numbers and formats (spec/05_cores_arrays.md R119-R123, R126, R443): exact finite values, infinities
and NaN, one round-to-nearest-even per operation, and the functions of R126, which are computed with bounds of rising precision
until both round alike (log 30 says what happens if none of the precisions tried suffices).
-/
namespace Sys2Proof.Machine

/-- A value: NaN, an infinity, or (-1)^neg * m * 2^e exactly. -/
inductive Num where
  | nan
  | inf (neg : Bool)
  | fin (neg : Bool) (m : Nat) (e : Int)
deriving DecidableEq, Repr, Inhabited

/-- +0. -/
def nz : Num := .fin false 0 0
/-- 1. -/
def n1 : Num := .fin false 1 0
/-- An integer. -/
def Num.ofInt (i : Int) : Num := .fin (decide (i < 0)) i.natAbs 0

/-- Bits of m. -/
def bitLen (m : Nat) : Nat := if m = 0 then 0 else Nat.log2 m + 1

/-- m * 2^e as an integer multiple of 2^q, rounded to nearest even. -/
def rneTo (m : Nat) (e q : Int) : Nat :=
  if q ≤ e then m * 2 ^ (e - q).toNat
  else
    let s := (q - e).toNat
    let t := m / 2 ^ s
    let r := m % 2 ^ s
    let h := 2 ^ (s - 1)
    if h < r || (r == h && t % 2 == 1) then t + 1 else t

/-- Lowest exponent of a p-bit result whose least bit is at least 2^emin. -/
def lsbOf (p : Nat) (emin : Int) (m : Nat) (e : Int) : Int := max (e + Int.ofNat (bitLen m) - Int.ofNat p) emin

/-- m * 2^e rounded to p bits with least exponent emin. -/
def rnd (p : Nat) (emin : Int) (m : Nat) (e : Int) : Nat × Int :=
  let q := lsbOf p emin m e
  (rneTo m e q, q)

/-- m * 2^e is at least 2^k. -/
def geTwo (m : Nat) (e k : Int) : Bool := m != 0 && decide (k < e + Int.ofNat (bitLen m))

/-- One RNE to FP32, subnormals kept (05 R119, R121). -/
def rnd32 : Num → Num
  | .fin s m e =>
    let r := rnd 24 (-149) m e
    if geTwo r.1 r.2 128 then .inf s else .fin s r.1 r.2
  | x => x

/-- -x. -/
def Num.neg : Num → Num
  | .nan => .nan
  | .inf s => .inf (!s)
  | .fin s m e => .fin (!s) m e
/-- |x|. -/
def Num.abs : Num → Num
  | .nan => .nan
  | .inf _ => .inf false
  | .fin _ m e => .fin false m e
/-- x is NaN. -/
def Num.isNan : Num → Bool
  | .nan => true
  | _ => false
/-- x is an infinity or NaN. -/
def Num.special : Num → Bool
  | .fin _ _ _ => false
  | _ => true
/-- x is a zero. -/
def Num.isZero : Num → Bool
  | .fin _ m _ => m == 0
  | _ => false
/-- Sign. -/
def Num.sign : Num → Bool
  | .nan => false
  | .inf s => s
  | .fin s _ _ => s

/-- The integer m of a signed value. -/
def sgnNat (s : Bool) (m : Nat) : Int := if s then -(Int.ofNat m) else Int.ofNat m

/-- Exact sum; an exact zero is +0 unless both are -0. -/
def Num.addX : Num → Num → Num
  | .nan, _ => .nan
  | _, .nan => .nan
  | .inf s, .inf t => if s == t then .inf s else .nan
  | .inf s, _ => .inf s
  | _, .inf t => .inf t
  | .fin s m e, .fin t n f =>
    let q := min e f
    let v := sgnNat s m * 2 ^ (e - q).toNat + sgnNat t n * 2 ^ (f - q).toNat
    if v = 0 then .fin (s && t) 0 0 else .fin (decide (v < 0)) v.natAbs q

/-- Exact product. -/
def Num.mulX : Num → Num → Num
  | .nan, _ => .nan
  | _, .nan => .nan
  | .inf s, .inf t => .inf (s != t)
  | .inf s, .fin t n _ => if n = 0 then .nan else .inf (s != t)
  | .fin s m _, .inf t => if m = 0 then .nan else .inf (s != t)
  | .fin s m e, .fin t n f => .fin (s != t) (m * n) (e + f)

/-- Sum in FP32. -/
def Num.add (a b : Num) : Num := rnd32 (a.addX b)
/-- Difference in FP32. -/
def Num.sub (a b : Num) : Num := rnd32 (a.addX b.neg)
/-- Product in FP32. -/
def Num.mul (a b : Num) : Num := rnd32 (a.mulX b)
/-- a * b + c with one RNE. -/
def Num.fma (a b c : Num) : Num := rnd32 ((a.mulX b).addX c)

/-- a < b, for values that are not NaN; -0 and +0 are equal. -/
def Num.lt : Num → Num → Bool
  | .nan, _ => false
  | _, .nan => false
  | .inf s, .inf t => s && !t
  | .inf s, _ => s
  | _, .inf t => !t
  | .fin s m e, .fin t n f =>
    let q := min e f
    decide (sgnNat s m * 2 ^ (e - q).toNat < sgnNat t n * 2 ^ (f - q).toNat)

/-- a = b as numbers. -/
def Num.eq (a b : Num) : Bool := !a.isNan && !b.isNan && !a.lt b && !b.lt a

/-- The greater, +0 above -0, NaN if either is. -/
def Num.max (a b : Num) : Num :=
  if a.isNan || b.isNan then .nan else if a.lt b then b else if b.lt a then a else if a.sign then b else a
/-- The lesser, -0 below +0, NaN if either is. -/
def Num.min (a b : Num) : Num :=
  if a.isNan || b.isNan then .nan else if a.lt b then a else if b.lt a then b else if a.sign then a else b

/-- Quotient with a sticky bit: enough bits for one RNE to any format here. -/
def quot (m n : Nat) (e f : Int) : Nat × Int :=
  let k := 64 + bitLen n
  let a := m * 2 ^ k
  (2 * (a / n) + (if a % n = 0 then 0 else 1), e - f - Int.ofNat k - 1)

/-- Quotient in FP32. -/
def Num.div : Num → Num → Num
  | .nan, _ => .nan
  | _, .nan => .nan
  | .inf _, .inf _ => .nan
  | .inf s, .fin t _ _ => .inf (s != t)
  | .fin s _ _, .inf t => .fin (s != t) 0 0
  | .fin s m e, .fin t n f =>
    if n = 0 then (if m = 0 then .nan else .inf (s != t))
    else if m = 0 then .fin (s != t) 0 0
    else let q := quot m n e f; rnd32 (.fin (s != t) q.1 q.2)

/-- Square root of n with a sticky bit. -/
def sqrtSticky (n : Nat) : Nat := let r := isqrt n; 2 * r + (if r * r = n then 0 else 1)

/-- Square root in FP32 (05 R126); sqrt(-0) = -0, as IEEE 754 has it (DESIGN CHOICE, log 86). -/
def Num.sqrt : Num → Num
  | .nan => .nan
  | .inf s => if s then .nan else .inf false
  | .fin s m e =>
    if m = 0 then .fin s 0 0
    else if s then .nan
    else
      let k : Int := 80 + (e % 2)
      rnd32 (.fin false (sqrtSticky (m * 2 ^ k.toNat)) ((e - k) / 2 - 1))

/-- Reciprocal square root in FP32: the root of an exact quotient of 2^(2K) by m, with a sticky bit (05 R126).
rsqrt(-0) = -inf (DESIGN CHOICE, log 86). -/
def Num.rsqrt : Num → Num
  | .nan => .nan
  | .inf s => if s then .nan else .fin false 0 0
  | .fin s m e =>
    if m = 0 then .inf s
    else if s then .nan
    else
      let m2 := if e % 2 = 0 then m else 2 * m
      let e2 := if e % 2 = 0 then e else e - 1
      let k := bitLen m2 + 64
      let r := isqrt (2 ^ (2 * k) / m2)
      rnd32 (.fin false (2 * r + (if r * r * m2 = 2 ^ (2 * k) then 0 else 1)) (-(e2 / 2) - Int.ofNat k - 1))

/-! Functions with bounds (05 R126). A bound is an integer at scale 2^-P. -/

/-- A value known to lie in [lo, hi] * 2^e. -/
structure Bound where
  /-- Lower bound. -/
  lo : Int
  /-- Upper bound. -/
  hi : Int
  /-- Scale. -/
  e : Int

/-- An integer times 2^e in FP32, with the sign s where it is zero. -/
def ofBound (s : Bool) (i e : Int) : Num := if i = 0 then .fin s 0 0 else rnd32 (.fin (decide (i < 0)) i.natAbs e)

/-- A finite value's encoding, m * 2^e on the grid, with ee exponent bits and mm fraction bits. -/
def ieeeBits (ee mm : Nat) (s : Bool) (m : Nat) (e : Int) : Nat :=
  let bias : Int := 2 ^ (ee - 1) - 1
  let lsb := 1 - bias - Int.ofNat mm
  let r := rnd (mm + 1) lsb m e
  let q := r.2 - lsb
  let sg := b2n s * 2 ^ (ee + mm)
  if r.1 < 2 ^ mm then sg + r.1 * 2 ^ q.toNat
  else if r.1 = 2 ^ (mm + 1) then sg + (q.toNat + 2) * 2 ^ mm
  else sg + (q.toNat + 1) * 2 ^ mm + (r.1 - 2 ^ mm)

/-- A value's FP32 bits; it lies on the FP32 grid. -/
def bits32 : Num → Nat
  | .nan => 0x7FC00000
  | .inf s => 0x7F800000 + b2n s * 2 ^ 31
  | .fin s m e => ieeeBits 8 23 s m e

/-- The first precision at which both bounds round alike; the value is left open if none of them does (log 30). -/
def resolve (name : Nat) (arg : List Nat) (s : Bool) (f : Nat → Bound) : List Nat → Num
  | [] =>
    let v := Config.openResult name arg
    rnd32 (.fin s (v % 2 ^ 24) (Int.ofNat (v / 2 ^ 24 % 256) - 150))
  | p :: r =>
    let b := f p
    let x := ofBound s b.lo b.e
    if bits32 x = bits32 (ofBound s b.hi b.e) then x else resolve name arg s f r

/-- Precisions tried. -/
def precs : List Nat := [96, 256, 768, 2048]

/-- Bits of an argument, for an open result. -/
def argOf : Num → List Nat
  | .fin s m e => [b2n s, m, (e + 4096).toNat]
  | _ => []

/-- atanh(1/n) or atan(1/n) at scale 2^-p, less than p + 2 units below or above: its series, cut at p terms. -/
def atSeries (alt : Bool) (p n : Nat) : Nat → Int → Nat → Int
  | 0, acc, _ => acc
  | k + 1, acc, i =>
    let t := Int.ofNat (2 ^ p / (n ^ (2 * i + 1) * (2 * i + 1)))
    if t = 0 then acc else atSeries alt p n k (if alt && i % 2 == 1 then acc - t else acc + t) (i + 1)

/-- ln 2 = 2 atanh(1/3), at scale 2^-p, within 2p + 4 units. -/
def ln2At (p : Nat) : Int := 2 * atSeries false p 3 p 0 0
/-- pi = 16 atan(1/5) - 4 atan(1/239), within 20p + 40 units. -/
def piAt (p : Nat) : Int := 16 * atSeries true p 5 p 0 0 - 4 * atSeries true p 239 p 0 0

/-- The Taylor sum of exp at r, |r| below 1, at scale 2^-p: within 4p units. -/
def expTaylor (p : Nat) (r : Int) : Nat → Int → Int → Nat → Int
  | 0, acc, _, _ => acc
  | k + 1, acc, t, i =>
    let t := t * r / (2 ^ p * Int.ofNat i)
    if t = 0 then acc else expTaylor p r k (acc + t) t (i + 1)

/-- Bounds of exp over [lo, hi] at scale 2^-p, for arguments below 4,096 in magnitude: (bounds at 2^-p) * 2^k. -/
def expB (p : Nat) (lo hi : Int) : Bound :=
  let l := ln2At p
  let k := lo / l
  let slack := (Int.natAbs k + 1) * (2 * p + 4)
  let a := lo - k * l - Int.ofNat slack
  let b := hi - k * l + Int.ofNat slack
  let one : Int := 2 ^ p
  let err := Int.ofNat (8 * p + 64)
  { lo := Max.max 0 (expTaylor p a (2 * p) one one 1 - err), hi := expTaylor p b (2 * p) one one 1 + err, e := k - Int.ofNat p }

/-- atanh(z) for |z| at most 1/3, z at scale 2^-p, within 4p units. -/
def atanhSum (p : Nat) (z2 : Int) : Nat → Int → Int → Nat → Int
  | 0, acc, _, _ => acc
  | k + 1, acc, t, i =>
    let acc := acc + t / Int.ofNat (2 * i + 1)
    let t := t * z2 / 2 ^ p
    if t = 0 then acc else atanhSum p z2 k acc t (i + 1)

/-- Bounds of log(m * 2^e), at scale 2^-p. -/
def logB (p m : Nat) (e : Int) : Bound :=
  let l := bitLen m - 1
  let up := 4 * 2 ^ l < 3 * m
  let den := if up then 2 ^ (l + 1) else 2 ^ l
  let k := e + Int.ofNat l + (if up then 1 else 0)
  let z := (Int.ofNat m - Int.ofNat den) * 2 ^ p / (Int.ofNat m + Int.ofNat den)
  let v := k * ln2At p + 2 * atanhSum p (z * z / 2 ^ p) (2 * p) 0 z 0
  let err := Int.ofNat ((Int.natAbs k) * (2 * p + 4) + 16 * p + 64)
  { lo := v - err, hi := v + err, e := -Int.ofNat p }

/-- A finite value at scale 2^-p, rounded down. -/
def scaled (p : Nat) (s : Bool) (m : Nat) (e : Int) : Int :=
  let q := e + Int.ofNat p
  if 0 ≤ q then sgnNat s m * 2 ^ q.toNat else sgnNat s m / 2 ^ (-q).toNat

/-- exp in FP32. -/
def Num.exp : Num → Num
  | .nan => .nan
  | .inf s => if s then nz else .inf false
  | .fin s m e =>
    if m = 0 then n1
    else if geTwo m e 9 then (if s then nz else .inf false)
    else resolve 1 (argOf (.fin s m e)) false (fun p => let x := scaled p s m e; expB p x (x + 1)) precs

/-- 2^x in FP32: exact at integers. -/
def Num.exp2 : Num → Num
  | .nan => .nan
  | .inf s => if s then nz else .inf false
  | .fin s m e =>
    if m = 0 then n1
    else if geTwo m e 9 then (if s then nz else .inf false)
    else if 0 ≤ e || m % 2 ^ (-e).toNat = 0 then
      rnd32 (.fin false 1 (if 0 ≤ e then sgnNat s m * 2 ^ e.toNat else sgnNat s m / 2 ^ (-e).toNat))
    else resolve 2 (argOf (.fin s m e)) false (fun p =>
      let x := scaled p s m e
      let l := ln2At p
      let err := Int.ofNat (512 * (2 * p + 8))
      expB p (x * l / 2 ^ p - err) (x * l / 2 ^ p + err)) precs

/-- Natural logarithm in FP32; log(-0) = -inf (DESIGN CHOICE, log 86). -/
def Num.log : Num → Num
  | .nan => .nan
  | .inf s => if s then .nan else .inf false
  | .fin s m e =>
    if m = 0 then .inf true
    else if s then .nan
    else if 0 ≤ e && m == 1 && e == 0 || (e ≤ 0 && m == 2 ^ (-e).toNat) then nz
    else resolve 3 (argOf (.fin s m e)) false (fun p => logB p m e) precs

/-- Bounds of the logistic function 1 / (1 + exp(-t)) over [lo, hi] at scale 2^-p, one sign of t. -/
def sigB (p : Nat) (lo hi : Int) : Int × Int :=
  let one : Int := 2 ^ p
  let small := fun (a b : Int) =>
    -- bounds at 2^-p of exp over [a, b], both at most 0
    if b < -4096 * one then ((0 : Int), (1 : Int))
    else
      let x := expB p (Max.max a (-4200 * one)) b
      let q := x.e + Int.ofNat p
      (if 0 ≤ q then x.lo * 2 ^ q.toNat else x.lo / 2 ^ (-q).toNat, (if 0 ≤ q then x.hi * 2 ^ q.toNat else x.hi / 2 ^ (-q).toNat) + 1)
  if 0 ≤ lo then
    let x := small (-hi) (-lo)
    (one * one / (one + x.2), one * one / (one + x.1) + 1)
  else
    let x := small lo hi
    (x.1 * one / (one + x.1), x.2 * one / (one + x.2) + 1)

/-- x * sig(t) in bounds, x = (-1)^s m 2^e exactly. -/
def timesB (s : Bool) (m : Nat) (e : Int) (p : Nat) (b : Int × Int) : Bound :=
  let a := sgnNat s m * b.1
  let c := sgnNat s m * b.2
  { lo := Min.min a c, hi := Max.max a c, e := e - Int.ofNat p }

/-- tanh in FP32: 2 sig(2x) - 1. -/
def Num.tanh : Num → Num
  | .nan => .nan
  | .inf s => .fin s 1 0
  | .fin s m e =>
    if m = 0 then .fin s 0 0
    else if geTwo m e 6 then rnd32 (.fin s (2 ^ 40 - 1) (-40))
    else resolve 4 (argOf (.fin s m e)) s (fun p =>
      let x := scaled p s m (e + 1)
      let b := sigB p x (x + 1)
      { lo := 2 * b.1 - 2 ^ p, hi := 2 * b.2 - 2 ^ p, e := -Int.ofNat p }) precs

/-- SiLU in FP32 (05 R126); the limit at -inf is written -0 (DESIGN CHOICE, log 86). -/
def Num.silu : Num → Num
  | .nan => .nan
  | .inf s => if s then .fin true 0 0 else .inf false
  | .fin s m e =>
    if m = 0 then .fin s 0 0
    else resolve 5 (argOf (.fin s m e)) s (fun p =>
      let x := if geTwo m e 13 then (if s then -8192 * 2 ^ p else 8192 * 2 ^ p) else scaled p s m e
      timesB s m e p (sigB p x (x + 1))) precs

/-- GELU in its tanh form, in FP32 (05 R126): x sig(2u), u = sqrt(2/pi) (x + 0.044715 x^3); the limit at -inf is written -0
(DESIGN CHOICE, log 86). -/
def Num.gelu : Num → Num
  | .nan => .nan
  | .inf s => if s then .fin true 0 0 else .inf false
  | .fin s m e =>
    if m = 0 then .fin s 0 0
    else resolve 6 (argOf (.fin s m e)) s (fun p =>
      if geTwo m e 7 then let x := if s then -8192 * 2 ^ p else 8192 * 2 ^ p; timesB s m e p (sigB p x (x + 1))
      else
        let x := scaled p s m e
        let w := x + x * x / 2 ^ p * x / 2 ^ p * 44715 / 1000000
        let root := Int.ofNat (isqrt ((2 * 2 ^ p * 2 ^ p * 2 ^ p) / (piAt p).toNat))
        let t := 2 * (w * root / 2 ^ p)
        let err := Int.ofNat (2 ^ 24 * (20 * p + 64))
        let lo := t - err
        let hi := t + err
        let b := if lo < 0 && 0 < hi then ((sigB p lo (-1)).1, (sigB p 0 hi).2) else sigB p lo hi
        timesB s m e p b) precs

/-- softplus in FP32 (05 R126): log(1 + e^x). At -128 and below it lies under half of the least subnormal and rounds to +0. -/
def Num.softplus : Num → Num
  | .nan => .nan
  | .inf s => if s then nz else .inf false
  | .fin s m e =>
    if s && geTwo m e 7 then nz
    else if geTwo m e 12 then (if s then nz else rnd32 (.fin false (m * 2 ^ 40 + 1) (e - 40)))
    else resolve 7 (argOf (.fin s m e)) false (fun p =>
      let x := scaled p s m e
      -- log(1 + exp(-|x|)) + max(x, 0)
      let y := if 0 ≤ x then -x - 1 else x
      let b := expB p y (y + 1)
      let q := b.e + Int.ofNat p
      let lo := if 0 ≤ q then b.lo * 2 ^ q.toNat else b.lo / 2 ^ (-q).toNat
      let hi := (if 0 ≤ q then b.hi * 2 ^ q.toNat else b.hi / 2 ^ (-q).toNat) + 1
      let l := logB p (2 ^ p + lo).toNat (-Int.ofNat p)
      let h := logB p (2 ^ p + hi).toNat (-Int.ofNat p)
      { lo := Max.max x 0 + l.lo, hi := Max.max x 0 + h.hi + 1, e := -Int.ofNat p }) precs

/-- 1/x in FP32. -/
def Num.recip (x : Num) : Num := n1.div x

/-! Formats (05 Table 05-1, 12 R266). -/

/-- A sign, exponent and fraction read as IEEE 754 would, with ee exponent bits and mm fraction bits. -/
def ieee (ee mm b : Nat) : Num :=
  let s := bit b (ee + mm)
  let x := bf b (ee + mm - 1) mm
  let f := b % 2 ^ mm
  let bias : Int := 2 ^ (ee - 1) - 1
  if x = 2 ^ ee - 1 then (if f = 0 then .inf s else .nan)
  else if x = 0 then .fin s f (1 - bias - Int.ofNat mm)
  else .fin s (2 ^ mm + f) (Int.ofNat x - bias - Int.ofNat mm)

/-- FP32 bits as a value. -/
def f32 (b : Nat) : Num := ieee 8 23 b
/-- E2M1 magnitudes. -/
def e2m1 (b : Nat) : Num :=
  let s := bit b 3
  let x := bf b 2 1
  let f := b % 2
  if x = 0 then .fin s f (-1) else .fin s (2 + f) (Int.ofNat x - 2)

/-- An element's value by format, without its block scale. -/
def decodeEl (fmt b : Nat) : Num :=
  match fmt with
  | 0 => if b % 128 = 127 then .nan else
      let s := bit b 7
      let x := bf b 6 3
      if x = 0 then .fin s (b % 8) (-9) else .fin s (8 + b % 8) (Int.ofNat x - 10)
  | 1 => ieee 5 2 b
  | 2 => Num.ofInt (sgn 8 b)
  | 3 => e2m1 b
  | 4 => match sgn 8 b with | .ofNat n => .fin false n (-6) | .negSucc n => .fin true (n + 1) (-6)
  | 5 => Num.ofInt (sgn 4 b)
  | 6 => ieee 8 7 b
  | 7 => ieee 5 10 b
  | 8 => ieee 8 23 b
  | _ => Num.ofInt (sgn 32 b)

/-- An E8M0 scale. -/
def e8m0 (b : Nat) : Num := if b = 255 then .nan else .fin false 1 (Int.ofNat b - 127)

/-- A value rounded to an integer and saturated (05 R123). -/
def toInt (lo hi : Int) : Num → Int
  | .nan => 0
  | .inf s => if s then lo else hi
  | .fin s m e => let i := sgnNat s (rneTo m e 0); if i < lo then lo else if hi < i then hi else i

/-- A floating format's encoding under OUT_SAT (05 R123). -/
def toIeee (ee mm nan : Nat) (sat : Bool) (x : Num) : Nat :=
  let top : Int := 2 ^ (ee - 1)
  let inf := fun s : Bool => (2 ^ ee - 1) * 2 ^ mm + b2n s * 2 ^ (ee + mm)
  let big := fun s : Bool => inf s - 1
  match x with
  | .nan => nan
  | .inf s => if sat then big s else inf s
  | .fin s m e =>
    let r := rnd (mm + 1) (2 - top - Int.ofNat mm) m e
    if geTwo r.1 r.2 top then (if sat then big s else inf s) else ieeeBits ee mm s m e

/-- Conversion to an output format without block scales (05 R123). -/
def encodeEl (fmt : Nat) (sat : Bool) (x : Num) : Nat :=
  match fmt with
  | 0 => match x with
    | .nan => 0x7F
    | .inf s => 0x7E + 128 * b2n s
    | .fin s m e =>
      let r := rnd 4 (-9) m e
      if geTwo r.1 r.2 9 || (r.1 == 15 && r.2 == 5) then 0x7E + 128 * b2n s else ieeeBits 4 3 s m e
  | 1 => toIeee 5 2 0x7E sat x
  | 2 => ofSgn 8 (toInt (-128) 127 x)
  | 5 => ofSgn 4 (toInt (-8) 7 x)
  | 6 => toIeee 8 7 0x7FC0 sat x
  | 7 => toIeee 5 10 0x7E00 sat x
  | 8 => bits32 (rnd32 x)
  | _ => ofSgn 32 (toInt (-(2 ^ 31)) (2 ^ 31 - 1) x)

/-- The greatest magnitude of a block, none if it holds a NaN or an infinity. -/
def amax (l : List Num) : Option Num := if l.any Num.special then none else some (l.foldl (fun a x => if a.lt x.abs then x.abs else a) nz)

/-- x scaled by 2^k. -/
def Num.scale (k : Int) : Num → Num
  | .fin s m e => .fin s m (e + k)
  | x => x

/-- A magnitude rounded onto the E2M1 grid, saturated at 6: its 3-bit code. -/
def e2m1Code (m : Nat) (e : Int) : Nat :=
  let r := rnd 2 (-1) m e
  if geTwo r.1 r.2 3 then 7 else ieeeBits 2 1 false m e

/-- A block converted to MXFP4 or MXINT8: scale byte and element codes (05 R443). -/
def mxBlock (fmt : Nat) (l : List Num) : Nat × List Nat :=
  match amax l with
  | none => (0xFF, l.map (fun _ => 0))
  | some .nan => (0xFF, l.map (fun _ => 0))
  | some (.inf _) => (0xFF, l.map (fun _ => 0))
  | some (.fin _ m e) =>
    if m = 0 then (0, l.map (fun _ => 0))
    else
      let k := e + Int.ofNat (bitLen m) - 1 - (if fmt == 3 then 2 else 0)
      let k := Max.max (-127) (Min.min 127 k)
      ((k + 127).toNat, l.map (fun x => match x.scale (-k) with
        | .fin s m e =>
          if fmt == 3 then (let c := e2m1Code m e; if c = 0 then 0 else c + 8 * b2n s)
          else ofSgn 8 (toInt (-127) 127 (.fin s m (e + 6)))
        | _ => 0))

end Sys2Proof.Machine
end

