-- ==== Sys2Proof/Machine/Kv.lean ====
section
/-!
DEFINITION. Machine/Kv.lean: the KV Page Managers and the Arbor (spec/14_kv_pages_arbor.md R295-R317, spec/10_ordering.md
R233-R235): pools, page descriptors, allocation, quantisation, tentative rows, the prefix tree, reservations and exclusive holds.
-/
namespace Sys2Proof.Machine

/-! Descriptors (14 Table 14-3). -/

/-- A page descriptor. -/
structure PDesc where
  /-- BASE. -/
  base : Nat := 0
  /-- LOG2. -/
  log2 : Nat := 0
  /-- FMT. -/
  fmt : Nat := 0
  /-- REFCOUNT. -/
  ref : Nat := 0
  /-- PART. -/
  part : Nat := 0
  /-- STREAM. -/
  stream : Nat := 0
  /-- PINNED. -/
  pinned : Bool := false
  /-- SHARED. -/
  shared : Bool := false
  /-- SCALE. -/
  scale : Bool := false
  /-- POOL. -/
  pool : Nat := 0
  /-- LEN. -/
  len : Nat := 0
  /-- TLEN. -/
  tlen : Nat := 0
  /-- NODE. -/
  node : Nat := 0
  /-- STAMP. -/
  stamp : Nat := 0
deriving DecidableEq, Repr, Inhabited

/-- The 32 bytes of a descriptor; COPY_ON_WRITE and TENTATIVE follow from REFCOUNT and TLEN. -/
def PDesc.bytes (x : PDesc) : List Byte :=
  leBytes 8 (x.base % 2 ^ 56 + 2 ^ 56 * x.log2 + 2 ^ 60 * x.fmt) ++
  leBytes 8 (x.ref + 2 ^ 16 * x.part + 2 ^ 19 * x.stream + 2 ^ 32 * b2n (1 < x.ref) + 2 ^ 33 * b2n x.pinned + 2 ^ 34 * b2n x.shared
    + 2 ^ 35 * b2n (0 < x.tlen) + 2 ^ 36 * b2n x.scale + 2 ^ 38 * x.pool + 2 ^ 44 * x.len + 2 ^ 57 * x.tlen) ++
  leBytes 8 (x.node % 2 ^ 56) ++ leBytes 8 x.stamp

/-- The descriptor 32 bytes hold. -/
def PDesc.ofBytes (b : List Byte) : PDesc :=
  let u := fieldAt b 0 8
  let v := fieldAt b 8 8
  { base := bf u 55 0, log2 := bf u 59 56, fmt := bf u 63 60, ref := bf v 15 0, part := bf v 18 16, stream := bf v 31 19,
    pinned := bit v 33, shared := bit v 34, scale := bit v 36, pool := bf v 43 38, len := bf v 56 44, tlen := bf v 63 57,
    node := bf (fieldAt b 16 8) 55 0, stamp := fieldAt b 24 8 }

/-- A descriptor read. -/
def Dev.readDesc (d : Dev) (acc : Acc) (a : Nat) : Dev × BitVec 16 × PDesc :=
  let r := d.readBytes acc a 32
  (r.d, r.st, PDesc.ofBytes r.bytes)
/-- A descriptor written, stamped with the time by its KPM's die (14 R315, 04 R102). -/
def Dev.writeDesc (d : Dev) (acc : Acc) (a : Nat) (x : PDesc) : Dev :=
  (d.writeBytes acc a ({ x with stamp := d.stampOn acc.env (acc.site.getD 5) }).bytes).d

/-! Pools. -/

/-- A pool changed. -/
def Dev.setPool (d : Dev) (k : Nat) (p : Pool) : Dev := { d with kpm := { d.kpm with pools := tset d.kpm.pools k p } }

/-- The site has a KPM that serves pools (14 R296, 03 R85). -/
def Dev.kpmOk (d : Dev) (n : Nat) : Bool := d.csActive n && !d.kpm.fenced.getLsbD n && !d.stopped n

/-- Geometry in range (14 Table 14-6). -/
def Pool.geometryOk (p : Pool) : Bool :=
  p.fmt.toNat ≤ 5 && 1 ≤ p.heads.toNat && p.heads.toNat ≤ 16 && p.hd.toNat ≤ 4 && p.owner.toNat ≤ 8 && 4 ≤ p.nodesLog2.toNat
    && p.nodesLog2.toNat ≤ 24 && p.blocks != 0 && (!p.kind || p.arbLog2.toNat ≤ 8)

/-- The three regions: page region, descriptor table, node area (14 R295). -/
def Pool.regions (p : Pool) : List (Nat × Nat) :=
  [(p.base.toNat, p.units * p.unitBytes), (p.desc.toNat, 32 * p.units), (p.arb.toNat, 256 * 2 ^ p.nodesLog2.toNat)]

/-- The regions lie in space 0x0, 0x1 or 0x2 of this module, apart, where the owner may reach them (14 R295). -/
def Dev.regionsOk (d : Dev) (p : Pool) : Bool :=
  let rs := p.regions.map (fun r => (d.canon r.1, r.2))
  rs.all (fun r => isLocal r.1 && dpaSpace r.1 ≤ 2 && dpaSpace (r.1 + r.2 - 1) == dpaSpace r.1 && d.owns p.owner.toNat r.1 r.2 true) &&
    (List.range 3).all (fun i => (List.range 3).all (fun j =>
      j ≤ i || !overlaps (rs.getD i (0, 0)).1 (rs.getD i (0, 0)).2 (rs.getD j (0, 0)).1 (rs.getD j (0, 0)).2))

/-- KPM_POOL_CTL.ENABLE written 1 (14 R295): the fields of the write are taken first. -/
def Dev.poolEnable (d : Dev) (n k : Nat) (p : Pool) : Dev :=
  if d.csActive n && !d.kpm.fenced.getLsbD n && p.geometryOk && d.regionsOk p then
    d.setPool k { p with enable := true, ready := false, alloc := [], live := 0 }
  else d.setPool k { p with err := true }

/-- The write of every descriptor slot and of the node area ends: READY (14 R295, R302). -/
def Dev.poolReady (d : Dev) (n k : Nat) : Dev :=
  let p := d.pool k
  if !p.enable || p.ready || !d.kpmOk n then d
  else
    let base := d.canon p.base.toNat
    let desc := d.canon p.desc.toNat
    let arb := d.canon p.arb.toNat
    let d := (List.range p.units).foldl (fun d i =>
      (d.writeBytes {} (desc + 32 * i) (PDesc.bytes { base := base + i * p.unitBytes, fmt := p.fmt.toNat, scale := p.scale, pool := k % 64 })).d) d
    let d := d.breakRsv arb (256 * 2 ^ p.nodesLog2.toNat) none
    let d := d.zeroFill arb (arb + 256 * 2 ^ p.nodesLog2.toNat - 1)
    d.setPool k { p with ready := true }

/-- A pool disabled: its pages are forgotten (14 R296). -/
def Pool.off (p : Pool) : Pool := { p with enable := false, ready := false, alloc := [], live := 0 }

/-- Pools of a partition that is destroyed (14 R296). -/
def Dev.dropPools (d : Dev) (o : Nat) : Dev :=
  { d with kpm := { d.kpm with pools := d.kpm.pools.map (fun e => if e.2.owner.toNat == o then (e.1, { e.2.off with owner := 0 }) else e) } }

/-- A write of KPM_POOL_CTL (14 R295, R296, Table 14-6). pf: the writer may write OWNER. -/
def Dev.wrPoolCtl (d : Dev) (n k : Nat) (pf : Bool) (v : Nat) : Dev :=
  let p := d.pool k
  let p := { p with err := p.err && !bit v 31 }
  if p.enable then
    if bit v 0 then d.setPool k p
    else if p.alloc.isEmpty then d.setPool k p.off
    else d.setPool k { p with err := true }
  else
    let p := { p with
      kind := bit v 1, fmt := BitVec.ofNat 4 (bf v 5 2), scale := bit v 6, heads := BitVec.ofNat 5 (bf v 12 8), hd := BitVec.ofNat 3 (bf v 15 13),
      arbLog2 := BitVec.ofNat 4 (bf v 19 16), owner := if pf then BitVec.ofNat 4 (bf v 23 20) else p.owner,
      nodesLog2 := BitVec.ofNat 5 (bf v 28 24) }
    if bit v 0 then d.poolEnable n k p else d.setPool k p

/-- The enabled pool whose descriptor table holds a slot at a DPA. -/
def Dev.poolAt (d : Dev) (a : Nat) : Option Nat :=
  (d.kpm.pools.find? (fun e => e.2.enable &&
    (let b := d.canon e.2.desc.toNat; b ≤ a && a < b + 32 * e.2.units && (a - b) % 32 == 0))).map (·.1)

/-- The pool serves packets (14 R296). -/
def Dev.poolOk (d : Dev) (k : Nat) : Bool := d.kpmOk (k / 64) && (d.pool k).ready

/-- Slot number of a descriptor. -/
def Dev.slotOf (d : Dev) (k a : Nat) : Nat := (a - d.canon (d.pool k).desc.toNat) / 32
/-- Descriptor DPA of a unit. -/
def Dev.descOf (d : Dev) (k i : Nat) : Nat := d.canon (d.pool k).desc.toNat + 32 * i

/-- Issuing stream of a queue (14 R305). -/
def Dev.streamOf (d : Dev) (q : QRef) : Nat :=
  match q with
  | .part p i => (tget (d.part p.val).streams i.val 0x1FFF).toNat
  | .mgmt _ => 0x1FFF

/-- A KV packet owns a page (14 R305). -/
def Dev.ownsPage (d : Dev) (q : QRef) (x : PDesc) : Bool :=
  qOwner q == 8 || (x.part == qOwner q && (d.streamOf q == 0x1FFF || x.stream == 0x1FFF || x.stream == d.streamOf q))

/-- A logged event (14 R306): KPM_EVT, the pool's count, KPM_LAST. -/
def Dev.logKpm (d : Dev) (k i : Nat) (desc : Option Nat) : Dev :=
  let p := d.pool k
  let d := d.setPool k (match i with
    | 0 => { p with dfree := satAdd p.dfree 1 }
    | 1 => { p with notOwn := satAdd p.notOwn 1 }
    | 3 => { p with full := satAdd p.full 1 }
    | 4 => { p with coll := satAdd p.coll 1 }
    | _ => p)
  let d := match desc with | some a => { d with kpm := { d.kpm with last := BitVec.ofNat 56 a } } | none => d
  d.raiseKpm (BitVec.ofNat 5 (2 ^ i))

/-- RLC lines of a range purged (08 Table 08-2). -/
def Dev.purgeRange (d : Dev) (a n : Nat) : Dev :=
  { d with zf := { d.zf with rlc := d.zf.rlc.filter (fun l => !overlaps (256 * l.tag) 256 a n) } }

/-- Units a page of 2^log2 tokens takes. -/
def Pool.unitsOf (p : Pool) (log2 : Nat) : Nat := if p.kind then 2 ^ (log2 - 4) else 1
/-- Tokens' bytes of a page. -/
def Pool.pageBytes (p : Pool) (log2 : Nat) : Nat := 2 ^ log2 * p.rowBytes

/-- One page allocated: its first unit. -/
def Dev.allocPage (d : Dev) (k units : Nat) : Option (Dev × Nat) :=
  let p := d.pool k
  (p.pick units).map (fun s => (d.setPool k { p with alloc := p.alloc ++ [(s, units)] }, s))

/-- A page's units freed. -/
def Dev.freePage (d : Dev) (k s : Nat) : Dev :=
  let p := d.pool k
  d.setPool k { p with alloc := p.alloc.filter (fun a => a.1 != s) }

/-- One reference dropped; with the last one the page goes back to its pool (14 R306). -/
def Dev.unref (d : Dev) (acc : Acc) (k a : Nat) (x : PDesc) : Dev :=
  if x.ref ≤ 1 then
    let d := d.purgeRange x.base ((d.pool k).pageBytes x.log2)
    let d := d.writeDesc acc a { x with ref := 0, len := 0, tlen := 0, pinned := false, shared := false, node := 0, log2 := 0 }
    d.freePage k (d.slotOf k a)
  else d.writeDesc acc a { x with ref := x.ref - 1 }

/-- The access of a KPM operation for a packet, which leaves the reservation of its own slot. -/
def Dev.kacc (d : Dev) (p : Pkt) (e : Env) : Acc :=
  { p.acc e with slot := (d.kpm.slots.find? (fun s => s.2.st != 0 && s.2.q == p.q && s.2.tag == p.tag)).map (·.1) }

/-- A DPA that the owner may not use (12 R263): E_PERM with the DPA in RESULT. -/
def permAt (d : Dev) (a : Nat) : OpR := { d := d, st := sPerm, res := a % 2 ^ 56 }

/-- DESC of a packet: its DPA. -/
def Pkt.descA (p : Pkt) : Nat := ((leafDpa p.leaves (p.f 1 47 0)).map (·.1)).getD 0

/-- An operation on the descriptor that word 1 names: refused with E_BAD_PARAM where it is no slot of a pool that serves. -/
def Dev.onDesc (d : Dev) (p : Pkt) (e : Env) (f : Dev → Nat → Nat → PDesc → OpR) : OpR :=
  let a := d.canon p.descA
  match d.poolAt a with
  | none => { d := d, st := sBadParam }
  | some k =>
    if !d.poolOk k then { d := d, st := sBadParam }
    else
      let r := d.readDesc (d.kacc p e) a
      if isExc r.2.1 then { d := r.1, st := r.2.1 } else f r.1 k a r.2.2

/-! KV_ALLOC (14 R298, 12 R274). -/

/-- Pages allocated one after another, none if one of them cannot be. -/
def allocMany (k units : Nat) : Nat → Dev → List Nat → Option (Dev × List Nat)
  | 0, d, l => some (d, l)
  | n + 1, d, l => match d.allocPage k units with
    | none => none
    | some (d, s) => allocMany k units n d (l ++ [s])

/-- KV_ALLOC. A pool whose memory its owner no longer holds refuses the page (09 R208, 12 R263; log 97); DEDUCED in part: log 58. -/
def Dev.opAlloc (d : Dev) (p : Pkt) (e : Env) : OpR :=
  let site := p.f 1 2 0
  let pl := p.f 1 13 8
  let count := p.f 1 23 16
  let lg := p.f 1 27 24
  let k := poolKey site pl
  let po := d.pool k
  if 6 ≤ site || !d.poolOk k || count = 0 || 64 < count || (if po.kind then 8 < lg else lg != 0) then { d := d, st := sBadParam }
  else if p.owner != 8 && po.owner.toNat != p.owner then { d := d, st := sPerm }
  else
    match allocMany k (po.unitsOf (lg + 4)) count d [] with
    | none => { d := d.logKpm k 2 none, st := sPoolEmpty }
    | some (d2, l) =>
      match (l.flatMap (fun s => [(d.descOf k s, 32), (d.canon po.base.toNat + s * po.unitBytes, po.pageBytes (if po.kind then lg + 4 else 8))])).find?
          (fun r => !d.dpaOk p.owner r.1 r.2) with
      | some r => permAt d r.1
      | none =>
      let d := d2
      let part := if p.owner != 8 then p.owner else if po.owner.toNat < 8 then po.owner.toNat else 0
      let d := l.foldl (fun d s => d.writeDesc (d.kacc p e) (d.descOf k s)
        { base := d.canon po.base.toNat + s * po.unitBytes, fmt := po.fmt.toNat, scale := po.scale, pool := pl, ref := 1, part := part,
          stream := p.f 1 44 32, log2 := if po.kind then lg + 4 else 8 }) d
      let w := d.writeP p e (p.f 2 47 0) (l.flatMap (fun s => leBytes 8 (d.descOf k s)))
      { d := w.d, st := w.st, res := d.descOf k (l.headD 0) + 2 ^ 56 * l.length, wrote := dpaPieces p.leaves (p.f 2 47 0) (8 * l.length) }

/-! KV_FREE (14 R306). -/

/-- KV_FREE. -/
def Dev.opFree (d : Dev) (p : Pkt) (e : Env) : OpR :=
  d.onDesc p e (fun d k a x =>
    if x.ref = 0 then { d := d.logKpm k 0 (some a), st := sDoubleFree }
    else if !d.ownsPage p.q x then { d := d.logKpm k 1 (some a), st := sNotOwner }
    else if x.ref = 1 && (x.shared || x.pinned) then { d := d, st := sBadParam }
    else { d := d.unref (d.kacc p e) k a x, res := x.ref - 1, wrote := [(a, 32)] })

/-! Quantisation (14 R301). -/

/-- The smallest FP16 value at least a / n, capped at 65,504, for a positive a. -/
def fp16Up (a : Num) (n : Nat) : Nat :=
  match a with
  | .fin _ m e =>
    -- the least grid point v with v * n at least m * 2^e
    let q := quot m n e 0
    let lsb := lsbOf 11 (-24) q.1 q.2
    let t := if lsb ≤ q.2 then q.1 * 2 ^ (q.2 - lsb).toNat else (q.1 + (2 ^ (lsb - q.2).toNat - 1)) / 2 ^ (lsb - q.2).toNat
    if geTwo t lsb 16 then 0x7BFF else ieeeBits 5 10 false t lsb
  | _ => 0x7E00

/-- QMAX of a pool format (14 Table 14-1). -/
def qmax (fmt : Nat) : Nat := [0, 0, 448, 127, 7, 6].getD fmt 0

/-- e of an E8M0 scale: the smallest integer with amax at most QMAX * 2^e, clamped. -/
def e8Of (fmt : Nat) (a : Num) : Int :=
  match a with
  | .fin _ m e =>
    let g := e + Int.ofNat (bitLen m) - 1 - Int.ofNat (Nat.log2 (qmax fmt))
    let le := fun k : Int => !((Num.fin false (qmax fmt) k).lt a)
    let k := if le (g - 1) then g - 1 else if le g then g else g + 1
    Max.max (-127) (Min.min 127 k)
  | _ => 0

/-- One element q of a pool format by RNE, saturated at QMAX. -/
def kvCode (fmt : Nat) (x : Num) : Nat :=
  match fmt with
  | 2 => encodeEl 0 true x
  | 3 => ofSgn 8 (toInt (-127) 127 x)
  | 4 => ofSgn 4 (toInt (-7) 7 x)
  | _ => match x with
    | .fin s m e => e2m1Code m e + 8 * b2n s
    | _ => 0

/-- x / s before the rounding of its element, s a positive FP16 value. -/
def divExact (x s : Num) : Num :=
  match x, s with
  | .fin a m e, .fin _ n f => if m = 0 then .fin a 0 0 else let q := quot m n e f; .fin a q.1 q.2
  | _, _ => .nan

/-- A block of 32 elements quantised: scale bits and element codes. -/
def kvBlock (fmt : Nat) (fp16 : Bool) (l : List Num) : Nat × List Nat :=
  match amax l with
  | none => (if fp16 then 0x7E00 else 0xFF, l.map (fun _ => 0))
  | some a =>
    if a.isZero then (0, l.map (fun _ => 0))
    else if fp16 then
      let s := fp16Up a (qmax fmt)
      (s, l.map (fun x => kvCode fmt (divExact x (ieee 5 10 s))))
    else
      let e := e8Of fmt a
      ((e + 127).toNat, l.map (fun x => kvCode fmt (x.scale (-e))))

/-- Element codes packed, w bits each, lower elements in lower bits. -/
def packEls (w : Nat) (l : List Nat) : List Byte :=
  if w = 4 then (chunks 2 l).map (fun c => BitVec.ofNat 8 (c.getD 0 0 + 16 * c.getD 1 0)) else l.flatMap (leBytes (w / 8))

/-- Elements of a byte string, w bits each. -/
def unpackEls (w : Nat) (b : List Byte) : List Nat :=
  if w = 4 then b.flatMap (fun x => [x.toNat % 16, x.toNat / 16]) else (chunks (w / 8) b).map leNat

/-- One row of a head in a pool's format: data bytes and scale bytes. -/
def Pool.quant (p : Pool) (sat : Bool) (l : List Num) : List Byte × List Byte :=
  let f := p.fmt.toNat
  if f < 2 then (l.flatMap (fun x => leBytes 2 (encodeEl (if f = 0 then 7 else 6) sat x)), [])
  else
    let bs := (chunks 32 l).map (kvBlock f p.scale)
    (packEls (kvBits f) (bs.flatMap (·.2)), bs.flatMap (fun b => leBytes (if p.scale then 2 else 1) b.1))

/-- The planes of a page: offset and row bytes, the token plane first (14 Table 14-2). -/
def Pool.planes (p : Pool) (t : Nat) : List (Nat × Nat) :=
  (0, 4) :: (List.range (2 * p.heads.toNat)).flatMap (fun h =>
    let o := 4 * t + h * t * (p.eBytes + p.sBytes)
    [(o, p.eBytes), (o + t * p.eBytes, p.sBytes)])

/-- Rows moved from one place to another, plane by plane: n rows. -/
def Dev.copyRows (d : Dev) (acc : Acc) (planes : List (Nat × Nat)) (src sr dst dr n : Nat) : WrR :=
  planes.foldl (fun (x : WrR) pl =>
    if isExc x.st || pl.2 * n = 0 then x
    else
      let r := x.d.readBytes acc (src + pl.1 + sr * pl.2) (n * pl.2)
      if isExc r.st then { d := r.d.poisonRange acc (dst + pl.1 + dr * pl.2) (n * pl.2), st := r.st, fail := r.fail }
      else
        let w := r.d.writeBytes acc (dst + pl.1 + dr * pl.2) r.bytes
        { d := w.d, st := thenSt x.st (thenSt r.st w.st), fail := w.fail }) { d := d }

/-- Rows quantised and written from row r0 of a page: K rows, then V rows (14 R300, R301). -/
def Dev.writeRows (d : Dev) (acc : Acc) (po : Pool) (sat : Bool) (base t r0 rows : Nat) (vals : List Num) : WrR :=
  let hd := po.headDim
  let g := po.heads.toNat
  (List.range (2 * g)).foldl (fun (x : WrR) hv =>
    let h := hv / 2
    let v := hv % 2
    let qs := (List.range rows).map (fun i => po.quant sat ((vals.drop (((v * rows + i) * g + h) * hd)).take hd))
    let o := base + 4 * t + hv * t * (po.eBytes + po.sBytes)
    let w := x.d.writeBytes acc (o + r0 * po.eBytes) (qs.flatMap (·.1))
    let w2 := w.d.writeBytes acc (o + t * po.eBytes + r0 * po.sBytes) (qs.flatMap (·.2))
    { d := w2.d, st := thenSt x.st (thenSt w.st w2.st), fail := 0 }) { d := d }

/-! KV_APPEND (14 R301, R307, 15 R334). -/

/-- Bytes of SRC. -/
def appendBytes (p : Pkt) (po : Pool) : Nat :=
  2 * p.f 3 15 0 * po.heads.toNat * po.headDim * (if p.f 3 19 16 == 8 then 4 else 2)

/-- KV_APPEND; owner is the VERIFY that runs it, where one does: its rows are then tentative and recorded (12 R273).
Another owner's page ends it and logs nothing; DEDUCED: log 95. -/
def Dev.opAppend (d : Dev) (p : Pkt) (e : Env) (inside : Option (QRef × BitVec 16)) : OpR :=
  let rows := p.f 3 15 0
  let tent := bit (p.word 3) 20 || inside.isSome
  let acc := d.kacc p e
  d.onDesc p e (fun d k a x =>
    let po := d.pool k
    let mine := fun (v : RunVerify) => inside == some (v.q, v.tag)
    let other := tent && d.disp.verifies.any (fun v => !mine v && v.pages.contains a)
    let full := match d.disp.verifies.find? mine with | some v => !v.pages.contains a && 1024 ≤ v.pages.length | none => false
    if rows = 0 || x.ref = 0 || !(p.f 3 19 16 == 6 || p.f 3 19 16 == 7 || p.f 3 19 16 == 8) then { d := d, st := sBadParam }
    else if !d.ownsPage p.q x then { d := d, st := sNotOwner }
    else if (!tent && 0 < x.tlen) || (tent && 64 < x.tlen + rows) || 2 ^ x.log2 < x.len + x.tlen + rows || (x.shared && x.ref = 1)
        || other || full then { d := d, st := sBadParam }
    else if !d.dpaOk p.owner x.base (po.pageBytes x.log2) then permAt d x.base
    else
      let src := d.readP p e (p.f 2 47 0) (appendBytes p po)
      if isExc src.st then { d := src.d, st := src.st, res := src.fail }
      else
        let vals := (unpackEls (fmtBits (p.f 3 19 16)) src.bytes).map (decodeEl (p.f 3 19 16))
        -- copy-on-write
        let c : Option (WrR × Nat × PDesc) :=
          if x.ref ≤ 1 then some ({ d := src.d }, a, x)
          else match src.d.allocPage k (po.unitsOf x.log2) with
            | none => none
            | some (d, s) =>
              let a2 := d.descOf k s
              let qs := d.streamOf p.q
              let y : PDesc := { base := d.canon po.base.toNat + s * po.unitBytes, log2 := x.log2, fmt := po.fmt.toNat, scale := po.scale, pool := k % 64,
                                 ref := 1, part := x.part, stream := if qs = 0x1FFF then x.stream else qs, len := x.len }
              let pls := po.planes (2 ^ x.log2)
              let w := d.copyRows acc (pls.take 1) x.base 0 y.base 0 (2 ^ x.log2)
              let w2 := w.d.copyRows acc (pls.drop 1) x.base 0 y.base 0 x.len
              some ({ w2 with st := thenSt w.st w2.st }, a2, y)
        match c with
        | none => { d := src.d.logKpm k 2 (some a), st := sPoolEmpty }
        | some (w, a2, y) =>
          if !d.dpaOk p.owner a2 32 then permAt src.d a2
          else if !d.dpaOk p.owner y.base (po.pageBytes y.log2) then permAt src.d y.base
          else if isExc w.st then { d := w.d.freePage k (w.d.slotOf k a2), st := w.st, res := w.fail }
          else
            let d := if a2 = a then w.d else w.d.writeDesc acc a { x with ref := x.ref - 1 }
            let t := 2 ^ y.log2
            let r := d.writeRows acc po p.outSat y.base t (y.len + y.tlen) rows vals
            if isExc r.st then { d := if a2 = a then r.d else r.d.writeDesc acc a2 y, st := r.st }
            else
              let y := if tent then { y with tlen := y.tlen + rows } else { y with len := y.len + rows }
              let d := r.d.writeDesc acc a2 y
              let d := d.count (some p.owner) 1 10 rows
              let d := match inside with
                | none => d
                | some _ => { d with disp := { d.disp with verifies := d.disp.verifies.map (fun v =>
                    if mine v && !v.pages.contains a2 then
                      { v with pages := v.pages ++ [a2], mixed := if a2 = a && 0 < x.tlen then v.mixed ++ [a2] else v.mixed }
                    else v) } }
              { d := d, st := thenSt src.st (thenSt w.st r.st), res := a2 % 2 ^ 56 + 2 ^ 56 * b2n (a2 != a),
                wrote := [(a2, 32), (y.base, po.pageBytes y.log2)] })

/-! KV_COMMIT and KV_ROLLBACK (14 R308). -/

/-- Pages no longer recorded against a VERIFY. -/
def Dev.unrecord (d : Dev) (a : Nat) : Dev :=
  { d with disp := { d.disp with verifies := d.disp.verifies.map (fun v =>
      { v with pages := v.pages.filter (fun x => x != a), mixed := v.mixed.filter (fun x => x != a) }) } }

/-- Tentative rows named by l kept, the others discarded: for a page whose descriptor has been read. -/
def Dev.commitRows (d : Dev) (acc : Acc) (k a : Nat) (x : PDesc) (l : List Nat) : WrR :=
  let po := d.pool k
  let w := ((List.range l.length).zip l).foldl (fun (w : WrR) ji =>
    if isExc w.st || ji.1 = ji.2 then w
    else
      let r := w.d.copyRows acc (po.planes (2 ^ x.log2)) x.base (x.len + ji.2) x.base (x.len + ji.1) 1
      { r with st := thenSt w.st r.st }) { d := d }
  if isExc w.st then w
  else
    let d := w.d.writeDesc acc a { x with len := x.len + l.length, tlen := 0 }
    { w with d := d.count acc.owner 1 11 l.length }

/-- A list of tentative rows that KV_COMMIT takes. -/
def listOk (tlen : Nat) (l : List Nat) : Bool := l.all (fun i => i < tlen) && (l.zip (l.drop 1)).all (fun p => p.1 < p.2)

/-- KV_COMMIT. -/
def Dev.opCommit (d : Dev) (p : Pkt) (e : Env) : OpR :=
  let n := p.f 3 6 0
  d.onDesc p e (fun d k a x =>
    if !d.ownsPage p.q x then { d := d, st := sNotOwner }
    else if 64 < n || x.ref = 0 then { d := d, st := sBadParam }
    else
      let r := d.readP p e (p.f 2 47 0) (2 * n)
      let l := (chunks 2 r.bytes).map leNat
      if isExc r.st then { d := r.d, st := r.st, res := r.fail }
      else if !listOk x.tlen l then { d := r.d, st := sBadParam }
      else if !d.dpaOk p.owner x.base ((d.pool k).pageBytes x.log2) then permAt r.d x.base
      else
        let w := r.d.commitRows (d.kacc p e) k a x l
        { d := if isExc w.st then w.d else w.d.unrecord a, st := thenSt r.st w.st, res := if isExc w.st then w.fail else n + 2 ^ 16 * (x.tlen - n),
          wrote := [(a, 32), (x.base, (d.pool k).pageBytes x.log2)] })

/-- KV_ROLLBACK. -/
def Dev.opRollback (d : Dev) (p : Pkt) (e : Env) : OpR :=
  d.onDesc p e (fun d _ a x =>
    if !d.ownsPage p.q x then { d := d, st := sNotOwner }
    else if x.ref = 0 then { d := d, st := sBadParam }
    else { d := (d.writeDesc (d.kacc p e) a { x with tlen := 0 }).unrecord a, res := 2 ^ 16 * x.tlen, wrote := [(a, 32)] })

/-- Every page recorded against a VERIFY rolled back (15 R340, 11 R258). -/
def Dev.rollbackAll (d : Dev) (e : Env) (v : RunVerify) : Dev :=
  v.pages.foldl (fun d a =>
    let acc : Acc := { owner := some (qOwner v.q), env := e }
    let r := d.readDesc acc a
    if isExc r.2.1 then r.1 else r.1.writeDesc acc a { r.2.2 with tlen := 0 }) d

/-! The Arbor (14 R309-R314). -/

/-- A node (14 Table 14-4). -/
structure ANode where
  /-- HASH. -/
  hash : Nat := 0
  /-- PARENT. -/
  parent : Nat := 0
  /-- PAGE. -/
  page : Nat := 0
  /-- CHILDREN. -/
  children : Nat := 0
  /-- STATE. -/
  state : Nat := 0
  /-- DEPTH. -/
  depth : Nat := 0
deriving DecidableEq, Repr, Inhabited

/-- Bytes 0-31 of a node. -/
def ANode.bytes (x : ANode) : List Byte :=
  leBytes 8 x.hash ++ leBytes 8 (x.parent % 2 ^ 56) ++ leBytes 8 (x.page % 2 ^ 56) ++ leBytes 2 x.children ++ leBytes 1 x.state ++ leBytes 1 0
    ++ leBytes 4 x.depth
/-- The node 32 bytes hold. -/
def ANode.ofBytes (b : List Byte) : ANode :=
  { hash := fieldAt b 0 8, parent := bf (fieldAt b 8 8) 55 0, page := bf (fieldAt b 16 8) 55 0, children := fieldAt b 24 2, state := fieldAt b 26 1,
    depth := fieldAt b 28 4 }

/-- A node read. -/
def Dev.readNode (d : Dev) (acc : Acc) (a : Nat) : Dev × BitVec 16 × ANode :=
  let r := d.readBytes acc a 32
  (r.d, r.st, ANode.ofBytes r.bytes)
/-- A node written by a conditional store of the operation's slot; it waits for the end of another slot's exclusive hold of the
granule (10 R235, log 79). -/
def Dev.writeNode (d : Dev) (acc : Acc) (a : Nat) (x : ANode) : Dev :=
  let d := (d.kpm.slots.filter (fun s => some s.1 != acc.slot && s.2.excl == some (alignDown a 256))).foldl (fun d s => d.endHold acc.env s.1) d
  (d.writeBytes acc a x.bytes).d

/-- Block size of a pool's Arbor (14 R309). -/
def Pool.arborB (p : Pool) : Nat := if p.kind then 2 ^ (p.arbLog2.toNat + 4) else 256
/-- H_k from H_(k-1) and a block's tokens (14 R309). -/
def arborHash (key h : Nat) (blk : List Byte) : Nat := sipHash13 key (leBytes 8 h ++ blk)
/-- DPA of slot h of a node area. -/
def Dev.nodeAddr (d : Dev) (k h : Nat) : Nat := d.canon (d.pool k).arb.toNat + 256 * (h % 2 ^ (d.pool k).nodesLog2.toNat)

/-- What a walk over the Arbor has come to. -/
structure ArbR where
  /-- The module. -/
  d : Dev
  /-- STATUS. -/
  st : BitVec 16 := 0
  /-- The offending DPA of an E_PERM. -/
  bad : Nat := 0
  /-- The node or slot found. -/
  node : Option Nat := none

/-- A walk over the probe of a hash for the matching node (14 R310, R311), each DPA it uses checked (12 R263). -/
def Dev.probe (d : Dev) (acc : Acc) (k h parent depth : Nat) (blk : List Byte) : Nat → Nat → ArbR
  | 0, _ => { d := d }
  | f + 1, i =>
    let o := acc.owner.getD 8
    let a := d.nodeAddr k (h + i)
    let r := d.readNode acc a
    let x := r.2.2
    if !d.dpaOk o a 32 then { d := d, st := sPerm, bad := a }
    else if isExc r.2.1 then { d := r.1, st := r.2.1 }
    else if x.state = 0 then { d := r.1 }
    else if x.state = 1 && x.hash = h && x.parent = parent % 2 ^ 56 && x.depth = depth then
      let y := r.1.readDesc acc x.page
      if !d.dpaOk o x.page 32 then { d := r.1, st := sPerm, bad := x.page }
      else if isExc y.2.1 then { d := y.1, st := y.2.1 }
      else
        let t := y.1.readBytes acc y.2.2.base blk.length
        if !d.dpaOk o y.2.2.base blk.length then { d := y.1, st := sPerm, bad := y.2.2.base }
        else if isExc t.st then { d := t.d, st := t.st }
        else if t.bytes == blk then { d := t.d, node := some a }
        else (t.d.logKpm k 4 (some x.page)).probe acc k h parent depth blk f (i + 1)
    else r.1.probe acc k h parent depth blk f (i + 1)

/-- The first slot of a probe that is EMPTY or REMOVED. -/
def Dev.freeSlot (d : Dev) (acc : Acc) (k h : Nat) : Nat → Nat → ArbR
  | 0, _ => { d := d }
  | f + 1, i =>
    let a := d.nodeAddr k (h + i)
    let r := d.readNode acc a
    if !d.dpaOk (acc.owner.getD 8) a 32 then { d := d, st := sPerm, bad := a }
    else if isExc r.2.1 then { d := r.1, st := r.2.1 }
    else if r.2.2.state != 1 then { d := r.1, node := some a }
    else r.1.freeSlot acc k h f (i + 1)

/-- ARBOR_MATCH over the blocks of the tokens (14 R312): how it ended, and the pages referenced. -/
def Dev.matchWalk (d : Dev) (acc : Acc) (k key : Nat) : List (List Byte) → Nat → Nat → Nat → List Nat → ArbR × List Nat
  | [], _, _, _, out => ({ d := d }, out)
  | blk :: rest, h, parent, depth, out =>
    let h := arborHash key h blk
    let r := d.probe acc k h parent depth blk 16 0
    match r.node with
    | none => (r, out)
    | some nd =>
      let n := r.d.readNode acc nd
      let y := n.1.readDesc acc n.2.2.page
      if isExc y.2.1 then ({ d := y.1, st := y.2.1 }, out)
      else if y.2.2.shared && y.2.2.node = nd % 2 ^ 56 && y.2.2.ref < 65535 then
        (y.1.writeDesc acc n.2.2.page { y.2.2 with ref := y.2.2.ref + 1 }).matchWalk acc k key rest h nd (depth + 1) (out ++ [n.2.2.page])
      else ({ d := y.1 }, out)

/-- Key of a pool's partition (14 R309). -/
def Dev.arborKey (d : Dev) (k : Nat) : Nat := (tget d.kpm.keys (d.pool k).owner.toNat 0).toNat

/-- ARBOR_MATCH. -/
def Dev.opMatch (d : Dev) (p : Pkt) (e : Env) : OpR :=
  let site := p.f 4 2 0
  let k := poolKey site (p.f 4 13 8)
  let acc := d.kacc p e
  if 6 ≤ site || !d.poolOk k then { d := d, st := sBadParam }
  else if p.owner != 8 && (d.pool k).owner.toNat != p.owner then { d := d, st := sPerm }
  else
    let b := (d.pool k).arborB
    let n := p.f 2 31 0 / b
    let r := d.readP p e (p.f 1 47 0) (4 * n * b)
    if isExc r.st then { d := r.d, st := r.st }
    else
      let m := r.d.matchWalk acc k (d.arborKey k) (chunks (4 * b) r.bytes) 0 0 1 []
      let w := m.1.d.writeP p e (p.f 3 47 0) (m.2.flatMap (leBytes 8))
      { d := w.d.count (some p.owner) 1 12 m.2.length, st := thenSt r.st (thenSt m.1.st w.st),
        res := if m.1.st == sPerm then m.1.bad % 2 ^ 56 else b * m.2.length % 2 ^ 32 + 2 ^ 32 * m.2.length,
        wrote := dpaPieces p.leaves (p.f 3 47 0) (8 * m.2.length) }

/-- What an ARBOR_INSERT has come to. -/
structure InsR where
  /-- The module. -/
  d : Dev
  /-- STATUS. -/
  st : BitVec 16 := 0
  /-- The offending DPA of an E_PERM. -/
  bad : Nat := 0
  /-- Blocks inserted. -/
  ins : Nat := 0
  /-- Blocks already present. -/
  pres : Nat := 0
  /-- Ranges written. -/
  wrote : List (Nat × Nat) := []

/-- An ARBOR_INSERT that stops. -/
def InsR.stop (x : InsR) (d : Dev) (st : BitVec 16) (bad : Nat := 0) : InsR := { x with d := d, st := st, bad := bad }

/-- CHILDREN of a node changed by one, where it is LIVE. -/
def Dev.addChild (d : Dev) (acc : Acc) (a : Nat) (up : Bool) : Dev × BitVec 16 × Bool :=
  let r := d.readNode acc a
  if isExc r.2.1 then (r.1, r.2.1, false)
  else if up && r.2.2.state != 1 then (r.1, sOk, false)
  else (r.1.writeNode acc a { r.2.2 with children := if up then (r.2.2.children + 1) % 65536 else r.2.2.children - 1 }, sOk, true)

/-- A failed check of a block's page (14 R313 step 1, 12 R263): the descriptor z at DPA dd, in the descriptor table of pool pk. -/
def Dev.insertCheck (d : Dev) (p : Pkt) (k pk dd n : Nat) (z : PDesc) : Option (BitVec 16 × Nat) :=
  if !d.ownsPage p.q z then some (sNotOwner, 0)
  else if z.ref = 0 || z.shared || z.len != (d.pool k).arborB || z.tlen != 0 || pk != k then some (sBadParam, 0)
  else if !d.dpaOk p.owner dd 32 then some (sPerm, dd)
  else if !d.dpaOk p.owner z.base n then some (sPerm, z.base)
  else none

/-- Steps 3 to 5 of ARBOR_INSERT for one block of tokens (14 R313): the slot claimed, or how the command stops. -/
def insertBlock (acc : Acc) (k h parent depth dd : Nat) (z : PDesc) (x : InsR) : InsR × Option Nat :=
  let c := if parent = 0 then (x.d, sOk, true) else x.d.addChild acc parent true
  if isExc c.2.1 || !c.2.2 then (x.stop c.1 c.2.1, none)
  else
    let f := c.1.freeSlot acc k h 16 0
    match f.node with
    | none =>
      let d := if parent = 0 then f.d else (f.d.addChild acc parent false).1
      (x.stop (if isExc f.st then d else d.logKpm k 3 (some dd)) f.st f.bad, none)
    | some slot =>
      let d := f.d.writeNode acc slot { hash := h, parent := parent, page := dd, state := 1, depth := depth }
      let po := d.pool k
      let d := d.setPool k { po with live := po.live + 1 }
      let d := d.writeDesc acc dd { z with shared := true, node := slot, stream := 0x1FFF, ref := z.ref + 1 }
      ({ x with d := d, ins := x.ins + 1, wrote := x.wrote ++ [(slot, 32), (dd, 32)] }, some slot)

/-- ARBOR_INSERT from block i on (14 R313); n blocks are left. -/
def insertWalk (p : Pkt) (e : Env) (acc : Acc) (k key : Nat) : Nat → Nat → Nat → Nat → Nat → InsR → InsR
  | 0, _, _, _, _, x => x
  | n + 1, i, h, parent, depth, x =>
    let b := 4 * (x.d.pool k).arborB
    let t := x.d.readP p e (p.f 1 47 0 + b * i) b
    if isExc t.st then x.stop t.d t.st
    else
      let h := arborHash key h t.bytes
      let r := t.d.probe acc k h parent depth t.bytes 16 0
      match r.node with
      | some nd => insertWalk p e acc k key n (i + 1) h nd (depth + 1) { x with d := r.d, pres := x.pres + 1 }
      | none =>
        if isExc r.st then x.stop r.d r.st r.bad
        else
          let l := r.d.readP p e (p.f 3 47 0 + 8 * i) 8
          let dd := l.d.canon (leNat l.bytes % 2 ^ 56)
          if isExc l.st then x.stop l.d l.st
          else match l.d.poolAt dd with
            | none => if l.d.dpaOk p.owner dd 32 then x.stop l.d sBadParam else x.stop l.d sPerm dd
            | some pk =>
              let y := l.d.readDesc acc dd
              let z := y.2.2
              if isExc y.2.1 then x.stop y.1 y.2.1
              else match y.1.insertCheck p k pk dd b z with
                | some s => x.stop y.1 s.1 s.2
                | none =>
                  let w := y.1.writeBytes acc z.base t.bytes
                  let x := { x with wrote := x.wrote ++ [(z.base, b)] }
                  if isExc w.st then x.stop w.d w.st
                  else match insertBlock acc k h parent depth dd z { x with d := w.d } with
                    | (x, none) => x
                    | (x, some slot) => insertWalk p e acc k key n (i + 1) h slot (depth + 1) x

/-- ARBOR_INSERT. The pool is that of the first descriptor named. Its RESULT is the counts whatever the status (14 R313), but for
the DPA that R263 refuses. -/
def Dev.opInsert (d : Dev) (p : Pkt) (e : Env) : OpR :=
  let ntok := p.f 2 31 0
  if ntok = 0 then { d := d }
  else
    let r0 := d.readP p e (p.f 3 47 0) 8
    let d := r0.d
    let dd := d.canon (leNat r0.bytes % 2 ^ 56)
    if isExc r0.st then { d := d, st := r0.st }
    else match d.poolAt dd with
      | none => if d.dpaOk p.owner dd 32 then { d := d, st := sBadParam } else permAt d dd
      | some k =>
        let b := (d.pool k).arborB
        if !d.poolOk k || ntok % b != 0 then { d := d, st := sBadParam }
        else if p.owner != 8 && (d.pool k).owner.toNat != p.owner then permAt d dd
        else
          let x := insertWalk p e (d.kacc p e) k (d.arborKey k) (ntok / b) 0 0 0 1 { d := d }
          { d := x.d, st := x.st, wrote := x.wrote,
            res := if x.st == sPerm then x.bad % 2 ^ 56 else x.ins % 65536 + 65536 * (x.pres % 65536) }

/-- ARBOR_REMOVE (14 R314). -/
def Dev.opRemove (d : Dev) (p : Pkt) (e : Env) : OpR :=
  let acc := d.kacc p e
  d.onDesc p e (fun d k a x =>
    if x.node = 0 || x.pinned then { d := d, st := sBadParam }
    else
      let nd := d.canon x.node
      let r := d.readNode acc nd
      if !d.dpaOk p.owner nd 32 then permAt d nd
      else if isExc r.2.1 then { d := r.1, st := r.2.1 }
      else if r.2.2.children != 0 then { d := r.1, st := sBadParam }
      else if !r.1.ownsPage p.q x then { d := r.1, st := sNotOwner }
      else if r.2.2.parent != 0 && !d.dpaOk p.owner r.2.2.parent 32 then permAt r.1 r.2.2.parent
      else
        let d := r.1.writeNode acc nd { r.2.2 with state := 2 }
        let po := d.pool k
        let d := d.setPool k { po with live := po.live - 1 }
        let c := if r.2.2.parent = 0 then (d, sOk, true) else d.addChild acc (d.canon r.2.2.parent) false
        let d := c.1.purgeRange x.base (po.pageBytes x.log2)
        { d := d.unref acc k a { x with shared := false, node := 0 }, st := c.2.1, wrote := [(nd, 32), (a, 32)] })

/-! Reservations and exclusive holds (10 R233-R235). -/

/-- The lowest idle operation slot of a site's KPM. -/
def Dev.idleSlot (d : Dev) (site : Nat) : Option Nat := ((List.range 8).map (fun i => 8 * site + i)).find? (fun k => (d.kslot k).st == 0)
/-- The slot that serves a packet. -/
def Dev.slotFor (d : Dev) (q : QRef) (tag : BitVec 16) : Option Nat :=
  (d.kpm.slots.find? (fun e => e.2.st != 0 && e.2.q == q && e.2.tag == tag)).map (·.1)

/-- The granule an Arbor command reserves next: the node of the page it names, or the slot its first block takes (14 R313, R314). -/
def Dev.arborGranule (d : Dev) (p : Pkt) (e : Env) : Option (Nat × Nat × Nat) :=
  if p.opc == 0x37 then
    let a := d.canon p.descA
    (d.poolAt a).map (fun k => (k, a, alignDown (d.canon (d.readDesc (d.kacc p e) a).2.2.node) 256))
  else
    let a := d.canon (leNat (d.readP p e (p.f 3 47 0) 8).bytes % 2 ^ 56)
    (d.poolAt a).map (fun k =>
      let blk := (d.readP p e (p.f 1 47 0) (4 * (d.pool k).arborB)).bytes
      (k, a, d.nodeAddr k (arborHash (d.arborKey k) 0 blk)))

/-- Conditional stores of a slot that failed (10 R233-R235): one whose reservation a write of this module broke since the reserved
load, and then those that c says other agents' writes broke, up to the sixteenth in a row, which takes the granule exclusively; no
write passes an exclusive hold. The failures in a row, those of c among them, and whether the granule is taken now. -/
def KSlot.failsOf (s : KSlot) (c : Contend) : Nat × Nat × Bool :=
  let broken := b2n (s.st != 0 && s.gran.isNone && s.excl.isNone)
  let base := s.fails + broken
  let more := if s.excl.isSome || (16 ≤ base && broken = 1) then 0 else min c.fails (if base < 16 then 16 - base else 1)
  (base + more, more, 16 ≤ base + more && s.fails < base + more)

/-- An Arbor command: run whole, or, with c.hold, stopped while its reservation or hold stands. It takes one of the eight slots of
its KPM, and waits while none is idle; DEDUCED in part: log 26. -/
def Dev.arborCmd (d : Dev) (p : Pkt) (c : Contend) (e : Env) (f : Dev → OpR) : Dev :=
  match d.arborGranule p e with
  | none => if c.hold then d else Dev.conclude p (f d)
  | some (k, a, g) =>
    match (d.slotFor p.q p.tag).orElse (fun _ => d.idleSlot (k / 64)) with
    | none => d
    | some s =>
      let x := d.kslot s
      let n := x.failsOf c
      let d := (List.range n.2.1).foldl (fun d _ => d.countRsv p.owner false) d
      let d := if n.2.2 then d.countRsv p.owner true else d
      let kept := x.st != 0 && x.fails == n.1
      let y : KSlot := { x with
        st := if n.2.2 || x.excl.isSome then 3 else if 0 < n.1 then 2 else 1,
        q := p.q, tag := p.tag, opc := p.opc, desc := a, gran := some g, fails := n.1,
        excl := if n.2.2 then some g else x.excl,
        exclAt := if n.2.2 then d.now else x.exclAt,
        since := if kept then x.since else d.now }
      let d := d.setSlot s y
      if c.hold then d
      else
        let r := f d
        Dev.conclude p { r with d := (r.d.setSlot s {}).releaseHeld e }

/-- A reservation reaches 64 us (10 R234). -/
def Dev.expireRsv (d : Dev) (k : Nat) : Dev :=
  let s := d.kslot k
  match s.gran with
  | some _ => (d.advTo (s.since + 64000)).dropRsv k
  | none => d

/-- An exclusive hold reaches 2 us (10 R235): the writes it held are performed. -/
def Dev.expireHold (d : Dev) (e : Env) (k : Nat) : Dev := d.endHold e k

/-! Registers (14 R309, R316). -/

/-- A write of KPM_PIN_LO by a function; DEDUCED in part: log 59. -/
def Dev.wrPin (d : Dev) (e : Env) (fn : Fn) (v : Nat) : Dev :=
  let key := fnKey fn
  let d := { d with kpm := { d.kpm with pinRef := tset d.kpm.pinRef key ((tget d.kpm.pinRef key false) && !bit v 2) } }
  let refuse := fun (d : Dev) => { d with kpm := { d.kpm with pinRef := tset d.kpm.pinRef key true } }
  if !bit v 0 && !bit v 1 then d
  else if bit v 0 && bit v 1 then refuse d
  else
    let a := d.canon (2 ^ 32 * (tget d.kpm.pinHi key 0).toNat + alignDown (v % 2 ^ 32) 32)
    match d.poolAt a with
    | none => refuse d
    | some k =>
      let acc : Acc := { owner := some (fnOwner fn), env := e }
      let r := d.readDesc acc a
      if !d.poolOk k || (fn != .pf && (d.pool k).owner.toNat != fnOwner fn) || isExc r.2.1 || r.2.2.ref = 0 || r.2.2.log2 = 0 then refuse r.1
      else r.1.writeDesc acc a { r.2.2 with pinned := bit v 0 }

/-- A write of word w of ARB_KEY_p: the write of word 3 takes effect, unless the partition's trees hold live nodes (14 decided case); DEDUCED in part: log 74. -/
def Dev.wrArbKey (d : Dev) (p w v : Nat) : Dev :=
  if w < 3 then { d with kpm := { d.kpm with keyW := tset d.kpm.keyW (4 * p + w) (BitVec.ofNat 32 v) } }
  else if d.kpm.pools.any (fun e => e.2.enable && e.2.owner.toNat == p && e.2.live != 0) then
    { d with kpm := { d.kpm with keyRef := true } }
  else
    let g := fun i => (tget d.kpm.keyW (4 * p + i) 0).toNat
    { d with kpm := { d.kpm with keys := tset d.kpm.keys p (BitVec.ofNat 128 (g 0 + 2 ^ 32 * g 1 + 2 ^ 64 * g 2 + 2 ^ 96 * (v % 2 ^ 32))) } }

/-- A function may write a pool's registers (14 R317). -/
def Dev.mayPool (d : Dev) (fn : Fn) (k : Nat) : Bool := fn == .pf || (d.pool k).owner.toNat == fnOwner fn

end Sys2Proof.Machine
end

