-- ==== Sys2Proof/Machine/Cancel.lean ====
section
/-!
DEFINITION. Machine/Cancel.lean: how a packet is cancelled, and ABORT (spec/11_queues_packets.md R254-R259, Table 11-4): found
at its doorbell, acted on at once, units that do not come to rest reset, and its own end.
-/
namespace Sys2Proof.Machine

/-! ABORTs found at a doorbell, their scope, and the doorbells they hold (11 R254, R255). -/

/-- The packets of a ring from slot s up to slot t, ABORTs already acted on left out: (slot, header). -/
def Dev.ringFrom (d : Dev) (x : Queue) : Nat → Nat → Nat → List (Nat × Header)
  | 0, _, _ => []
  | n + 1, s, t =>
    if s % x.sqSize == t % x.sqSize then []
    else if x.skip.contains (s % x.sqSize) then d.ringFrom x n ((s + 1) % x.sqSize) t
    else
      let h := d.peekHeader x s
      let left := (t + x.sqSize - s % x.sqSize) % x.sqSize
      (s % x.sqSize, h) :: d.ringFrom x n ((s + min (1 + h.len) left) % x.sqSize) t

/-- Queues that exist and are enabled. -/
def Dev.enabled (d : Dev) : List QRef := (d.queues.filter (fun e => e.2.enable)).map (fun e => keyQ e.1)

/-- The queues an ABORT covers, or the status that refuses it. -/
def Dev.abortScope (d : Dev) (q : QRef) (w : Nat) : List QRef × BitVec 16 :=
  let part := bf w 4 2
  let n := bf w 13 8
  let mg := bit w 14
  let all := d.enabled
  match q, bf w 1 0 with
  | .part p _, 0 => if mg then ([], sPerm) else (all.filter (fun x => qKey x == 64 * p.val + n), sOk)
  | .part p _, 1 => if mg || part != p.val then ([], sPerm) else (all.filter (fun x => qOwner x == p.val), sOk)
  | .part _ _, _ => ([], sPerm)
  | .mgmt _, 0 =>
    if mg then (if n / 16 != 0 || part != 0 then ([], sBadParam) else (all.filter (fun x => qKey x == 512 + n), sOk))
    else (all.filter (fun x => qKey x == 64 * part + n), sOk)
  | .mgmt _, 1 => if mg then ([], sPerm) else (all.filter (fun x => qOwner x == part), sOk)
  | .mgmt _, 2 => if mg then ([], sPerm) else (all.filter (fun x => x != q), sOk)
  | .mgmt _, _ => ([], sPerm)

/-- The packet at a slot is an ABORT that the Dispatcher acts on at its doorbell: it passes the checks of R247, R254 and R261 and
is no resubmission of a packet that is in the window or outstanding. -/
def Dev.abortAt (d : Dev) (q : QRef) (slot : Nat) : Option (Header × Nat × List QRef) :=
  let x := d.queue q
  let b := d.peek (x.slotAddr slot) 64
  let h := header (fieldAt b 0 8)
  let w := fieldAt b 8 8
  let ws := (chunks 8 b).map (fun b => BitVec.ofNat 64 (leNat b))
  let s := d.abortScope q w
  let tag := BitVec.ofNat 16 h.tag
  if h.opc == 0xF0 && h.len == 0 && h.fmt == 1 && h.flg < 16 && h.tag != 0 && d.sys.ready && reservedOk 0xF0 ws && s.2 == sOk
      && !d.tagOut q tag && !(bit h.flg 1 && x.window.any (fun e => e.tag == tag && e.opc == 0xF0))
  then some (h, w, s.1) else none

/-- The state of some queues set where they run. -/
def Dev.setRunning (d : Dev) (qs : List QRef) (old new : BitVec 2) : Dev :=
  qs.foldl (fun d q => let x := d.queue q; if x.st == old then d.setQueue q { x with st := new } else d) d

/-- An ABORT job changed. -/
def Dev.setAbort (d : Dev) (j : AbortJob) : Dev :=
  { d with disp := { d.disp with aborts := d.disp.aborts.map (fun x => if x.q == j.q && x.tag == j.tag && x.reg == j.reg then j else x) } }

/-- The ABORT that a queue carries under a tag; tag 0 is one asked for by Q_CTL.ABORT. -/
def Dev.abortOf (d : Dev) (q : QRef) (tag : BitVec 16) : Option AbortJob :=
  d.disp.aborts.find? (fun j => j.q == some q && j.tag == tag)

/-- A queue is in the scope of an ABORT that has not ended: its doorbells are held (11 Table 11-4 step 1). -/
def Dev.aborting (d : Dev) (q : QRef) : Bool := d.disp.aborts.any (fun j => j.target.contains q)

/-- The ABORT packets between head and tail, in ring order, found. -/
def Dev.findAborts (d : Dev) (q : QRef) : Dev :=
  let x := d.queue q
  let l := d.ringFrom x (x.sqSize + 1) x.sqHead.toNat x.sqTail.toNat
  l.foldl (fun d s =>
    if s.2.opc != 0xF0 then d
    else
      match d.abortAt q s.1 with
      | none => d
      | some (h, w, t) =>
        let j : AbortJob := { q := some q, tag := BitVec.ofNat 16 h.tag, slot := s.1, ord := d.disp.ord, scope := bf w 1 0, target := t, start := d.now }
        let x := d.queue q
        let d := d.setQueue q (Queue.skipSlots (x.skip.length + 1) { x with skip := x.skip ++ [s.1] })
        ({ d with disp := { d.disp with ord := d.disp.ord + 1, aborts := d.disp.aborts ++ [j] } }).setRunning t 1 2) d

/-- A new tail takes effect (11 R241, R255). -/
def Dev.applyTail (d : Dev) (q : QRef) (v : Nat) : Dev :=
  let x := d.queue q
  (d.setQueue q { x with sqTail := BitVec.ofNat 16 v, heldTail := none }).findAborts q

/-- Held doorbells of some queues released where no other ABORT still holds them. -/
def Dev.releaseTails (d : Dev) (qs : List QRef) : Dev :=
  qs.foldl (fun d q =>
    if d.aborting q then d
    else
      let d := d.setRunning [q] 2 1
      match (d.queue q).heldTail with
      | some v => d.applyTail q v.toNat
      | none => d) d

/-- An ABORT taken from those that run. -/
def Dev.dropAbort (d : Dev) (j : AbortJob) : Dev :=
  { d with disp := { d.disp with aborts := d.disp.aborts.filter (fun x => !(x.q == j.q && x.tag == j.tag && x.reg == j.reg)) } }

/-! Packets in flight. -/

/-- A KPM operation (14, 12 Table 12-7). -/
def isKpmOp (opc : Nat) : Bool := 0x30 ≤ opc && opc ≤ 0x37

/-- The reservation of a packet's KPM operation broken (10 R234). -/
def Dev.dropOwnRsv (d : Dev) (p : Pkt) : Dev := match d.slotFor p.q p.tag with | some s => d.dropRsv s | none => d

/-- A partition active, no PART_RESIZE adding to it. -/
def Part.noAdd (x : Part) : Part := { x with st := 1, addGroups := 0, addUnits := 0, addAffine := 0, addPartner := false }

/-- A KPM operation that has started runs to its end (11 R256), its reservation broken (10 R234). -/
def Dev.runKpm (d : Dev) (p : Pkt) (e : Env) : Dev :=
  let d := d.dropOwnRsv p
  let d := match d.slotFor p.q p.tag with | some s => d.setSlot s {} | none => d
  let r := match p.opc.toNat with
    | 0x30 => d.opAlloc p e
    | 0x31 => d.opAppend p e none
    | 0x32 => d.opFree p e
    | 0x33 => d.opCommit p e
    | 0x34 => d.opRollback p e
    | 0x35 => d.opMatch p e
    | 0x36 => d.opInsert p e
    | _ => d.opRemove p e
  Dev.conclude p { r with d := r.d.releaseHeld e }

/-- A DMA packet stopped at its next block boundary, or taken out of the packets that wait (13 R293). One whose descriptor carries
FENCE and has writes under way to the partner stays until they are answered. -/
def Dev.cancelDma (d : Dev) (e : Env) (st : BitVec 16) (p : Pkt) : Dev :=
  let n := p.f 2 11 8
  let ch := p.f 2 3 0
  let k := chKey n ch
  match (d.chan k).job with
  | some j =>
    if j.q == p.q && j.tag == p.tag then
      if !j.active && j.doneD = 0 then ((d.setChan k { d.chan k with job := none, st := 0 }).nextJob n ch).close p st 0
      else
        let d := d.stopChan k st
        d.drainChan e n ch (((d.chan k).job.map (fun j => j.blocks.length)).getD 0 + 2)
    else (d.setChan k { d.chan k with waiting := (d.chan k).waiting.filter (fun w => w != (p.q, p.tag)) }).close p st 0
  | none => (d.setChan k { d.chan k with waiting := (d.chan k).waiting.filter (fun w => w != (p.q, p.tag)) }).close p st 0

/-- The partner requests of a DMA packet given up: a later response counts as LATE_RSP. -/
def Dev.dropPrt (d : Dev) (p : Pkt) : Dev :=
  { d with zf := { d.zf with reqs := d.zf.reqs.filterMap (fun r =>
      if r.sync || r.ord != p.ord then some r else if r.ptag.isNone then none else some { r with dead := true }) } }

/-- A stopped DMA packet that still waits for the partner ends without its answers. -/
def Dev.giveUpDma (d : Dev) (e : Env) (p : Pkt) : Dev :=
  let d := d.dropPrt p
  if p.isDma && d.jobIs (chKey (p.f 2 11 8) (p.f 2 3 0)) p.q p.tag then d.drainChan e (p.f 2 11 8) (p.f 2 3 0) 2 else d

/-- ROLLED_BACK of an owner counts a VERIFY that commits nothing (15 R340). -/
def Dev.countRolled (d : Dev) (owner : Nat) : Dev :=
  if owner < 8 then let x := d.part owner; d.setPart owner { x with vRolled := satAdd x.vRolled 1 } else d

/-- A VERIFY whose commit has not begun: its tentative rows are rolled back (11 R258, 15 R340). -/
def Dev.cancelVerify (d : Dev) (e : Env) (st : BitVec 16) (p : Pkt) : Dev :=
  let d := match d.disp.verifies.find? (fun v => v.q == p.q && v.tag == p.tag) with
    | none => d
    | some v => d.rollbackAll e v
  let d := { d with disp := { d.disp with verifies := d.disp.verifies.filter (fun x => !(x.q == p.q && x.tag == p.tag)) } }
  (d.countRolled p.owner).close p st 0

/-- A packet is cancelled by cancelPkt: it is not yet done, or its digest is being taken and it is no VERIFY, whose commit has
begun (11 R258); and it is no KPM operation that has started. -/
def Pkt.cancels (p : Pkt) : Bool :=
  match p.phase with
  | .done => !p.trig.isEmpty && p.opc != 0x22
  | .taken => true
  | .started => !isKpmOp p.opc.toNat

/-- One packet taken and not completed is cancelled with status st (11 R255, R256); a packet whose effect is done, and a KPM
operation that has started, report their own status. A packet whose digest is still being taken ends with st and the digest is
given up (18, the decided case on ABORT). -/
def Dev.cancelPkt (d : Dev) (e : Env) (st : BitVec 16) (p : Pkt) : Dev :=
  match p.phase with
  | .done => if !p.cancels then d else d.draw.modPkt p.ord (fun x => { x with status := st, result := Config.freeValue d.free, trig := [] })
  | .taken => if p.opc == 0x22 then d.cancelVerify e st p else d.close p st 0
  | .started =>
    if isKpmOp p.opc.toNat then d
    else
      let d := d.abandon (fun q t => q == p.q && t == p.tag)
      let d := { d with pwr := { d.pwr with vopQ := d.pwr.vopQ.map (fun (j : VopJob) => if j.cmd == some (p.q, p.tag) then { j with cmd := none } else j) },
                        snp := d.snp.map (fun (e : Nat × SnpFn) => if e.2.cmd == some (p.q, p.tag) then (e.1, { e.2 with cmd := none }) else e) }
      match p.opc.toNat with
      | 0x22 => d.cancelVerify e st p
      | 0x40 => d.cancelDma e st p
      | 0x41 => d.cancelDma e st p
      | 0x50 =>
        let res := ((d.sendJob? p.q p.tag).map SendJob.ok).getD 0
        ({ d with disp := { d.disp with sends := d.disp.sends.filter (fun x => !(x.q == p.q && x.tag == p.tag)) } }).close p st res
      | 0x03 => d.close p st p.wanted.toNat
      | 0x61 => (if p.waitRid != 0 then d.setPart (p.f 1 2 0) (d.part (p.f 1 2 0)).noAdd else d).close p st 0
      | 0x62 =>
        (match d.abortOf p.q p.tag with
         | some j => ((d.dropAbort j).setPart j.part { d.part j.part with st := 1 }).releaseTails j.target
         | none => d).close p st 0
      | _ => d.close p st 0

/-- Q_CNT.ABORTED counts n cancelled packets (11 Table 11-6). -/
def Dev.countAborted (d : Dev) (q : QRef) (n : Nat) : Dev :=
  let x := d.queue q
  if n = 0 then d else d.setQueue q { x with aborted := satAdd x.aborted n }

/-! Packets still in their rings (11 R255). -/

/-- Slots of an ABORT job's queue that its packets still occupy. -/
def Dev.liveSkips (x : Queue) (head : Nat) : List Nat :=
  let w := (x.sqTail.toNat + x.sqSize - head) % x.sqSize
  x.skip.filter (fun s => (s + x.sqSize - head) % x.sqSize < w)

/-- A packet that is cancelled in its ring: it is done, with its entry still to be written. The RESULT of a VERIFY is zero
(15 R340); of another packet it is open (log 8). -/
def Dev.cancelSlot (d : Dev) (q : QRef) (st : BitVec 16) (h : Header) : Dev :=
  let verify := h.opc == 0x22
  let d := if verify then d.countRolled (qOwner q) else d
  ({ d with disp := { d.disp with
    ord := d.disp.ord + 1,
    pkts := d.disp.pkts ++ [{ q := q, tag := BitVec.ofNat 16 h.tag, opc := BitVec.ofNat 8 h.opc, flg := BitVec.ofNat 8 h.flg, ord := d.disp.ord,
                              phase := .done, status := st, result := if verify then 0 else Config.freeValue d.free }] } } : Dev).draw

/-- The packets ahead of slot t in a ring cancelled: each gets its entry; the head moves to t. Where the head is past t already,
nothing is ahead of it. -/
def Dev.cancelRing (d : Dev) (q : QRef) (t : Nat) (st : BitVec 16) : Dev × Nat :=
  let x := d.queue q
  let ahead := fun (s : Nat) => (s + x.sqSize - x.sqHead.toNat) % x.sqSize
  if ahead x.sqTail.toNat < ahead t then (d, 0)
  else
  let l := d.ringFrom x (x.sqSize + 1) x.sqHead.toNat t
  let d := l.foldl (fun (d : Dev) e => d.cancelSlot q st e.2) d
  let x := d.queue q
  let x := { x with sqHead := BitVec.ofNat 16 (t % x.sqSize) }
  let x := Queue.skipSlots x.skip.length { x with skip := Dev.liveSkips x x.sqHead.toNat }
  (d.setQueue q x, l.length)

/-! Acting (11 Table 11-4). -/

/-- Bytes that a cancelled packet had already written stand in the ranges it writes (11 R256); a VERIFY has written no PATH
(15 R340). -/
def Dev.applyMix (d : Dev) (e : Env) (hit : List Pkt) (mix : List (Nat × Byte)) : Dev :=
  mix.foldl (fun d m =>
    match hit.find? (fun p => p.phase == .started && p.opc != 0x22 && p.uses.any (fun u => u.2.2 && u.1 ≤ m.1 && m.1 < u.1 + u.2.1)) with
    | some p => (d.writeBytes { owner := some p.owner, env := e } m.1 [m.2]).d
    | none => d) d

/-- A unit that may have to be reset: a core, a DMA channel, a KPM operation slot or a link request slot (11 Table 11-4 step 6). -/
def hasUnit (p : Pkt) : Bool :=
  p.phase == .started && (0x10 ≤ p.opc.toNat && p.opc.toNat ≤ 0x51 || (p.opc == 0x02 && p.waitRid != 0))

/-- Steps 1-5 for some queues: packets in flight and in the rings are cancelled, but for those whose unit has not come to rest; the
store buffers of their cores drain (10 R226 item 6), and the reservations of started KPM operations break (10 R234). Answers the
packets cancelled and the numbers of those that are stuck; DEDUCED in part: log 43. -/
def Dev.cancelScope (d : Dev) (e : Env) (a : AbortEnv) (st : BitVec 16) (qs : List QRef) (limit : Option (QRef × Nat)) : Dev × Nat × List Nat :=
  let hit := d.disp.pkts.filter (fun p => qs.contains p.q)
  let isStuck := fun (p : Pkt) => hasUnit p && a.stuck.contains (p.q, p.tag)
  let act := hit.filter (fun p => p.cancels && !isStuck p)
  let stuck := hit.filter isStuck
  let d := d.applyMix e act a.mix
  let d := (hit.filter (fun p => p.phase == .started && isKpmOp p.opc.toNat)).foldl Dev.dropOwnRsv d
  let d := act.foldl (fun d p => ((d.cancelPkt e st p).drainPkt e p).countAborted p.q 1) d
  let r := qs.foldl (fun (x : Dev × Nat) q =>
    let t := match limit with
      | some (lq, s) => if lq == q then s else (x.1.queue q).sqTail.toNat
      | none => (x.1.queue q).sqTail.toNat
    let y := x.1.cancelRing q t st
    (y.1.countAborted q y.2, x.2 + y.2)) (d, 0)
  (r.1, act.length + r.2, stuck.map (·.ord))

/-- Steps 1-5 of an ABORT. -/
def Dev.actAbort (d : Dev) (e : Env) (a : AbortEnv) (j : AbortJob) : Dev :=
  if j.acted then d
  else
    let limit := match j.q with | some q => if j.reg then none else some (q, j.slot) | none => none
    let r := d.cancelScope e a sAborted j.target limit
    r.1.setAbort { j with acted := true, cancelled := r.2.1, stuck := r.2.2 }

/-- Step 6: a unit that has not come to rest is reset; the packet ends with E_ABORT_FORCED (11 R255, R256). -/
def Dev.forcePkt (d : Dev) (e : Env) (p : Pkt) : Dev :=
  let d := (d.abandon (fun q t => q == p.q && t == p.tag)).dropPrt p
  let d := match d.slotFor p.q p.tag with
    | some s => ((d.dropRsv s).setSlot s {}).releaseHeld e
    | none => d
  let d := if p.isDma then
      let n := p.f 2 11 8
      let ch := p.f 2 3 0
      let k := chKey n ch
      if d.jobIs k p.q p.tag then (d.setChan k { d.chan k with job := none, st := 0 }).nextJob n ch
      else d.setChan k { d.chan k with waiting := (d.chan k).waiting.filter (fun w => w != (p.q, p.tag)) }
    else d
  let d := { d with units := d.units.filter (fun u => !p.on.contains (u.1 / 6)),
                    disp := { d.disp with sends := d.disp.sends.filter (fun x => !(x.q == p.q && x.tag == p.tag)) } }
  if p.opc == 0x22 then d.cancelVerify e sAbortForced p else d.close p sAbortForced 0

/-- Step 6 for packets by their numbers, 300 us after start: those that are not done are reset, counted and leave their mix of old
and new data. Answers how many there were. -/
def Dev.forceAll (d : Dev) (e : Env) (start : Nat) (ords : List Nat) : Dev × Nat :=
  let l := d.disp.pkts.filter (fun p => ords.contains p.ord && p.phase != .done)
  if l.isEmpty then (d, 0)
  else
    let d := (d.advTo (start + 300000)).applyMix e l e.ab.mix
    (l.foldl (fun d p => ((d.forcePkt e p).drainPkt e p).countAborted p.q 1) d, l.length)

/-- The units still not at rest 300 us after the doorbell are reset. -/
def Dev.forceAbort (d : Dev) (e : Env) (j : AbortJob) : Dev :=
  let r := (d.advTo (j.start + 300000)).forceAll e j.start j.stuck
  r.1.setAbort { j with stuck := [], cancelled := j.cancelled + r.2, resets := j.resets + r.2 }

/-! The end. -/

/-- An ABORT may end: every packet it covers has its entry. -/
def Dev.abortDone (d : Dev) (j : AbortJob) : Bool := j.acted && !d.disp.pkts.any (fun p => j.target.contains p.q)

/-- STATUS of an ABORT (11 R255). -/
def AbortJob.status (j : AbortJob) : BitVec 16 := if j.resets = 0 then sOk else sAbortForced
/-- RESULT of an ABORT: packets cancelled and units reset, saturating. -/
def AbortJob.result (j : AbortJob) : Nat := min j.cancelled 65535 + 65536 * min j.resets 65535

/-- The status entry of an ABORT packet, or Q_STAT.LAST_ABORT; held doorbells are released, and packets that named it go on. -/
def Dev.reportAbort (d : Dev) (e : Env) (j : AbortJob) (q : QRef) : Dev :=
  let d := d.dropAbort j
  let d := if j.reg then d.setQueue q { d.queue q with lastAbort := if j.resets = 0 then 1 else 2 }
    else
      let p : Pkt := { q := q, tag := j.tag, opc := 0xF0, status := j.status, result := BitVec.ofNat 64 j.result }
      let irq := bit (d.peekHeader (d.queue q) j.slot).flg 2
      let d := (d.writeEntry e 5 q j.tag p.status p.result irq).enterWindow p
      (d.count (some (qOwner q)) 1 (if isExc p.status then 14 else 13) 1).wakeDeps j.ord p.status
  d.releaseTails j.target

/-- Step 8 (11 R254, R255). -/
def Dev.endAbort (d : Dev) (e : Env) (j : AbortJob) : Dev :=
  match j.q with
  | none => d
  | some q =>
    if j.kind == .destroy || !d.abortDone j || (!j.reg && (d.queue q).cqFree ≤ (d.inflight q).length) then d
    else d.reportAbort e j q

/-! Aborts that other commands perform at once (11 R240, 09 R217, 03 R90). -/

/-- A queue's packets that are done completed at once, oldest first, where the completion ring has room; their writes are performed
before. -/
def Dev.retireAll (d : Dev) (e : Env) (q : QRef) : Dev :=
  ((d.inflight q).filter (fun p => p.phase == .done)).foldl (fun d p =>
    let d := d.settle e p
    match d.disp.pkts.find? (fun x => x.ord == p.ord) with
    | none => d
    | some x =>
      if (d.queue q).cqFree != 0 then d.retire e x
      else { d with disp := { d.disp with pkts := d.disp.pkts.filter (fun y => y.ord != x.ord) } }) d

/-- Steps 1-5 and 7 for some queues in one command: started KPM operations run to their ends, all else is cancelled but for packets
whose unit has not come to rest, and every packet that is done gets its entry. Answers the packets cancelled, and the stuck ones. -/
def Dev.cancelNow (d : Dev) (e : Env) (qs : List QRef) : Dev × Nat × List Nat :=
  let isStuck := fun (p : Pkt) => hasUnit p && e.ab.stuck.contains (p.q, p.tag)
  let kp := d.disp.pkts.filter (fun p => qs.contains p.q && p.phase == .started && isKpmOp p.opc.toNat && !isStuck p)
  let d := kp.foldl (fun d p => d.runKpm p e) d
  let r := d.cancelScope e e.ab sAborted qs none
  let rest := r.1.disp.pkts.filter (fun p => qs.contains p.q && p.phase == .started && !r.2.2.contains p.ord)
  let d := rest.foldl (fun d p => d.giveUpDma e p) r.1
  (qs.foldl (fun d q => d.retireAll e q) d, r.2.1, r.2.2)

/-- ABORTs that a queue carries ended at once, with their own status (11 R240, the decided case on overlapping ABORTs). -/
def Dev.finishAborts (d : Dev) (e : Env) (q : QRef) : Dev :=
  (d.abortsOf q).foldl (fun d j =>
    let cur := fun (d : Dev) => (d.abortOf q j.tag).getD j
    let d := if j.acted then d else d.actAbort e e.ab j
    let d := if (cur d).stuck.isEmpty then d else d.forceAbort e (cur d)
    d.reportAbort e (cur d) q) d

/-- Queues aborted and emptied in one command (11 Table 11-4): units that do not come to rest are reset, and every packet gets its
entry. Answers the packets cancelled and the units reset. -/
def Dev.abortNow (d : Dev) (e : Env) (qs : List QRef) : Dev × Nat × Nat :=
  let start := d.now
  let d := qs.foldl (fun d q => d.finishAborts e q) d
  let r := d.cancelNow e qs
  let f := r.1.forceAll e start r.2.2
  let d := qs.foldl (fun d q => d.retireAll e q) f.1
  let d := { d with disp := { d.disp with aborts := d.disp.aborts.filter (fun j => match j.q with | some q => !qs.contains q | none => true) } }
  (d, r.2.1 + f.2, f.2)

/-- A queue disabled: head, tail and window cleared (11 R240). -/
def Queue.cleared (x : Queue) : Queue :=
  { x with enable := false, st := 0, sqHead := 0, sqTail := 0, cqTail := 0, cqHead := 0, window := [], unsig := 0, oldest := none,
           heldTail := none, skip := [] }

/-- Q_CTL.ENABLE written 0 (11 R240). -/
def Dev.disableQueue (d : Dev) (e : Env) (q : QRef) : Dev :=
  if (d.queue q).enable then
    let d := (d.abortNow e [q]).1
    d.setQueue q (d.queue q).cleared
  else d

/-- Q_CTL.ABORT (11 R254): a queue-scope ABORT timed from the write. -/
def Dev.startQctlAbort (d : Dev) (e : Env) (q : QRef) : Dev :=
  if !(d.queue q).enable then d.setQueue q { d.queue q with lastAbort := 1 }
  else if (d.abortOf q 0).isSome then d
  else
    let j : AbortJob := { q := some q, reg := true, tag := 0, target := [q], start := d.now, kind := .register }
    let d := d.setQueue q { d.queue q with lastAbort := 3 }
    let d := ({ d with disp := { d.disp with aborts := d.disp.aborts ++ [j] } }).setRunning [q] 1 2
    d.actAbort e e.ab j

end Sys2Proof.Machine
end

