-- ==== Sys2Proof/Machine/Startup.lean ====
section
/-!
DEFINITION. Machine/Startup.lean: the power-up sequence from supplies valid to SYS_READY (spec/03_power_to_ready.md R74-R92,
spec/01_composition.md R25-R29, R32, spec/06_bonded_slices.md R154-R157, spec/07_hbm_tier.md R168-R171,
spec/08_die_fabric.md R180, R189, R190), and the timebase's reference and pace windows (spec/04_self_timed_fabric.md R98-R104).
-/
namespace Sys2Proof.Machine

/-- Ticks of a millisecond. -/
def ms : Nat := 1000000

/-- The deadline of the phase in progress on the timebase: D - 0.2 ms (03 R445, Table 03-2). -/
def phaseDeadlineAt (ph : Nat) : Nat :=
  match ph with
  | 2 => 9800000
  | 3 => 39800000
  | 4 => 1399800000
  | 5 => 2399800000
  | _ => 2499800000

/-! CLOCK (03 R445). -/

/-- The PLL locks, the timebase starts at zero, and FUSE begins. -/
def Dev.endClock (d : Dev) : Dev :=
  if d.supAlive && d.sys.phase == 1 && d.pins.refclk then
    { d with time := { d.time with running := true, base := 0, locked := true, holdover := false },
             sys := { d.sys with phase := 2 } }
  else d

/-! FUSE (03 R81, 17 R381, R383). -/

/-- TRIP threshold of a class, tenths of a degree (17 Table 17-2). -/
def tripTenths (c : Nat) : Int := [1200, 1050, 1030, 1250].getD c 0

/-- The trip record, built from the latch and the retained status (17 Table 17-4, R383); what neither holds is open (log 13). -/
def Dev.tripRecord (d : Dev) : List Byte :=
  let a := d.thm.aon
  [2, BitVec.ofNat 8 d.thm.tripDom.toNat, BitVec.ofNat 8 d.thm.tripCls.toNat, 0xFF]
    ++ leBytes 2 (sField 16 (tripTenths d.thm.tripCls.toNat)) ++ leBytes 8 d.thm.aonAt
    ++ [byteAt a 9, 0x10] ++ (List.range 6).map (fun i => byteAt a (3 + i))
    ++ leBytes 2 (Config.openResult 13 [d.thm.aonAt]) ++ leBytes 2 0 ++ leBytes 2 (fieldAt a 1 2)
    ++ leBytes 2 d.sup.facIn.toNat ++ leBytes 2 d.sup.facOut.toNat ++ leBytes 2 d.sup.facFlow.toNat ++ List.replicate 10 0

/-- The replica counters as FUSE aligns them: each of the five, and IOD0's own counter, within 4 ticks of every other (04 R102); DESIGN CHOICE in part: log 103. -/
def Dev.alignment (d : Dev) : Tbl Int :=
  let low := (Config.freeValue d.free).toNat % 5
  (List.range 5).map (fun n => (n, Int.ofNat ((Config.freeValue (d.free + 1 + n)).toNat % 5) - Int.ofNat low))

/-- FUSE ends: fused identity, or the failure of IOD0 (03 R76, R81, R86). -/
def Dev.endFuse (d : Dev) (r : PhaseResult) : Dev :=
  if d.sys.phase != 2 then d
  else
    let bad := r.fuseFail.contains 5
    let d := if bad then d.advTo (phaseDeadlineAt 2) else d
    let t := BitVec.ofNat 32 d.now
    let failed := BitVec.ofNat 6 (ofBits (r.fuseFail.filter (fun n => n < 5)))
    let prt : BitVec 3 := if d.fuse.variant == .v41p then 1 else 0
    let d := if bad then
        { d with sys := { d.sys with phase := 0xF, failCause := 1, fuseLoaded := false, stFuse := t } }
      else
        { d with
          sys := { d.sys with phase := 3, fuseLoaded := true, stFuse := t, dieFailed := failed },
          time := { d.time with rep := d.alignment }, free := d.free + 6,
          zf := { d.zf with prtSt := prt } }
    if d.thm.trip then d.sendRecord 0x83 d.tripRecord else d

/-! ZF (01 R25, R26, 08 R190). -/

/-- A native die that does not match IOD0, or whose check did not succeed (01 R25, 03 Table 03-2). -/
def Dev.mismatched (d : Dev) (r : PhaseResult) (n : Nat) : Bool :=
  n != 5 && (tget d.fuse.zfGen n 0 != tget d.fuse.zfGen 5 0 || tget d.fuse.zfStep n 0 != tget d.fuse.zfStep 5 0
    || d.sys.dieFailed.getLsbD n || r.zfFail.contains n)

/-- The ports among a set of dies: up where both ends are in it, disabled where a native die is not, absent at a partner. -/
def Dev.portsFor (d : Dev) (ok : Nat → Bool) : Tbl ZfPort :=
  (List.range 7).map (fun j =>
    let e := portEnds j
    let st : BitVec 2 := if d.kind e.1 == 2 || d.kind e.2 == 2 then 0 else if ok e.1 && ok e.2 then 1 else 2
    (j, { st := st }))

/-- PRT_STATE.CAUSE of a negotiation; 0 where it succeeds (08 R190). -/
def partnerCause : PartnerOutcome → Nat
  | .noSideband => 1
  | .unfinished => 6
  | .block b trained =>
    if b.length != 64 || fieldAt b 62 2 != crc16 (b.take 62) || fieldAt b 0 4 != 0x58504143 || byteAt b 4 != 1 || byteAt b 5 != 1
        || 1 < (byteAt b 18).toNat then 2
    else if (byteAt b 6).toNat % 4 == 0 then 3
    else if fieldAt b 8 8 == 0 || fieldAt b 8 8 % 2 ^ 20 != 0 || 2 ^ 44 < fieldAt b 8 8 || fieldAt b 16 2 == 0 || 256 < fieldAt b 16 2 then 4
    else if !trained then 5 else 0

/-- A byte of IOD0's capability block that 08 R189 does not state. -/
def capxOpen (i : Nat) : Byte := BitVec.ofNat 8 (Config.openResult 8 [i])

/-- IOD0's own capability block: VERSION 1, ROLE 0, RATES 0x03, FLAGS 0, WINDOW 0 (08 R189, Table 08-4). What it says in the fields
that no rule gives it (MAX_OUT, MAX_LEN, VENDOR, PART, SERIAL and bytes 40-61) is open (log 105). -/
def ownCapx : List Byte :=
  let b := leBytes 4 0x58504143 ++ [1, 0, 3, 0] ++ leBytes 8 0 ++ [capxOpen 16, capxOpen 17, capxOpen 18, 0] ++
    (List.range 42).map (fun i => capxOpen (20 + i))
  b ++ leBytes 2 (crc16 b)

/-- The exchange of capability blocks: a partner that answers on the sideband has been sent IOD0's own block (08 R190 steps 1, 2). -/
def Dev.sendCapx (d : Dev) (o : PartnerOutcome) : Dev := match o with | .block _ _ => d.emit (.capx ownCapx) | _ => d

/-- The partner port after its negotiation. -/
def Dev.negotiate (d : Dev) (o : PartnerOutcome) : Dev :=
  let c := partnerCause o
  let d := d.sendCapx o
  match c, o with
  | 0, .block b _ =>
    let dig := sha384 b
    { d with zf := { d.zf with
        prtSt := 2, prtCause := 0, prtRate := if bit (byteAt b 6).toNat 1 then 1 else 0,
        prtInit := bit (byteAt b 7).toNat 0, prtWrite := bit (byteAt b 7).toNat 1,
        prtMaxOut := BitVec.ofNat 9 (fieldAt b 16 2 - 1), prtMaxLen := byteAt b 18 == 1,
        prtWindow := BitVec.ofNat 32 (fieldAt b 8 8 / 2 ^ 20), prtDigest := BitVec.ofNat 64 (fieldAt dig 0 8) } }
  | _, _ => { d with zf := { d.zf with prtSt := 3, prtCause := BitVec.ofNat 4 c } }

/-- ZF ends: sites isolated, ports and routes formed, SYS_SITE_STATE published in one update (01 R32, 08 R180). -/
def Dev.endZf (d : Dev) (r : PhaseResult) : Dev :=
  if d.sys.phase != 3 then d
  else
    let native := fun n => d.kind n != 2
    let ok1 := fun n => native n && !d.mismatched r n
    let reach := ({ d with zf := { d.zf with ports := d.portsFor ok1 } }).zfReach 6 [5]
    let ok := fun n => ok1 n && reach.contains n
    let d := if d.fuse.variant == .v41p then d.negotiate r.partner else d
    let st := fun n : Nat => (match d.kind n with
      | 0 => if ok n then 1 else if ok1 n then 9 else 8
      | 1 => if ok n then 2 else if ok1 n then 0xB else 0xA
      | _ => if d.zf.prtSt == 2 then 3 else 4 : Nat)
    let sites := (List.range 6).map (fun n => (n, BitVec.ofNat 4 (st n)))
    let iso := (List.range 6).any (fun n => 8 ≤ st n)
    let prt := (List.range 6).any (fun n => st n == 4)
    let d := { d with
      sys := { d.sys with site := sites, phase := 4, stZf := BitVec.ofNat 32 d.now },
      zf := { d.zf with ports := d.portsFor ok },
      dma := (List.range 12).map (fun n => (n, { present := d.cplxFitted n && ok (n / 2) })) }
    let d := d.formRoutes
    d.breakClass (BitVec.ofNat 8 (b2n iso + 2 * b2n prt))

/-! MEM: slices (03 R83, 06 R154, R156, R157). -/

/-- Physical core a logical core occupies. -/
def Dev.physOf (d : Dev) (n c : Nat) : Nat := tget d.slc.phys (coreKey n c) (tget d.fuse.repair (coreKey n c) c)

/-- Failing data lanes of a slice, and failing CA lanes as 14 x octant + lane. -/
def dataLanes (r : PhaseResult) (n p : Nat) : List Nat := nub ((r.lanes.filter (fun x => x.1 == n && x.2.1 == p)).map (fun x => x.2.2 % 4096))
/-- Failing CA lanes of a slice. -/
def caLanesOf (r : PhaseResult) (n p : Nat) : List Nat := nub ((r.caLanes.filter (fun x => x.1 == n && x.2.1 == p)).map (fun x => x.2.2 % 112))

/-- Data spares an octant needs. -/
def dataNeed (l : List Nat) (o : Nat) : Nat := (l.filter (fun x => x / 512 == o)).length
/-- CA spares an octant needs, and those it has left. -/
def caNeed (l : List Nat) (o : Nat) : Nat := (l.filter (fun x => x / 14 == o && x % 14 < 12)).length
/-- CA spares of an octant that work. -/
def caHave (l : List Nat) (o : Nat) : Nat := 2 - (l.filter (fun x => x / 14 == o && 12 ≤ x % 14)).length

/-- The lane test of a slice passes: every octant has the spares it needs (06 R156). -/
def laneTestOk (r : PhaseResult) (n p : Nat) : Bool :=
  !r.sliceFail.contains (n, p) &&
    (List.range 8).all (fun o => dataNeed (dataLanes r n p) o ≤ 32 && caNeed (caLanesOf r n p) o ≤ caHave (caLanesOf r n p) o)

/-- A slice as the lane test leaves it. -/
def laneTested (r : PhaseResult) (n p : Nat) : Slice :=
  let l := dataLanes r n p
  let c := caLanesOf r n p
  { steered := l,
    dataUsed := ((List.range 8).filter (fun o => dataNeed l o != 0)).map (fun o => (o, dataNeed l o)),
    caSteer := ((List.range 8).filter (fun o => caNeed c o != 0)).map (fun o => (o,
      ([12, 13].filter (fun s => !c.contains (14 * o + s))).zip ((List.range 12).filter (fun x => c.contains (14 * o + x))))) }

/-- Lane faults and CA faults of a slice in service, logged with SOURCE 3 (06 Table 06-6). BIT and DPA are 0: no word was read
(DESIGN CHOICE, log 91); DEDUCED in part: log 19. -/
def Dev.logLanes (d : Dev) (r : PhaseResult) (n p : Nat) : Dev :=
  let d := (dataLanes r n p).foldl (fun d l => d.logSlc 6 3 0 l 0) d
  ((caLanesOf r n p).filter (fun x => x % 14 < 12)).foldl (fun d l => d.logSlc 7 3 0 l 0) d

/-- A logical core leaves service in the sequence: a standby core that passes takes its physical place, or it is removed
(03 R83, R84). What the slice of each standby core looks like is kept under key 1000 + 68 n + p. SUBST counts substitutions: a core
substituted in MEM and again in ASSAY counts twice (DESIGN CHOICE, log 82). -/
def Dev.replaceCore (d : Dev) (n c : Nat) : Dev :=
  match sortBy (fun a b => a ≤ b) (d.standbyOf n) with
  | p :: rest =>
    let sl := tget d.slc.slices (1000 + 68 * n + p) {}
    let d := { d with
      slc := { d.slc with standby := tset d.slc.standby n rest, phys := tset d.slc.phys (coreKey n c) p },
      sys := { d.sys with subst := satAdd d.sys.subst 1 } }
    let d := d.setSlice n c { sl with st := 0 }
    (d.zeroFill (coreDpa 2 n c 0) (coreDpa 2 n c (2 ^ 35 - 1))).zeroFill (coreDpa 3 n c 0) (coreDpa 3 n c (2 ^ 35 - 1))
  | [] =>
    let d := d.setSlice n c { d.slice n c with st := 3 }
    ({ d with sys := { d.sys with coreFenced := satAdd d.sys.coreFenced 1 } }).breakClass 4

/-- The slices of a compute stack after phase MEM. CORE_FENCED, 8 bits wide, stays at 255 where more cores are removed (DESIGN CHOICE,
log 80). -/
def Dev.memSite (d : Dev) (r : PhaseResult) (n : Nat) : Dev :=
  let cs := List.range d.coresPerCs
  if r.layerLost.contains n then
    let d := cs.foldl (fun d c => d.setSlice n c { st := 3 }) d
    ({ d with sys := { d.sys with coreFenced := satAdd d.sys.coreFenced cs.length },
              slc := { d.slc with lost := putBit d.slc.lost n true } }).breakClass 128
  else
    let spare := (d.standbyOf n).filter (laneTestOk r n)
    let d := { d with slc := { d.slc with standby := tset d.slc.standby n spare } }
    let d := spare.foldl (fun d p => { d with slc := { d.slc with slices := tset d.slc.slices (1000 + 68 * n + p) (laneTested r n p) } }) d
    let d := cs.foldl (fun d c => d.setSlice n c (laneTested r n (d.physOf n c))) d
    let d := (cs.filter (fun c => !laneTestOk r n (d.physOf n c))).foldl (fun d c => d.replaceCore n c) d
    (cs.filter (fun c => (d.slice n c).st == 0)).foldl (fun d c => d.logLanes r n (d.physOf n c)) d

/-! MEM: stacks, the interleave map, links. -/

/-- The stacks after phase MEM: pseudo-channels that failed are mapped out and logged; a stack left with none is not trained
(07 R171). -/
def Dev.memStack (d : Dev) (r : PhaseResult) (h : Nat) : Dev :=
  let all := r.stackFail.contains h
  let bad := (List.range 32).filter (fun p => all || r.pcFail.contains (h, p))
  let d := d.setStack h { d.stack h with active := BitVec.ofNat 32 (2 ^ 32 - 1 - ofBits bad), trained := bad.length != 32 }
  let d := bad.foldl (fun d p => d.logHbm 7 3 0 h p 0) d
  if bad.isEmpty then d else d.breakClass 64

/-- The interleave list over the pseudo-channels active now, with their parts (07 R167, R168). -/
def Dev.formList (d : Dev) : List FormEntry :=
  (List.range 32).flatMap (fun p => ((List.range 12).filter (fun h => d.pcActive h p)).map (fun h =>
    let a := d.granules * (tget d.hbm.share (h / 2) 0).toNat / 16
    { h := h, pc := p, inter := d.granules - a, aff := a }))

/-- The interleave map and the pools formed (07 R170). -/
def Dev.formMap (d : Dev) : Dev :=
  let d := { d with hbm := { d.hbm with form := d.formList } }
  { d with hbm := { d.hbm with usable := BitVec.ofNat 16 (d.formedGranules / 2048) } }

/-- The links after the loopback Assay: those that failed are fenced, the others train, or have trained already since their own
Assay ended (03 R79, Table 03-3). -/
def Dev.memLinks (d : Dev) (r : PhaseResult) : Dev :=
  let ls := (List.range 72).filter (fun l => d.linkExposed l && d.iodActive (linkSite l))
  let idle := ls.filter (fun l => (tget d.lnk.links l {}).st == 0)
  let bad := idle.filter (fun l => r.linkFail.contains l)
  let d := idle.foldl (fun d l => { d with lnk := { d.lnk with links := tmod d.lnk.links l {} (fun x => { x with st := if bad.contains l then 5 else 1 }) } }) d
  let d := { d with sys := { d.sys with linkFenced := satAdd d.sys.linkFenced bad.length } }
  if bad.isEmpty then d else d.breakClass 32

/-- MEM ends. -/
def Dev.endMem (d : Dev) (r : PhaseResult) : Dev :=
  if d.sys.phase != 4 then d
  else
    let d := d.zeroFill (mkDpa 0 0) (mkDpa 3 (2 ^ 44 - 1))
    let d := ((List.range 6).filter d.csActive).foldl (fun d n => d.memSite r n) d
    let d := ((List.range 12).filter (fun h => (hbmFitted d.fuse.variant).testBit h && d.dieActive (h / 2))).foldl (fun d h => d.memStack r h) d
    let d := (d.formMap).memLinks r
    { d with sys := { d.sys with phase := 5, stMem := BitVec.ofNat 32 d.now } }.publishLive

/-! ASSAY (03 R82-R85). -/

/-- ASSAY ends: failing engines are fenced, failing cores substituted or removed. -/
def Dev.endAssay (d : Dev) (r : PhaseResult) : Dev :=
  if d.sys.phase != 5 then d
  else
    let sites := (List.range 6).filter d.csActive
    let d := sites.foldl (fun d n => { d with slc := { d.slc with
      standby := tset d.slc.standby n ((d.standbyOf n).filter (fun p => !r.coreFail.contains (n, p))) } }) d
    let bad := sites.flatMap (fun n => ((List.range d.coresPerCs).filter (fun c => d.coreLive n c && r.coreFail.contains (n, d.physOf n c))).map (fun c => (n, c)))
    let d := bad.foldl (fun d x => d.replaceCore x.1 x.2) d
    let dm := (List.range 12).filter (fun n => (tget d.dma n {}).present && r.dmaFail.contains n)
    let d := dm.foldl (fun d n => { d with dma := tmod d.dma n {} (fun x => { x with fenced := true }) }) d
    let kp := sites.filter (fun n => r.kpmFail.contains n)
    let d := { d with
      sys := { d.sys with dmaFenced := satAdd d.sys.dmaFenced dm.length, kpmFenced := satAdd d.sys.kpmFenced kp.length,
                          phase := 6, stAssay := BitVec.ofNat 32 d.now },
      kpm := { d.kpm with fenced := d.kpm.fenced ||| BitVec.ofNat 6 (ofBits kp) } }
    d.breakClass (BitVec.ofNat 8 (8 * b2n (!dm.isEmpty) + 16 * b2n (!kp.isEmpty)))

/-! READY (03 R77, 16 R356). -/

/-- A new link session, different from the one before, and its quiet period. -/
def Dev.drawSession (d : Dev) : Dev :=
  let e := (Config.entropy d.free).toNat
  { d.draw with lnk := { d.lnk with session := BitVec.ofNat 16 (d.lnk.session.toNat + 1 + e % 65535), quiet := true } }

/-- SYS_READY is set at the end of the power-up sequence, every site at VOP4 (02 R49, 03 R77), but not on a disturbed module
(19 R412). A change of a VOP that has not ended by then is given up (log 96). -/
def Dev.setReady (d : Dev) : Dev :=
  if d.sys.phase != 6 || d.sys.everReady || d.lck.disturbed then d
  else
    let d := { d with sys := { d.sys with ready := true, warm := false, everReady := true, stReady := BitVec.ofNat 32 d.now } }
    d.vopReset.publishLive.drawSession.sendIdent

/-- A phase deadline: what is unfinished is treated as failed (03 R76). -/
def Dev.deadline (d : Dev) (r : PhaseResult) : Dev :=
  let x := d.advTo (phaseDeadlineAt d.sys.phase.toNat)
  match d.sys.phase.toNat with
  | 2 => x.endFuse r
  | 3 => x.endZf r
  | 4 => x.endMem r
  | 5 => x.endAssay r
  | 6 => x.setReady
  | _ => d

/-! The commands. -/

/-- CLOCK_PHASE_END (03 R445). -/
def execClockPhaseEnd (s : State) : Host.Outcome State Fault Refusal := onDev s Dev.endClock
/-- FUSE_PHASE_END (03 R76, R81). -/
def execFusePhaseEnd (r : PhaseResult) (s : State) : Host.Outcome State Fault Refusal := onUp s (fun d => d.endFuse r)
/-- ZF_PHASE_END (01 R32). -/
def execZfPhaseEnd (r : PhaseResult) (s : State) : Host.Outcome State Fault Refusal := onUp s (fun d => d.endZf r)
/-- MEM_PHASE_END (03 R76). -/
def execMemPhaseEnd (r : PhaseResult) (s : State) : Host.Outcome State Fault Refusal := onUp s (fun d => d.endMem r)
/-- ASSAY_PHASE_END (03 R82). -/
def execAssayPhaseEnd (r : PhaseResult) (s : State) : Host.Outcome State Fault Refusal := onUp s (fun d => d.endAssay r)
/-- SYS_READY_SET (03 R77). -/
def execSysReadySet (s : State) : Host.Outcome State Fault Refusal := onUp s Dev.setReady
/-- PHASE_DEADLINE (03 R76, R445). -/
def execPhaseDeadline (r : PhaseResult) (s : State) : Host.Outcome State Fault Refusal := onUp s (fun d => d.deadline r)

/-- REFCLK_LOSS (04 R104): holdover, once CLOCK has ended. -/
def execRefclkLoss (s : State) : Host.Outcome State Fault Refusal :=
  onDev s (fun d =>
    let d := { d with pins := { d.pins with refclk := false } }
    if d.time.running && !d.time.holdover then
      ({ d with time := { d.time with locked := false, holdover := true, holdSeen := true } }).emit (.msix .pf 0)
    else d)
/-- REFCLK_RETURN (04 R104). -/
def execRefclkReturn (s : State) : Host.Outcome State Fault Refusal :=
  onDev s (fun d =>
    let d := { d with pins := { d.pins with refclk := true } }
    if d.time.running then { d with time := { d.time with locked := true, holdover := false } } else d)

/-- The count a monitor has at the end of the window: the operand's, or one that nothing says. -/
def Dev.paceCount (d : Dev) (counts : List (Nat × BitVec 24)) (k : Nat) : BitVec 24 :=
  tget counts k ((Config.freeValue (d.free + k)).setWidth 24)

/-- A monitor that runs: its core is live, or its I/O die active, and the domain has not been stopped (04 R98, R109). -/
def Dev.paceRuns (d : Dev) (k : Nat) : Bool := d.paceEntry k && !d.stopped (k / 64)

/-- Every monitor's count latched at the end of a window, each once; the next window starts where this one ends (04 R98). -/
def Dev.latchPace (d : Dev) (counts : List (Nat × BitVec 24)) : Dev :=
  let t := ((List.range 384).filter d.paceRuns).foldl (fun t k =>
    tmod t k {} (fun x => { pace := d.paceCount counts k, win := x.win + 1, valid := true })) d.time.pace
  { d with free := d.free + 384, time := { d.time with pace := t, paceAt := d.time.paceAt + ms } }

/-- PACE_WINDOW (04 R98): a window of 1,000,000 ticks closes; each monitor's count is latched. -/
def execPaceWindow (counts : List (Nat × BitVec 24)) (s : State) : Host.Outcome State Fault Refusal :=
  onUp s (fun d => if d.time.running then
    (d.advTo (d.time.paceAt + ms)).latchPace counts else d)
/-- SYS_TIME_LO_READ (04 R103): the value is returned, and the upper half latched into the function's shadow. -/
def execSysTimeLoRead (fn : Fn) (s : State) : Host.Outcome State Fault Refusal :=
  onDev s (fun d => d.hostReq? fn (fun d => (d.latchTime fn).emit (.reg fn 0x80 (bf d.time.base 31 0))))

end Sys2Proof.Machine
end

