-- ==== Sys2Proof/Machine/Fence.lean ====
section
/-!
DEFINITION. Machine/Fence.lean: what leaves service at run time: a core (spec/06_bonded_slices.md R155, R157), a site
(spec/08_die_fabric.md R181), and what each takes with it.
-/
namespace Sys2Proof.Machine

/-- A byte range [a, a + n) touches the slice or the core SRAM of a core. -/
def touchesCore (n c a len : Nat) : Bool :=
  overlaps a len (coreDpa 2 n c 0) (2 ^ 35) || overlaps a len (coreDpa 3 n c 0) (2 ^ 35)

/-- A core that is fenced leaves the mask of every active tree, and the slots that wait for it are freed (08 decided case). -/
def StreamTree.without (t : StreamTree) (n c : Nat) : StreamTree :=
  { t with dests := (t.dests.map (fun s => if s.1 == n then (s.1, s.2.filter (fun x => x != c)) else s)).filter (fun s => !s.2.isEmpty) }

/-- Packets in flight on a core complete with E_ABORTED; one that is done keeps an exception it already has. -/
def Dev.abortCore (d : Dev) (e : Env) (n c : Nat) : Dev :=
  let k := coreKey n c
  let run := d.disp.pkts.filter (fun p => p.phase == .started && p.on.contains k)
  let d := d.mapPkts (fun p => { p with trees := p.trees.map (fun t => t.without n c) })
  let d := run.foldl (fun d p => d.cancelPkt e sAborted p) d
  d.mapPkts (fun p => if p.phase == .done && p.on.contains k then
      { p with on := p.on.filter (fun x => x != k), core := if p.core == some k then none else p.core,
               status := if isExc p.status then p.status else sAborted } else p)

/-- DMA channels with source or destination on a core stop as an abort stops them (06 decided case). -/
def Dev.stopDmaOf (d : Dev) (n c : Nat) : Dev :=
  let ks := d.dmaCh.filter (fun x => match x.2.job with
    | some j => j.active && (touchesCore n c (d.canon j.src) j.bytes || touchesCore n c (d.canon j.dst) j.bytes)
    | none => false)
  ks.foldl (fun d x => d.stopChan x.1 sAborted) d

/-- Reservations on granules of a core break. -/
def Dev.breakCoreRsv (d : Dev) (n c : Nat) : Dev :=
  (d.kpm.slots.filter (fun e => match e.2.gran with | some g => touchesCore n c g 256 | none => false)).foldl (fun d e => d.dropRsv e.1) d

/-- Every core in service. -/
def Dev.allCores (d : Dev) : List (Nat × Nat) := (List.range 6).flatMap (fun n => (d.liveCoresOf n).map (fun c => (n, c)))

/-- SLC_SCRUB.PASS counts a pass that has ended in every live slice (06 R150): looked at when a pass ends in one, and when one
leaves service. -/
def Dev.slicePass (d : Dev) : Dev :=
  let l := d.allCores
  if !l.isEmpty && l.all (fun x => (d.slice x.1 x.2).passes != 0) then
    let d := l.foldl (fun d x => d.setSlice x.1 x.2 { d.slice x.1 x.2 with passes := (d.slice x.1 x.2).passes - 1 }) d
    { d with slc := { d.slc with pass := d.slc.pass + 1 } }
  else d

/-- A core fenced at run time (06 R155); brk: cause CORE is set (20 R424). -/
def Dev.fenceCore (d : Dev) (e : Env) (n c : Nat) (brk : Bool) : Dev :=
  if !d.coreLive n c then d
  else
    let k := coreKey n c
    let d := d.abortCore e n c
    let d := (d.stopDmaOf n c).breakCoreRsv n c
    let d := { (d.setSb k []) with units := d.units.filter (fun u => u.1 / 6 != k) }
    let d := (d.setSlice n c { d.slice n c with st := 2, evacAt := none, sweeping := [] }).raiseSlc 64
    let d := d.publishLive.slicePass
    if brk then d.breakClass 4 else d

/-- Every core of a compute stack fenced at once. -/
def Dev.fenceSite (d : Dev) (e : Env) (n : Nat) : Dev := (d.liveCoresOf n).foldl (fun d c => d.fenceCore e n c false) d

/-- A layer-wide resource of a compute stack fails at run time (06 R157). -/
def Dev.loseStack (d : Dev) (e : Env) (n : Nat) : Dev :=
  if d.csActive n && !d.slc.lost.getLsbD n then
    let d := (d.fenceSite e n).raiseSlc 128
    ({ d with slc := { d.slc with lost := putBit d.slc.lost n true } }).breakClass 128
  else d

/-- The HBM stacks of a site mapped out (07 R172, R173), without cause HBM. -/
def Dev.mapOutSite (d : Dev) (n : Nat) : Dev :=
  [2 * n, 2 * n + 1].foldl (fun d h => (List.range 32).foldl (fun d p => d.mapOut h p 3 false) d) d

/-- The DMA complexes of a site leave service; the packets on them end with st; DEDUCED in part: log 21. -/
def Dev.dropDma (d : Dev) (n : Nat) (st : BitVec 16) : Dev :=
  [2 * n, 2 * n + 1].foldl (fun d x =>
    (List.range 16).foldl (fun d ch =>
      let k := chKey x ch
      let c := d.chan k
      let l := (match c.job with | some j => [(j.q, j.tag)] | none => []) ++ c.waiting
      let d := if c.job.isSome || !c.waiting.isEmpty then d.setChan k {} else d
      l.foldl (fun d w => match d.pkt? w.1 w.2 with | some p => if p.phase == .done then d else d.close p st 0 | none => d) d) d) d

/-- The links of an I/O die go down and stay down, their messages going to other links (16 R358). -/
def Dev.dropLinks (d : Dev) (n : Nat) : Dev :=
  ((List.range 72).filter (fun l => linkSite l == n && d.linkExposed l && (d.link l).st != 5)).foldl (fun d l => d.dropLink l 5) d

/-- A die without a path to IOD0 is isolated at run time (08 R181, 01 R27): only cause SITE is set. -/
def Dev.isolate (d : Dev) (e : Env) (n : Nat) : Dev :=
  if d.csActive n then
    let d := (d.fenceSite e n).mapOutSite n
    let d := { d with sys := { d.sys with site := tset d.sys.site n 9 },
                      zf := { d.zf with rlc := d.zf.rlc.filter (fun l => l.site != n) } }
    ((d.dropDma n sLinkFail).publishLive).breakClass 1
  else if d.iodActive n then
    let d := { d with sys := { d.sys with site := tset d.sys.site n 0xB } }
    (((d.dropDma n sLinkFail).dropLinks n).publishLive).breakClass 1
  else d

/-- A write of SLC_CTL by the management function (06 R155, decided case). -/
def Dev.wrSlcCtl (d : Dev) (v : Nat) : Dev :=
  let d := { d with slc := { d.slc with ctlCore := BitVec.ofNat 6 (bf v 5 0), ctlSite := BitVec.ofNat 3 (bf v 8 6) } }
  if bit v 31 && (d.slice (bf v 8 6) (bf v 5 0)).st == 1 then d.fenceCore {} (bf v 8 6) (bf v 5 0) true else d

end Sys2Proof.Machine
end

