-- ==== Sys2Proof/Machine/Fabric.lean ====
section
/-!
DEFINITION. Machine/Fabric.lean: ZF parity and ports going down, the purge of every RLC, and the node ID
(spec/08_die_fabric.md R181, R185, spec/09_addressing.md R218).
-/
namespace Sys2Proof.Machine

/-- A port goes down at run time (08 R181): the packets whose slots it carried end with E_LINK_FAIL, routes are formed again, and
dies without a path to IOD0 are isolated. -/
def Dev.portDown (d : Dev) (e : Env) (j : Nat) (hit : List Nat) : Dev :=
  let d := { d with zf := { d.zf with ports := tmod d.zf.ports j {} (fun (x : ZfPort) => { x with st := 3, fails := [] }) } }
  let l := d.disp.pkts.filter (fun p => hit.contains p.ord && p.phase == .started)
  let d := l.foldl (fun d p => if isKpmOp p.opc.toNat then d.close p sLinkFail 0 else d.cancelPkt e sLinkFail p) d
  let reach := d.zfReach 6 [5]
  let lost := (List.range 6).filter (fun n => d.dieActive n && !d.stopped n && !reach.contains n)
  let d := lost.foldl (fun d n => d.isolate e n) d
  (d.formRoutes).raiseZf 3

/-- A flit that fails parity is sent again; the sixteenth failure within 1 ms takes the port down (08 R181). -/
def Dev.zfParity (d : Dev) (j : Nat) (hit : List Nat) : Dev :=
  let x := tget d.zf.ports j {}
  if x.st != 1 then d
  else
    let times := (d.now :: x.fails).filter (fun t => d.now < t + 1000000)
    let down := 16 ≤ times.length
    let x := { x with parityErr := satAdd x.parityErr 1, replays := if down then x.replays else satAdd x.replays 1, fails := times }
    let d := { d with zf := { d.zf with ports := tset d.zf.ports j x } }
    if down then d.portDown {} j hit else d

/-- A write of ZF_RLC_CTL by the management function (08 Table 08-2). -/
def Dev.wrRlcCtl (d : Dev) (v : Nat) : Dev :=
  if bit v 0 then { d with zf := { d.zf with rlc := [], rlcBusy := true } } else d

/-- A write of SYS_NODE by the management function (09 R218). -/
def Dev.wrNode (d : Dev) (v : Nat) : Dev :=
  let id := BitVec.ofNat 8 (bf v 7 0)
  if !d.livePart.isEmpty && id != d.sys.node then { d with sys := { d.sys with nodeRef := true } }
  else { d with sys := { d.sys with node := id, nodeRef := d.sys.nodeRef && !bit v 31 } }

end Sys2Proof.Machine
end

