-- ==== Sys2Proof/Machine/Params.lean ====
section
/-!
DEFINITION. Machine/Params.lean: what the Dispatcher checks before it translates a packet (spec/11_queues_packets.md R247,
spec/12_command_reference.md R261, R266-R276, spec/05_cores_arrays.md R116, R120), and the ranges each opcode names
(spec/12_command_reference.md R264, spec/15_attention_verify.md R318, R319, R335).
-/
namespace Sys2Proof.Machine

/-! Tensor operands. -/

/-- Both operands of an array come from one row of Table 05-1 (05 R116). -/
def pairOk (a b : Nat) : Bool :=
  (a ≤ 1 && b ≤ 1) || (a == 2 && b == 2) || ((a == 3 || a == 4) && (b == 3 || b == 4)) || (a == 5 && b == 5) ||
    ((a == 6 || a == 7) && (b == 6 || b == 7))

/-- The GEMM is an integer one. -/
def isIntGemm (a : Nat) : Bool := a == 2 || a == 5

/-- Two descriptors are identical for the purpose of aliasing. -/
def TD.same (t u : TD) : Bool := t.base == u.base && t.stride == u.stride && t.fmt == u.fmt

/-- Shape of a GEMM: M, K, N and whether A and B are transposed. -/
structure Shape where
  /-- Rows of D. -/
  m : Nat
  /-- Reduced dimension. -/
  k : Nat
  /-- Columns of D. -/
  n : Nat
  /-- A is read transposed. -/
  ta : Bool := false
  /-- B is read transposed. -/
  tb : Bool := false

/-- Shape of GEMM and GEMM_T. -/
def Pkt.shape (p : Pkt) : Shape :=
  let a := p.td 0 0
  let b := p.td 0 1
  let ta := p.opc == 0x11 && bit (p.word 2) 58
  let tb := p.opc == 0x11 && bit (p.word 2) 59
  { m := if ta then a.cols else a.rows, k := if ta then a.rows else a.cols, n := if tb then b.rows else b.cols, ta := ta, tb := tb }

/-- A convolution's numbers (12 Table 12-4). -/
structure Conv where
  /-- KH. -/
  kh : Nat
  /-- KW. -/
  kw : Nat
  /-- SH. -/
  sh : Nat
  /-- SW. -/
  sw : Nat
  /-- PH. -/
  ph : Nat
  /-- PW. -/
  pw : Nat
  /-- DH. -/
  dh : Nat
  /-- DW. -/
  dw : Nat
  /-- IN_H. -/
  h : Nat
  /-- IN_W. -/
  w : Nat
  /-- IN_C. -/
  c : Nat
  /-- BATCH. -/
  batch : Nat

/-- The convolution a packet describes. -/
def Pkt.conv (p : Pkt) : Conv :=
  let f := fun i => p.f 4 (8 * i + 7) (8 * i)
  let g := fun i => p.f 5 (16 * i + 15) (16 * i)
  { kh := f 0, kw := f 1, sh := f 2, sw := f 3, ph := f 4, pw := f 5, dh := f 6, dw := f 7, h := g 0, w := g 1, c := g 2, batch := g 3 }

/-- floor((IN + 2P - D(K - 1) - 1) / S) + 1, zero where that is not positive (12 R270). -/
def convOut (i p dil k s : Nat) : Nat := if dil * (k - 1) + 1 ≤ i + 2 * p then (i + 2 * p - dil * (k - 1) - 1) / s + 1 else 0

/-- OH. -/
def Conv.oh (c : Conv) : Nat := convOut c.h c.ph c.dh c.kh c.sh
/-- OW. -/
def Conv.ow (c : Conv) : Nat := convOut c.w c.pw c.dw c.kw c.sw
/-- K of the convolution. -/
def Conv.k (c : Conv) : Nat := c.kh * c.kw * c.c

/-- The bias of a GEMM as a range. -/
def Pkt.biasRange (p : Pkt) (n : Nat) : List Range :=
  if bit (p.word 2) 57 then [{ dva := p.f 2 47 0, n := n * (fmtBits (p.f 2 51 48) / 8) }] else []

/-- The checks of R270 that GEMM, GEMM_T and CONV_AS_GEMM share. -/
def Pkt.gemmOk (p : Pkt) (m k n : Nat) (mxOk : Bool) (alongA alongB : Bool) : Bool :=
  let a := p.td 0 0
  let b := p.td 0 1
  let t := p.td 1 0
  let c := p.td 1 1
  let cEn := bit (p.word 2) 56
  let dr := t.ranges true true
  let hits := fun (rs : List Range) => dr.any (fun x => rs.any (fun y => overlaps x.dva x.n y.dva y.n))
  a.ok && b.ok && t.ok && (!cEn || c.ok) && pairOk a.fmt b.fmt
    && t.rows == m && t.cols == n && (!cEn || (c.rows == m && c.cols == n))
    && (!isMx a.fmt || (mxOk && k % 32 == 0))
    && (if isIntGemm a.fmt then t.fmt == 9 && decide (k ≤ 65536) else t.fmt == 0 || t.fmt == 1 || (decide (3 ≤ t.fmt) && decide (t.fmt ≤ 8)))
    && decide (p.f 2 55 52 ≤ 3)
    && (!bit (p.word 2) 57 || (decide (6 ≤ p.f 2 51 48) && decide (p.f 2 51 48 ≤ 8)))
    && !hits (a.ranges false alongA) && !hits (b.ranges false alongB) && !hits (p.biasRange n)
    && (!cEn || !hits (c.ranges false true) || t.same c)

/-- Checks of GEMM and GEMM_T. -/
def Pkt.gemmParams (p : Pkt) : Bool :=
  let s := p.shape
  let b := p.td 0 1
  (if s.tb then b.cols else b.rows) == s.k && p.gemmOk s.m s.k s.n true (!s.ta) s.tb

/-- Checks of CONV_AS_GEMM (05 R116 as for GEMM). -/
def Pkt.convParams (p : Pkt) : Bool :=
  let c := p.conv
  let a := p.td 0 0
  let b := p.td 0 1
  c.sh != 0 && c.sw != 0 && c.dh != 0 && c.dw != 0 && a.rows == c.batch * c.h && a.cols == c.w * c.c && b.rows == c.k &&
    p.gemmOk (c.batch * c.oh * c.ow) c.k b.cols true true false

/-- The vector operations of Table 12-5. -/
def vops : List Nat := rangeFrom 0 10 ++ rangeFrom 0x10 7 ++ rangeFrom 0x20 3 ++ rangeFrom 0x30 5
/-- The operation takes a second operand. -/
def usesY (v : Nat) : Bool := v ≤ 5 || v == 8
/-- The operation takes a third operand. -/
def usesZ (v : Nat) : Bool := v == 3 || v == 8

/-- OUT and X are identical or apart. -/
def TD.aliasOk (t x : TD) : Bool := !t.overlap x || t.same x

/-- Checks of VXU_OP. -/
def Pkt.vxuParams (p : Pkt) : Bool :=
  let v := p.f 1 7 0
  let x := p.td 0 0
  let y := p.td 0 1
  let z := p.td 1 0
  let t := p.td 1 1
  let yEn := usesY v && !bit (p.word 1) 8
  vops.contains v && x.ok && t.ok && x.fmt != 9 && t.fmt != 9 && t.rows == x.rows && t.cols == (if 0x30 ≤ v then 1 else x.cols)
    && (!yEn || (y.ok && y.fmt != 9 && y.rows == x.rows && y.cols == x.cols && !t.overlap y))
    && (!usesZ v || (z.ok && z.fmt != 9 && z.rows == x.rows && z.cols == x.cols && !t.overlap z))
    && t.aliasOk x

/-- Ranges of the vectors NORM reads, and of STATS. -/
def Pkt.normVecs (p : Pkt) : List Range × List Range :=
  let x := p.td 0 0
  let aff := bit (p.word 1) 1
  ((if aff then [{ dva := p.f 2 47 0, n := 4 * x.cols }] else []) ++ (if aff && p.f 3 47 0 != 0 then [{ dva := p.f 3 47 0, n := 4 * x.cols }] else []),
    if p.f 4 47 0 != 0 then [{ dva := p.f 4 47 0, n := 8 * x.rows, write := true }] else [])

/-- Checks of NORM. -/
def Pkt.normParams (p : Pkt) : Bool :=
  let x := p.td 0 0
  let t := p.td 0 1
  let v := p.normVecs
  let hit := fun (a b : List Range) => a.any (fun r => b.any (fun s => overlaps r.dva r.n s.dva s.n))
  x.ok && t.ok && x.fmt != 9 && t.fmt != 9 && t.rows == x.rows && t.cols == x.cols && t.aliasOk x
    && (!bit (p.word 1) 0 || p.f 3 47 0 == 0)
    && !hit (t.ranges true true) v.1 && !hit v.2 (t.ranges true true ++ x.ranges false true ++ v.1)

/-- Checks of OPTIM_STEP. -/
def Pkt.optimParams (p : Pkt) : Bool :=
  p.f 1 42 41 ≤ 2 && (decide (6 ≤ p.f 1 47 44) && decide (p.f 1 47 44 ≤ 8)) && decide (1 ≤ p.f 4 63 32)
    && (p.f 1 42 41 != 0 || bf (p.blk 0 4) 47 0 == 0)

/-! Attention. -/

/-- Head dimensions the ATU takes. -/
def headDims : List Nat := [64, 96, 128, 192, 256]

/-- Checks of ATTEND and ATTEND_BUCKETS; ncand is the tree of the VERIFY the packet streams in (15 R332). -/
def Pkt.attendParams (p : Pkt) (ncand : Option Nat) : Bool :=
  let qh := p.f 5 7 0
  let kvh := p.f 5 15 8
  let mask := p.f 1 55 52
  let seqs := p.f 4 63 48
  decide (6 ≤ p.f 1 51 48) && decide (p.f 1 51 48 ≤ 8) && decide (mask ≤ 4) && [0, 1, 6, 7, 8].contains (p.f 2 51 48)
    && decide (1 ≤ seqs) && decide (seqs ≤ 4096) && decide (1 ≤ kvh) && decide (kvh ≤ 128) && decide (1 ≤ qh) && decide (qh ≤ 128) && qh % kvh == 0
    && headDims.contains (p.f 5 31 16) && (mask != 1 || p.f 6 31 0 != 0)
    && p.f 1 47 0 % 64 == 0 && p.f 2 47 0 % 64 == 0 && p.f 3 47 0 % 64 == 0
    && (mask != 3 || (ncand.isSome && seqs == 1 && p.opc == 0x20))
    && (p.opc != 0x21 || (decide (1 ≤ bf (p.blk 0 2) 15 0) && decide (bf (p.blk 0 2) 15 0 ≤ 13)))

/-- Checks of VERIFY. -/
def Pkt.verifyParams (p : Pkt) : Bool :=
  decide (1 ≤ p.f 1 63 48) && decide (p.f 1 63 48 ≤ 4096) && decide (1 ≤ p.f 6 6 0) && decide (p.f 6 6 0 ≤ 64)
    && decide (1 ≤ p.f 6 12 8) && decide (p.f 6 12 8 ≤ 16) && decide (p.f 6 17 16 ≤ 2)

/-! Every opcode. -/

/-- Defined fields hold values in their stated ranges (12 R261). -/
def Dev.fieldsOk (d : Dev) (p : Pkt) (ncand : Option Nat) : Bool :=
  match p.opc.toNat with
  | 0x02 => p.f 1 47 0 % 8 == 0
  | 0x03 => p.f 1 47 0 % 8 == 0 && decide (p.f 3 1 0 ≤ 2)
  | 0x05 => p.f 2 47 0 % 65536 == 0 && p.f 3 47 0 % 65536 == 0 && p.f 3 47 0 != 0
      && (!bit (p.word 1) 7 || (d.part (p.f 1 6 4)).st != 0)
  | 0x10 => p.gemmParams
  | 0x11 => p.gemmParams
  | 0x12 => p.convParams
  | 0x13 => p.vxuParams
  | 0x14 => p.normParams
  | 0x15 => p.optimParams
  | 0x20 => p.attendParams ncand
  | 0x21 => p.attendParams ncand
  | 0x22 => p.verifyParams
  | 0x30 => decide (p.f 1 2 0 < 6) && decide (1 ≤ p.f 1 23 16) && decide (p.f 1 23 16 ≤ 64) && decide (p.f 1 27 24 ≤ 8)
  | 0x31 => decide (6 ≤ p.f 3 19 16) && decide (p.f 3 19 16 ≤ 8)
  | 0x33 => decide (p.f 3 6 0 ≤ 64)
  | 0x35 => decide (p.f 4 2 0 < 6)
  | 0x40 => decide (p.f 2 11 8 < 12)
  | 0x41 => decide (p.f 2 11 8 < 12)
  | 0x50 => decide (64 ≤ p.f 3 31 0) && decide (p.f 3 31 0 ≤ 2 ^ 20) && p.f 3 31 0 % 64 == 0 && p.f 4 47 0 % 8 == 0
  | 0x51 => decide (p.f 4 3 0 ≤ 6) && p.f 1 47 0 % (if bit (p.word 4) 4 then 8 else 4) == 0
  | 0x60 => decide (1 ≤ p.f 1 14 8) && decide (p.f 1 14 8 ≤ 64)
  | 0x61 => decide (1 ≤ p.f 1 14 8) && decide (p.f 1 14 8 ≤ 64)
  | 0x70 => decide (p.f 1 9 8 ≤ 2) && (p.f 1 9 8 != 0 || ((p.td 0 0).ok && decide ((p.td 0 0).extent ≤ 2 ^ 32)))
  | 0x71 => decide (p.f 1 3 0 ≤ 4) && (p.f 1 7 4 == 15 || decide (p.f 1 7 4 ≤ 9))
  | 0x80 => d.csActive (p.f 1 2 0) && !d.dieOut (p.f 1 2 0)
  | 0x81 => decide (p.f 1 3 0 ≤ 5)
  | _ => true

/-- The owner may issue the packet (11 R247, R254; 12 R267, R268, R276; 18 R393, R402). -/
def Dev.issuerOk (d : Dev) (p : Pkt) : Bool :=
  p.owner == 8 || (!opMgmt p.opc.toNat &&
    (match p.opc.toNat with
     | 0x05 => !bit (p.word 1) 7
     | 0x71 => p.f 1 7 4 == 15 || p.f 1 7 4 == p.owner
     | 0x72 => !bit (p.word 1) 0
     | 0x81 => d.mayRequest p.owner (p.f 1 3 0)
     | 0xF0 => p.f 1 1 0 != 2
     | _ => true))

/-- CORE_MASK names only groups that the owner holds (12 R267). -/
def Dev.maskOk (d : Dev) (p : Pkt) : Bool :=
  match p.coreMask with
  | some m => d.maskPermitted p.owner m
  | none => true

/-! Ranges. -/

/-- The ranges an opcode names whatever memory holds. -/
def Pkt.fixedRanges (p : Pkt) : List Range :=
  let at_ := fun (i n : Nat) (w : Bool) => ({ dva := p.f i 47 0, n := n, write := w } : Range)
  let opt := fun (i n : Nat) (w : Bool) => if p.f i 47 0 = 0 then [] else [at_ i n w]
  match p.opc.toNat with
  | 0x02 => [at_ 1 8 true]
  | 0x03 => [at_ 1 8 false]
  | 0x10 =>
    (p.td 0 0).ranges false true ++ (p.td 0 1).ranges false false ++ (p.td 1 0).ranges true true
      ++ (if bit (p.word 2) 56 then (p.td 1 1).ranges false true else []) ++ p.biasRange p.shape.n
  | 0x11 =>
    (p.td 0 0).ranges false (!p.shape.ta) ++ (p.td 0 1).ranges false p.shape.tb ++ (p.td 1 0).ranges true true
      ++ (if bit (p.word 2) 56 then (p.td 1 1).ranges false true else []) ++ p.biasRange p.shape.n
  | 0x12 =>
    (p.td 0 0).ranges false true ++ (p.td 0 1).ranges false false ++ (p.td 1 0).ranges true true
      ++ (if bit (p.word 2) 56 then (p.td 1 1).ranges false true else []) ++ p.biasRange (p.td 0 1).cols
  | 0x13 =>
    let v := p.f 1 7 0
    (p.td 0 0).ranges false true ++ (if usesY v && !bit (p.word 1) 8 then (p.td 0 1).ranges false true else [])
      ++ (if usesZ v then (p.td 1 0).ranges false true else []) ++ (p.td 1 1).ranges true true
  | 0x14 => (p.td 0 0).ranges false true ++ (p.normVecs).1 ++ (p.normVecs).2 ++ (p.td 0 1).ranges true true
  | 0x15 =>
    let n := p.f 1 39 0
    let g := fun (i b : Nat) (w : Bool) => ({ dva := bf (p.blk 0 i) 47 0, n := n * b, write := w } : Range)
    [g 0 4 true, g 1 (if p.f 1 47 44 == 8 then 4 else 2) false, g 2 4 true] ++ (if bit (p.word 1) 40 then [g 3 4 true] else [])
      ++ (if p.f 1 42 41 != 0 then [g 4 2 true] else [])
  | 0x20 => [at_ 4 (32 * p.f 4 63 48) false]
  | 0x21 => [at_ 4 (32 * p.f 4 63 48) false, { dva := bf (p.blk 0 3) 47 0, n := 8 * bf (p.blk 0 2) 15 0 }]
  | 0x22 =>
    let n := p.f 6 6 0
    [at_ 1 (64 * p.f 1 63 48) false, at_ 2 (16 * n) false, at_ 3 64 false] ++ (if p.f 6 17 16 == 1 then [at_ 4 (4 * n) false] else [])
      ++ [at_ 5 (4 * (p.f 6 12 8 + 1)) true]
  | 0x30 => [at_ 2 (8 * p.f 1 23 16) true]
  | 0x31 => [at_ 1 32 true]
  | 0x32 => [at_ 1 32 true]
  | 0x33 => [at_ 1 32 true] ++ (if p.f 3 6 0 = 0 then [] else [at_ 2 (2 * p.f 3 6 0) false])
  | 0x34 => [at_ 1 32 true]
  | 0x35 => [at_ 1 (4 * p.f 2 31 0) false]
  | 0x36 => [at_ 1 (4 * p.f 2 31 0) false] ++ (if p.f 2 31 0 = 0 then [] else [at_ 3 8 false])
  | 0x37 => [at_ 1 32 true]
  | 0x40 => [at_ 1 64 true]
  | 0x41 => [at_ 1 64 true]
  | 0x50 => [at_ 1 (p.f 3 31 0) false, at_ 2 (p.f 3 31 0) true] ++ opt 4 8 true
  | 0x51 => [at_ 1 (if bit (p.word 4) 4 then 8 else 4) true]
  | 0x70 => if p.f 1 9 8 = 0 then (p.td 0 0).ranges false true else if p.f 1 9 8 = 1 then [at_ 2 64 true] else []
  | 0x71 => [at_ 2 (64 + 8 * ([14, 16, 42, 576, 8].getD (p.f 1 3 0) 0)) true]
  | 0x72 => [at_ 2 (2 ^ 21) true]
  | _ => []

/-- The opcodes whose other ranges depend on what the first ones hold (15 R319, R335; 14 R301, R313). -/
def Pkt.twoStep (p : Pkt) : Bool := [0x20, 0x21, 0x22, 0x31, 0x35, 0x36].contains p.opc.toNat

/-- A SEQ_TABLE entry (12 R272). -/
def seqEntry (b : List Byte) : SeqEntry := { qRow := fieldAt b 0 4, qLen := fieldAt b 4 2, kvLen := fieldAt b 8 4, pages := fieldAt b 16 8 % 2 ^ 56 }

/-- The row ranges of a batch do not overlap, and every KV_LEN is in range (15 R319, Table 15-2). -/
def seqsOk (l : List SeqEntry) : Bool :=
  let r := sortBy (fun (a b : SeqEntry) => decide (a.qRow ≤ b.qRow)) (l.filter (fun s => s.qLen != 0))
  l.all (fun s => s.kvLen ≤ 2 ^ 20) && (r.zip (r.drop 1)).all (fun p => p.1.qRow + p.1.qLen ≤ p.2.qRow)

/-- Buckets as (FIRST, COUNT, CEIL_LOG2) cover a batch in order (15 R329). -/
def bucketsOk (seqs : List SeqEntry) : List (Nat × Nat × Nat) → Nat → Nat → Bool
  | [], next, _ => next == seqs.length
  | (f, c, k) :: r, next, prev =>
    f == next && decide (4 ≤ k) && decide (k ≤ 20) && decide (prev < k) && decide (f + c ≤ seqs.length)
      && ((seqs.drop f).take c).all (fun s => s.kvLen ≤ 2 ^ k) && bucketsOk seqs r (f + c) k

/-- A TARGET header is in range (15 R335). -/
def targetOk (b : List Byte) : Bool :=
  let vocab := fieldAt b 0 4
  let fmt := fieldAt b 4 1
  let stride := fieldAt b 8 4
  let t := f32 (fieldAt b 12 4)
  decide (2 ≤ vocab) && decide (vocab ≤ 2 ^ 24) && (decide (6 ≤ fmt) && decide (fmt ≤ 8)) && stride % 64 == 0
    && decide (vocab * (fmtBits fmt / 8) ≤ stride) && (t.isZero || (!t.isNan && !t.sign))
    && ((b.drop 5).take 3 ++ (b.drop 16).take 48).all (· == 0)

/-- Ranges among the first whose contents, or whose translation, the extents of the others depend on. -/
def Pkt.needs (p : Pkt) : List Range :=
  let at_ := fun (i n : Nat) => ({ dva := p.f i 47 0, n := n } : Range)
  match p.opc.toNat with
  | 0x20 => [at_ 4 (32 * p.f 4 63 48)]
  | 0x21 => [at_ 4 (32 * p.f 4 63 48), { dva := bf (p.blk 0 3) 47 0, n := 8 * bf (p.blk 0 2) 15 0 }]
  | 0x22 => [at_ 3 64]
  | 0x31 => [at_ 1 32]
  | 0x36 => [at_ 3 8]
  | _ => []

/-- First DVAs of the ranges that follow on the first ones (12 Tables 12-7, 12-8). -/
def Pkt.moreStarts (p : Pkt) : List Nat :=
  let opt := fun (v : Nat) => if v = 0 then [] else [v]
  match p.opc.toNat with
  | 0x20 => [p.f 1 47 0, p.f 2 47 0] ++ opt (p.f 3 47 0) ++ (if p.f 1 55 52 == 3 then [bf (p.blk 0 0) 47 0] else [])
  | 0x21 => [p.f 1 47 0, p.f 2 47 0] ++ opt (p.f 3 47 0)
  | 0x31 => [p.f 2 47 0]
  | 0x35 => [p.f 3 47 0]
  | _ => []

/-- What the first ranges hold decides about the rest: further ranges, the captured table, and a status that ends the packet with
its RESULT. -/
structure Second where
  /-- The translation so far. -/
  x : XlState
  /-- Further ranges. -/
  rs : List Range := []
  /-- SEQ_TABLE as captured. -/
  seqs : List SeqEntry := []
  /-- TARGET header as captured. -/
  hdr : List Byte := []
  /-- STATUS and RESULT. -/
  stop : Option (BitVec 16 × Nat) := none

/-- The translation with another module. -/
def XlState.on (x : XlState) (d : Dev) : XlState := { x with d := d }

/-- Bytes of the next n packets of a VERIFY's STREAM at a DVA (12 Table 12-7, 11 R246): each is read for its LEN, as far as it can
be reached; DEDUCED in part: log 67. -/
def streamBytes (acc : Acc) (o k : Nat) : Nat → Nat → XlState → XlState × Nat
  | 0, _, x => (x, 0)
  | n + 1, a, x =>
    let y := xlRanges acc o k [{ dva := a, n := 64 }] x
    if y.past || x.fails.length < y.fails.length then (y, 64)
    else
      let r := y.d.readDva acc y.leaves a 8
      if isExc r.st then (y.on r.d, 64)
      else
        let len := 64 * (1 + (header (leNat r.bytes)).len)
        let z := streamBytes acc o k n (a + len) (y.on r.d)
        (z.1, len + z.2)

/-- The second look at queue time, with what has been translated so far. -/
def XlState.second (x : XlState) (e : Env) (p : Pkt) (ctx : Nat) (ncand : Option Nat) : Second :=
  let acc := p.acc e
  let d := x.d
  let ls := x.leaves
  let at_ := fun (i n : Nat) (w : Bool) => ({ dva := p.f i 47 0, n := n, write := w } : Range)
  match p.opc.toNat with
  | 0x22 =>
    let r := d.readDva acc ls (p.f 3 47 0) 64
    if isExc r.st then { x := x.on r.d, stop := some (r.st, r.fail) }
    else if !targetOk r.bytes then { x := x.on r.d, stop := some (sBadParam, 0) }
    else
      let s := streamBytes acc p.owner ctx (p.f 1 63 48) (p.f 1 47 0) (x.on r.d)
      { x := s.1, hdr := r.bytes, rs := [at_ 3 (64 + p.f 6 6 0 * fieldAt r.bytes 8 4) false, at_ 1 s.2 false] }
  | 0x31 => match (leafDpa ls (p.f 1 47 0)).bind (fun y => d.poolAt (d.canon y.1)) with
    | some k => { x := x, rs := [at_ 2 (appendBytes p (d.pool k)) false] }
    | none => { x := x }
  | 0x35 => { x := x, rs := [at_ 3 (8 * (p.f 2 31 0 / (d.pool (poolKey (p.f 4 2 0) (p.f 4 13 8))).arborB)) true] }
  | 0x36 =>
    let b := ((leafDpa ls (p.f 3 47 0)).bind (fun y => d.poolAt (d.canon (leNat (d.peek y.1 8) % 2 ^ 56)))).map (fun k => (d.pool k).arborB)
    (match b with
     | some b => { x := x, rs := [at_ 3 (8 * (p.f 2 31 0 / b)) false] }
     | none => { x := x })
  | _ =>
    let r := d.readDva acc ls (p.f 4 47 0) (32 * p.f 4 63 48)
    let b := if p.opc == 0x21 then r.d.readDva acc ls (bf (p.blk 0 3) 47 0) (8 * bf (p.blk 0 2) 15 0) else { d := r.d }
    let seqs := (chunks 32 r.bytes).map seqEntry
    let bk := (chunks 8 b.bytes).map (fun x => (fieldAt x 0 2, fieldAt x 2 2, fieldAt x 4 1))
    let y := x.on b.d
    if isExc (thenSt r.st b.st) then { x := y, stop := some (thenSt r.st b.st, if isExc r.st then r.fail else b.fail) }
    else if !seqsOk seqs || (p.opc == 0x21 && !bucketsOk seqs bk 0 0) then { x := y, stop := some (sBadParam, 0) }
    else
      let mask := p.f 1 55 52
      let rows := maxOf 0 (seqs.map (fun s => s.qRow + s.qLen))
      let els := rows * p.f 5 7 0 * p.f 5 31 16
      let q1 := match ncand, seqs with | some n, s :: _ => mask != 3 || s.qLen == n | _, _ => true
      if !q1 then { x := y, stop := some (sBadParam, 0) }
      else { x := y, seqs := seqs,
             rs := [at_ 1 (els * (fmtBits (p.f 1 51 48) / 8)) false, at_ 2 (els * (fmtBits (p.f 2 51 48) / 8)) true]
               ++ (if p.f 3 47 0 = 0 then [] else [at_ 3 (4 * rows * p.f 5 7 0) true])
               ++ (if mask == 3 then [{ dva := bf (p.blk 0 0) 47 0, n := 16 * ncand.getD 0 }] else []) }

/-- A failure so far lies in one of some ranges. -/
def XlState.failsIn (x : XlState) (rs : List Range) : Bool :=
  x.past || x.fails.any (fun f => rs.any (fun r => decide (r.dva ≤ f.2.1) && decide (f.2.1 < r.dva + r.n)))

/-- Translation at queue time (09 R203-R206, R215, 15 R319): every range that can be told is translated before a failure is chosen.
The module, the packet with what it captured, and the status and RESULT of a failure; DEDUCED in part: logs 40 and 77. -/
def Dev.capture (d : Dev) (e : Env) (p : Pkt) (ctx : Nat) (ncand : Option Nat) : Dev × Pkt × Option (BitVec 16 × Nat) :=
  let acc := p.acc e
  let rs := p.fixedRanges
  let starts := rs.map (fun r => r.dva) ++ p.moreStarts
  if !(d.ctx p.owner ctx).valid then (d.countXlt p.owner 1, p, some (sUnmapped, starts.foldl min (starts.headD 0)))
  else
    let x := xlRanges acc p.owner ctx rs { d := d }
    let s : Second := if p.twoStep && !x.failsIn p.needs then x.second e p ctx ncand else { x := x }
    let y := if s.stop.isSome then s.x else xlRanges acc p.owner ctx s.rs s.x
    let v := y.verdict p.owner
    match v.2.orElse (fun _ => s.stop) with
    | some f => (v.1, p, some f)
    | none =>
      let all := rs ++ s.rs
      let uses := all.flatMap (fun r => (dpaPieces y.leaves r.dva r.n).map (fun q => (v.1.canon q.1, q.2, r.write)))
      (v.1, { p with leaves := y.leaves, seqs := s.seqs, hdr := s.hdr, uses := uses, dvas := all.map (fun r => (r.dva, r.n)),
                     nwr := (all.filter (fun r => r.write && r.n != 0)).length }, none)

end Sys2Proof.Machine
end

