-- ==== Sys2Proof/Machine/Queues.lean ====
section
/-!
DEFINITION. Machine/Queues.lean: queues and the Dispatcher (spec/11_queues_packets.md R239-R253, spec/05_cores_arrays.md R113,
R114, spec/08_die_fabric.md R183, spec/17_thermal_escapement.md R374): the queue registers, the doorbells, the packets taken,
started and completed, and their interrupts.
-/
namespace Sys2Proof.Machine

/-! Registers. -/

/-- The queue exists: a management queue, or one its partition holds (11 R240). -/
def Dev.queueExists (d : Dev) (q : QRef) : Bool :=
  match q with
  | .part p i => (d.part p.val).st != 0 && i.val < (d.part p.val).queues.toNat
  | .mgmt _ => true

/-- A function reaches a queue's registers. -/
def Dev.mayQueue (d : Dev) (fn : Fn) (q : QRef) : Bool := d.queueExists q && (fn == .pf || fnOwner fn == qOwner q)

/-- A ring base is a target its owner may use, in space 0x0 or 0xC (11 R239). -/
def Dev.ringOk (d : Dev) (o a n : Nat) : Bool :=
  let a := d.canon a
  isLocal a && (dpaSpace a == 0 || dpaSpace a == 12) && d.owns o a n true

/-- Q_STAT.CAUSE of an ENABLE that R239 refuses, 0 where it passes (log 41). -/
def Dev.enableCause (d : Dev) (q : QRef) (x : Queue) : Nat :=
  let o := qOwner q
  let sizeOk := 4 ≤ x.sqLog2.toNat && x.sqLog2.toNat ≤ 16 && 4 ≤ x.cqLog2.toNat && x.cqLog2.toNat ≤ 16
  if x.sqBase.toNat % 4096 != 0 || x.cqBase.toNat % 4096 != 0 then 1
  else if !sizeOk then 3
  else if !d.ringOk o x.sqBase.toNat (64 * x.sqSize) || !d.ringOk o x.cqBase.toNat (16 * x.cqSize) then 2
  else 0

/-- A write of Q_CTL (11 R240, R254). -/
def Dev.wrQctl (d : Dev) (e : Env) (q : QRef) (v : Nat) : Dev :=
  let x := d.queue q
  let d := d.setQueue q { x with ctx := BitVec.ofNat 4 (bf v 4 1) }
  let d :=
    if bit v 0 then
      if x.enable then d
      else
        let c := d.enableCause q x
        let x := d.queue q
        if c = 0 then d.setQueue q { x with enable := true, st := 1, cause := 0 } else d.setQueue q { x with cause := BitVec.ofNat 3 c }
    else d.disableQueue e q
  if bit v 31 then d.startQctlAbort e q else d

/-- A write of Q_IRQ (11 R245). -/
def Dev.wrQirq (d : Dev) (q : QRef) (v : Nat) : Dev :=
  let vec := bf v 7 1
  if (if qOwner q == 8 then 16 else 64) < vec then d
  else d.setQueue q { d.queue q with
    irqEn := bit v 0, irqVec := BitVec.ofNat 7 vec, irqCount := BitVec.ofNat 8 (bf v 15 8), irqTime := BitVec.ofNat 16 (bf v 31 16) }

/-! Doorbells (11 R242). -/

/-- The queue behind a doorbell page of a function. -/
def doorbellQueue (fn : Fn) (page : Fin 64) : Option QRef :=
  match fn with
  | .pf => if h : page.val < 16 then some (.mgmt ⟨page.val, h⟩) else none
  | .vf p => some (.part p page)

/-- An ignored doorbell counted. -/
def Dev.badDoorbell (d : Dev) (q : QRef) : Dev := let x := d.queue q; d.setQueue q { x with badDb := satAdd x.badDb 1 }

/-- SQ_TAIL: ignored and counted, held while an ABORT covers the queue, or taken. Earlier posted writes of the function are performed
first (10 R236). -/
def Dev.ringTail (d : Dev) (e : Env) (q : QRef) (bits v : Nat) : Dev :=
  let d := d.awaitHeld e (fun h => h.bar4 && h.owner == some (qOwner q))
  let x := d.queue q
  if bits != 32 || x.sqSize ≤ v || !x.enable then d.badDoorbell q
  else if d.aborting q then d.setQueue q { x with heldTail := some (BitVec.ofNat 16 v) }
  else d.applyTail q v

/-- CQ_HEAD: entries host software has consumed; one that is not held by an ABORT (log 42). -/
def Dev.ringHead (d : Dev) (q : QRef) (bits v : Nat) : Dev :=
  let x := d.queue q
  if bits != 32 || x.cqSize ≤ v || !x.enable then d.badDoorbell q
  else d.setQueue q { x with cqHead := BitVec.ofNat 16 v }

/-! Taking (11 R243, R244). -/

/-- A queue whose head packet may be taken: its header; DEDUCED in part: log 23. -/
def Dev.takeable (d : Dev) (q : QRef) : Option Header :=
  let x := d.queue q
  let n := d.outstanding q
  if x.enable && x.st == 1 && !d.aborting q && x.waiting != 0 && n < x.cqFree && n < 256 then
    let h := d.peekHeader x x.sqHead.toNat
    if 1 + h.len ≤ x.waiting && !(bit h.flg 1 && d.tagOut q (BitVec.ofNat 16 h.tag)) then some h else none
  else none

/-- The queue that the selection of R244 serves next, with its header: within the highest class, the one whose turn it is, or the
next in rotation. -/
def Dev.selectQueue (d : Dev) : Option (QRef × Header) :=
  let c : List (QRef × Header) := d.enabled.filterMap (fun q => (d.takeable q).map (fun h => (q, h)))
  let top := maxOf 0 (c.map (fun (x : QRef × Header) => x.2.qos / 64))
  let c := sortBy (fun (a b : QRef × Header) => qKey a.1 ≤ qKey b.1) (c.filter (fun (x : QRef × Header) => x.2.qos / 64 == top))
  match tget? d.disp.turns top with
  | none => c.head?
  | some t =>
    let again := if t.2 = 0 then none else c.find? (fun (x : QRef × Header) => qKey x.1 == t.1)
    again.orElse (fun _ => (c.find? (fun (x : QRef × Header) => t.1 < qKey x.1)).orElse (fun _ => c.head?))

/-- The turn of the queue served, of its class alone (11 R244). -/
def Dev.takeTurn (d : Dev) (q : QRef) (h : Header) : Dev :=
  let left := match tget? d.disp.turns (h.qos / 64) with
    | some t => if t.1 == qKey q && t.2 != 0 then t.2 - 1 else h.qos % 64
    | none => h.qos % 64
  { d with disp := { d.disp with turns := tset d.disp.turns (h.qos / 64) (qKey q, left) } }

/-- The checks of R247 that need no parameter: the status. -/
def Dev.headerStatus (d : Dev) (q : QRef) (h : Header) : BitVec 16 :=
  if !d.sys.ready then sNotReady
  else match opLen h.opc with
    | none => sBadOpcode
    | some n =>
      if h.fmt != 1 || 16 ≤ h.flg || h.tag = 0 then sBadParam
      else if d.tagOut q (BitVec.ofNat 16 h.tag) && !bit h.flg 1 then sBadParam
      else if h.len != n then sBadParam
      else sOk

/-- The checks of R247 and R261 that read the parameters. -/
def Dev.paramStatus (d : Dev) (p : Pkt) (ncand : Option Nat) : BitVec 16 :=
  if p.owner != 8 && (opMgmt p.opc.toNat || (p.opc == 0xF0 && p.f 1 1 0 == 2)) then sPerm
  else if !reservedOk p.opc.toNat p.words then sBadParam
  else if !d.fieldsOk p ncand then sBadParam
  else if !d.issuerOk p || !d.maskOk p then sPerm
  else if p.opc == 0xF0 then (d.abortScope p.q (p.word 1)).2
  else sOk

/-- A packet entered among those in flight. -/
def Dev.enterPkt (d : Dev) (p : Pkt) : Dev := { d with disp := { d.disp with ord := d.disp.ord + 1, pkts := d.disp.pkts ++ [p] } }

/-- A packet that completes without executing. -/
def Pkt.ended (p : Pkt) (st : BitVec 16) (res : Nat) : Pkt := { p with phase := .done, status := st, result := BitVec.ofNat 64 res }

/-- The number of the most recent earlier packet of a queue with a tag that has been taken and not completed (11 R248), an ABORT
that the head has passed among them. -/
def Dev.depOf (d : Dev) (q : QRef) (tag : Nat) : Option Nat :=
  let l := ((d.inflight q).filter (fun y => y.tag.toNat == tag)).map (·.ord) ++ ((d.abortsOf q).filter (fun j => j.tag.toNat == tag && !(d.queue q).skip.contains j.slot)).map (·.ord)
  if l.isEmpty then none else some (maxOf 0 l)

/-- What a FLUSH waits for, fixed when it is taken (10 R230): completed packets of its scope with writes still outstanding. -/
def Dev.flushSet (d : Dev) (p : Pkt) : List Nat :=
  let inScope := fun (q : QRef) => if bit (p.word 1) 0 then qOwner q == p.owner else q == p.q
  let rids := (d.lnk.rids.filter (fun r => inScope r.q && (match r.use with | .dmaWrite _ _ _ => true | _ => false))).map (·.ord)
  let prts := (d.zf.reqs.filter (fun r => r.wr && !r.dead && !r.sync && inScope r.q)).map (·.ord)
  let held := (d.kpm.held.filter (fun h => match h.q with | some q => inScope q | none => false)).filterMap (·.ord)
  nub ((rids ++ prts ++ held).filter (fun o => !d.disp.pkts.any (fun x => x.ord == o)))

/-- The packet at the head of a queue taken: read, checked, answered from the window, or translated (11 R243-R252). A packet of the
management domain, which has no TRN_MODE entry, runs with DET 1 and OUT_SAT 0 (DESIGN CHOICE, log 85). -/
def Dev.takePacket (d : Dev) (e : Env) (q : QRef) (h : Header) : Dev :=
  let x := d.queue q
  let slot := x.sqHead.toNat
  let r := d.readPacket e q slot h.len
  if isExc r.2.2 then r.1.ringError q
  else
    let d := r.1.takeTurn q h
    let x := d.queue q
    let tag := BitVec.ofNat 16 h.tag
    let x := Queue.skipSlots x.skip.length { x with sqHead := BitVec.ofNat 16 ((slot + 1 + h.len) % x.sqSize), lastTaken := tag }
    let d := d.setQueue q x
    let o := qOwner q
    let dep := d.depOf q h.dep
    let p : Pkt := {
      q := q, tag := tag, opc := BitVec.ofNat 8 h.opc, flg := BitVec.ofNat 8 h.flg, qos := BitVec.ofNat 8 h.qos, dep := BitVec.ofNat 16 h.dep,
      words := r.2.1, ord := d.disp.ord, ctx := x.ctx.toNat, depOrd := if h.dep = 0 then none else dep,
      depMet := h.dep = 0 || dep.isNone, det := (d.part o).det, outSat := (d.part o).outSat }
    let s := d.headerStatus q h
    if isExc s then d.draw.enterPkt (p.ended s (Config.freeValue d.free).toNat)
    else
      match (if bit h.flg 1 then x.window.find? (fun w => w.tag == tag && w.opc == p.opc) else none) with
      | some w =>
        let d := d.setQueue q { x with replayed := satAdd x.replayed 1 }
        d.enterPkt { p.ended (if isExc w.status then w.status else sReplayed) w.result.toNat with hit := true }
      | none =>
        let s := d.paramStatus p none
        if isExc s then d.draw.enterPkt (p.ended s (Config.freeValue d.free).toNat)
        else if p.opc == 0xF0 then
          let t := (d.abortScope q (p.word 1)).1
          ({ d with disp := { d.disp with
              ord := d.disp.ord + 1,
              aborts := d.disp.aborts ++ [({ q := some q, tag := tag, slot := slot, ord := d.disp.ord, scope := p.f 1 1 0, target := t, start := d.now } : AbortJob)] } } : Dev).setRunning t 1 2
        else
          let c := d.capture e p p.ctx none
          match c.2.2 with
          | some f => c.1.enterPkt (p.ended f.1 f.2)
          | none => c.1.enterPkt (if p.opc == 0x04 then { c.2.1 with flush := c.1.flushSet p } else c.2.1)

/-- PACKET_TAKE. -/
def Dev.takeNext (d : Dev) (e : Env) : Dev :=
  match d.selectQueue with
  | none => d
  | some (q, h) => d.takePacket e q h

/-! Starting (11 R244, R248; 05 R113, R114; 17 R374). -/

/-- Unit class of an opcode: 0 the arrays, 1 the VXU, 2 the ATU. -/
def unitClass (opc : Nat) : Option Nat :=
  match opc with
  | 0x10 => some 0
  | 0x11 => some 0
  | 0x12 => some 0
  | 0x13 => some 1
  | 0x14 => some 1
  | 0x15 => some 1
  | 0x20 => some 2
  | 0x21 => some 2
  | _ => none

/-- Units of a class: arrays 0-3, the VXU 4, the ATU 5. -/
def unitsOf (c : Nat) : List Nat := match c with | 0 => [0, 1, 2, 3] | 1 => [4] | _ => [5]

/-- Packets started and not done that run on a core. -/
def Dev.runningOn (d : Dev) (k : Nat) : List Pkt := d.disp.pkts.filter (fun p => p.phase == .started && p.on.contains k)

/-- A core has a free unit of a class: neither pausing nor in use. -/
def Dev.unitFree (d : Dev) (k c : Nat) : Bool :=
  let free := (unitsOf c).filter (fun u => (tget d.units (6 * k + u) {}).pause == 0)
  let used := (d.runningOn k).filter (fun p => unitClass p.opc.toNat == some c)
  used.length < free.length

/-- The scoreboard of a core lets a packet start (05 R114): it overlaps no range that is being written, and an entry is free where
it writes memory. Each written range takes one of the eight entries. -/
def Dev.scoreOk (d : Dev) (k : Nat) (p : Pkt) : Bool :=
  let run := d.runningOn k
  let w := run.flatMap (fun x => x.uses.filter (fun u => u.2.2))
  !w.any (fun a => p.uses.any (fun b => overlaps a.1 a.2.1 b.1 b.2.1)) && ((run.map (·.nwr)).foldl (· + ·) 0 < 8 || p.nwr = 0)

/-- Site of the KPM that serves a KPM packet. -/
def Dev.kpmSite (d : Dev) (p : Pkt) : Option Nat :=
  match p.opc.toNat with
  | 0x30 => some (p.f 1 2 0)
  | 0x35 => some (p.f 4 2 0)
  | 0x36 => ((leafDpa p.leaves (p.f 3 47 0)).bind (fun x => d.poolAt (d.canon (leNat (d.peek x.1 8) % 2 ^ 56)))).map (fun k => k / 64)
  | _ => if isKpmOp p.opc.toNat then (d.poolAt (d.canon p.descA)).map (fun k => k / 64) else none

/-- HALT keeps a packet from starting (17 R374). -/
def Dev.haltedFor (d : Dev) (p : Pkt) : Bool :=
  (nub ((d.pktCores p).map (fun k => k / 64))).any d.halt || (match d.kpmSite p with | some n => d.halt n | none => false)

/-- Die of the HBM controller that holds a granule; none where the address is not HBM of this module. -/
def Dev.hbmDie (d : Dev) (a : Nat) : Option Nat := match d.locate (d.canon a) with | .hbm h _ _ _ => some (h / 2) | _ => none

/-- The granules of a packet's weight operand that lie in HBM: source die and bytes. -/
def Dev.weights (d : Dev) (p : Pkt) : List (Nat × Nat) :=
  ((p.td 0 1).ranges false true).flatMap (fun r => (dpaPieces p.leaves r.dva r.n).flatMap (fun q =>
    (cut4k (q.2 / 4096 + 2) q.1 q.2).filterMap (fun g => (d.hbmDie g.1).map (fun n => (n, g.2)))))

/-- The stream trees of a packet whose weights lie in HBM and which more than one core runs: one from each die that holds some of
them, to every core of the packet (08 R182; log 104). -/
def Dev.formTrees (d : Dev) (p : Pkt) (cores : List Nat) : List StreamTree :=
  if unitClass p.opc.toNat == some 0 && 2 ≤ cores.length then
    let w := d.weights p
    (nub (w.map (·.1))).map (fun n => {
      src := n, bytes := ((w.filter (fun g => g.1 == n)).map (·.2)).foldl (· + ·) 0,
      dests := (nub (cores.map (· / 64))).map (fun s => (s, (cores.filter (fun k => k / 64 == s)).map (· % 64))) })
  else []

/-- Stream trees active (08 R183). -/
def Dev.trees (d : Dev) : Nat := ((d.disp.pkts.filter (fun p => p.phase == .started)).map (fun p => p.trees.length)).foldl (· + ·) 0

/-- Packets of the same queue taken before this one hold it back: one not yet started, a WAIT or a BARRIER not yet done. -/
def Dev.heldBack (d : Dev) (p : Pkt) : Bool :=
  (d.inflight p.q).any (fun x => x.ord < p.ord && (x.phase == .taken || (x.phase == .started && (x.opc == 0x01 || x.opc == 0x03))))

/-- The site of the KPM or DMA complex that serves a packet; of another packet none. -/
def Dev.unitSite (d : Dev) (p : Pkt) : Option Nat := if p.isDma then some (p.f 2 11 8 / 2) else d.kpmSite p

/-- The packet names a core that is gone: its CORE_MASK holds a group with a core fenced at run time, or one with no core left
(06 R155; log 98). -/
def Dev.namesGone (d : Dev) (p : Pkt) : Bool :=
  match p.coreMask with
  | none => false
  | some 0 => false
  | some m => (maskBits m 48).any (fun b =>
      (d.coresOf [b]).isEmpty || (List.range 8).any (fun i => (d.slice (b / 8) (8 * (b % 8) + i)).st == 2))

/-- A taken packet starts (11 R244, R248), where nothing holds it back. -/
def Dev.startPkt (d : Dev) (p : Pkt) : Dev :=
  if p.phase != .taken || d.heldBack p || !p.depMet then d
  else if isExc p.depSt && !bit p.flg.toNat 3 then d.finish p.ord sAborted (p.dep.toNat + 65536 * p.depSt.toNat)
  else if d.haltedFor p then d
  else
    let cores := d.pktCores p
    if p.coreMask.isSome && (cores.isEmpty || d.namesGone p) then d.close p sBadParam 0
    else
      let unitsOk := match unitClass p.opc.toNat with | some c => cores.all (fun k => d.unitFree k c) | none => true
      let trees := d.formTrees p cores
      if !unitsOk || !cores.all (fun k => d.scoreOk k p) || (!trees.isEmpty && 64 < d.trees + trees.length) then d
      else ({ d with disp := { d.disp with starts := d.disp.starts + 1 } } : Dev).modPkt p.ord (fun x => { x with
        phase := .started, on := cores, core := cores.head?, trees := trees, site := d.unitSite p, startNo := d.disp.starts,
        deadline := if p.opc == 0x03 && p.f 3 63 32 != 0 then some (d.now + 1000 * p.f 3 63 32) else none })

/-! Interrupts. -/

/-- The time trigger of a queue (11 R245). -/
def Dev.irqTime (d : Dev) (q : QRef) : Dev :=
  let x := d.queue q
  match x.oldest with
  | none => d
  | some t =>
    if x.irqEn && x.irqVec != 0 && x.irqTime != 0 && x.unsig != 0 then
      let d := d.advTo (t + 1000 * x.irqTime.toNat)
      (d.setQueue q { x with unsig := 0, oldest := none }).emit (.msix (ownerFn (qOwner q)) x.irqVec.toNat)
    else d

end Sys2Proof.Machine
end

