-- ==== Sys2Proof/Machine/Thermal.lean ====
section
/-!
DEFINITION. Machine/Thermal.lean: the thermal scan, the votes, the thermal and facility sources, the threshold crossings, and
the STOP of a domain (spec/17_thermal_escapement.md R365-R381, R384, R448, R449; spec/03_power_to_ready.md R80).
Temperatures are whole numbers of quarter degrees.
-/
namespace Sys2Proof.Machine

/-! Thresholds (17 Table 17-2), by class. -/

/-- WARN. -/
def warnAt (c : Nat) : Int := [380, 352, 352, 420].getD c 0
/-- ESC enter. -/
def enterAt (c : Nat) : Int := [400, 368, 360, 440].getD c 0
/-- ESC exit. -/
def exitAt (c : Nat) : Int := [376, 348, 340, 416].getD c 0
/-- STOP. -/
def stopAt (c : Nat) : Int := [440, 400, 392, 480].getD c 0

/-! Sensors. -/

/-- Positions next to i in a grid of so many columns (17 R449). -/
def gridNext (cols count i : Nat) : List Nat :=
  (List.range count).filter (fun j =>
    (j / cols == i / cols && (j + 1 == i || i + 1 == j)) || (j % cols == i % cols && (j + cols == i || i + cols == j)))

/-- DRAM quadrant over a physical core (17 R449). -/
def coreQuad (p : Nat) : Nat := 2 * (p / 17 / 2) + (if 9 ≤ p % 17 then 1 else 0)

/-- A reading is out of range: below -10 or above 125 degrees, or none (17 R366). -/
def outOfRange (v : Option Int) : Bool := match v with | none => true | some q => q < -40 || 500 < q

/-- What a sensor reads in this scan; an HBM sensor gives the last IEEE 1500 reading of its stack (07 R174). -/
def Dev.reading (d : Dev) (r : ScanEnv) (n c i : Nat) : Option Int :=
  let s := d.sensor (sensKey n c i)
  if c == 2 then (let x := d.stack (2 * n + i); if x.sensorOk then some (4 * x.temp.toInt) else none)
  else match tget? r.readings (sensKey n c i) with
    | some v => v
    | none => if s.seen && !s.oor then some s.raw else none

/-- A sensor with its new reading, its marks as the scan before left them. -/
def Dev.freshSensor (d : Dev) (r : ScanEnv) (n c i : Nat) : Sensor :=
  let s := d.sensor (sensKey n c i)
  let v := d.reading r n c i
  { s with raw := v.getD s.raw, oor := outOfRange v, seen := s.seen || v.isSome }

/-- A class is read in HOT mode (17 R368). -/
def Dev.hotMode (d : Dev) (c : Nat) : Bool := 2 ≤ c || d.thm.ctl.getLsbD c

/-- The sensor may vote: in range, and not SUSPECT after the previous scan. -/
def Sensor.votes (s : Sensor) : Bool := !s.oor && !s.suspect

/-- Neighbours of a sensor that vote: reading, and whether it is of the same class (17 R368). -/
def Dev.neighbours (d : Dev) (fresh : Tbl Sensor) (n c i : Nat) : List (Int × Bool) :=
  let pick := fun (c' : Nat) (l : List Nat) =>
    ((l.map (fun j => tget fresh (sensKey n c' j) {})).filter Sensor.votes).map (fun s => (s.raw, c' == c))
  if c == 0 then
    if d.kind n == 0 then pick 0 (gridNext 17 68 i) ++ pick 1 [coreQuad i] else pick 0 (gridNext 4 16 i)
  else
    let l := i / 4
    let q := i % 4
    let vert := (if l = 0 then [] else [4 * (l - 1) + q]) ++ (if l = 7 then [] else [4 * (l + 1) + q])
    let logic := (pick 0 ((List.range 68).filter (fun p => coreQuad p == q))).map (·.1)
    pick 1 (vert ++ [4 * l + (q ^^^ 1), 4 * l + (q ^^^ 2)]) ++
      (match logic with | [] => [] | x :: r => [(r.foldl max x, false)])

/-- Twice the median of a list of readings. -/
def median2 (l : List Int) : Int :=
  let v := sortBy (fun a b => a ≤ b) l
  let k := v.length
  if k % 2 == 1 then 2 * v.getD (k / 2) 0 else v.getD (k / 2 - 1) 0 + v.getD (k / 2) 0

/-- VOTE mode (17 R369). -/
def voteSensor (ent : Int) (x : Sensor) (nb : List (Int × Bool)) : Sensor :=
  if 3 ≤ nb.length then
    let bad := x.oor || 96 < (2 * x.raw - median2 (nb.map (·.1))).natAbs
    let good := if bad then 0 else if x.suspect then x.good + 1 else x.good
    let sus := bad || (x.suspect && good < 100)
    let same := (nb.filter (·.2)).map (·.1)
    { x with
      suspect := sus, good := good, broken := false,
      eff := if sus then (match same with | [] => ent | a :: r => r.foldl max a) else x.raw }
  else { x with broken := false, eff := if x.oor then ent else x.raw }

/-- HOT mode (17 R370). -/
def hotSensor (ent : Int) (x : Sensor) : Sensor := { x with broken := x.oor, eff := if x.oor then ent else x.raw }

/-- A sensor after the scan. -/
def Dev.evalSensor (d : Dev) (fresh : Tbl Sensor) (n c i : Nat) : Sensor :=
  let x := tget fresh (sensKey n c i) {}
  if d.hotMode c then hotSensor (enterAt c) x else voteSensor (enterAt c) x (d.neighbours fresh n c i)

/-! Domains. -/

/-- What a scan finds of one class of a domain: hottest effective reading, WARN and ESC after it, the demand, the crossings. -/
structure ClassScan where
  /-- Class. -/
  c : Nat
  /-- Hottest effective reading. -/
  t : Int
  /-- At or above WARN, with its hysteresis. -/
  warn : Bool
  /-- eng. -/
  eng : Bool
  /-- Demand d[c]. -/
  demand : Nat
  /-- Crossings as HST_THERMAL codes them. -/
  cross : List Nat

/-- One class of a domain (17 R371, R372). -/
def scanClass (x : Domain) (c : Nat) (t : Int) : ClassScan :=
  let w := x.warn.getLsbD c
  let g := x.eng.getLsbD c
  let w' := if warnAt c ≤ t then true else if t < warnAt c - 12 then false else w
  let g' := if enterAt c ≤ t then true else if t < exitAt c then false else g
  let dem := if enterAt c ≤ t then min 15 (1 + ((t - enterAt c) * 14 / (stopAt c - enterAt c)).toNat) else b2n g'
  { c := c, t := t, warn := w', eng := g', demand := dem,
    cross := (if w' != w then [if w' then 0x80 else 0x00] else []) ++ (if g' != g then [if g' then 0x81 else 0x02] else []) ++
      (if stopAt c ≤ t then [0x83] else []) }

/-- Hottest of a list of effective readings; DEDUCED in part: log 14. -/
def hottestOf (l : List Int) : Int := match l with | [] => 0 | x :: r => r.foldl max x

/-- HST_THERMAL for one crossing (17 R372). -/
def Dev.sendCrossing (d : Dev) (n : Nat) (x : ClassScan) (code : Nat) : Dev :=
  let d := d.supSend 0x86 ([BitVec.ofNat 8 n, BitVec.ofNat 8 x.c, BitVec.ofNat 8 code] ++ leBytes 2 (sField 16 (tenths x.t)))
  d.raiseThm (match code % 4 with | 0 => 1 | 3 => 4 | _ => 2)

/-- A domain is scanned: its die is in service and no STOP of it has begun (21 R438). -/
def Dev.scanned (d : Dev) (n : Nat) : Bool := !(8 ≤ (d.siteSt n).toNat) && !(d.dom n).stopping && !d.stopped n

/-! STOP (17 R378-R381, R448). -/

/-- The page of a descriptor lies on a site, or its pool's KPM does. -/
def Dev.pageOn (d : Dev) (n a : Nat) : Bool :=
  (match d.poolAt a with | some k => k / 64 == n | none => false) ||
    d.homeSite (d.canon (PDesc.ofBytes (d.peek a 32)).base) == n

/-- A packet that executes on a domain's units or waits for them (17 R378, R448, 15 R341). -/
def Dev.inDomain (d : Dev) (n : Nat) (p : Pkt) : Bool :=
  (d.pktCores p).any (fun k => k / 64 == n) || d.kpmSite p == some n
    || ((p.opc == 0x40 || p.opc == 0x41) && p.f 2 11 8 / 2 == n)
    || (d.kind n == 2 && d.zf.reqs.any (fun r => r.q == p.q && r.tag == p.tag))
    || (d.disp.verifies.any (fun v => v.q == p.q && v.tag == p.tag && v.pages.any (d.pageOn n)))

/-- Steps 1 and 2 of Table 17-3: HALT is forced, and the domain's packets are cancelled with E_THERMAL_STOP; a packet that an
ABORT reached first keeps the ABORT's status (11 R259). Before SYS_READY the
power-up sequence is abandoned (03 decided case); DEDUCED in part: log 52. -/
def Dev.beginStop (d : Dev) (e : Env) (n c : Nat) (scan : List ClassScan) (sens : List (Nat × Sensor)) : Dev :=
  let t := (scan.find? (fun x => x.c == c)).map (·.t)
  let trig := sens.find? (fun s => s.1 / 100 == 10 * n + c && some s.2.eff == t)
  let x := d.dom n
  let rec0 : StopRec := {
    cls := BitVec.ofNat 2 c, idx := match trig with | some s => BitVec.ofNat 8 (s.1 % 100) | none => 0xFF,
    tj := t.getD 0, atT := d.now, level := BitVec.ofNat 4 (d.level n),
    hot := (List.range 4).map (fun c => match scan.find? (fun y => y.c == c) with
      | some y => Int.ofNat (sField 16 (tenths y.t))
      | none => Int.ofNat (Config.openResult 17 [n, c] % 65536)),
    flags := BitVec.ofNat 8 (b2n (d.halt n) + (match trig with | some s => 2 * b2n s.2.suspect + 4 * b2n s.2.broken | none => 0)) }
  let d := d.setDom n { x with stopping := true, srec := rec0 }
  let d := if d.sys.everReady || d.sys.phase == 0xF then d else { d with sys := { d.sys with phase := 0xF, failCause := 2 } }
  let hit := d.disp.pkts.filter (fun p => p.phase != .done && d.inDomain n p)
  let d := (hit.filter (fun p => p.phase == .started && isKpmOp p.opc.toNat)).foldl (fun d p => d.runKpm p e) d
  let act := hit.filter (fun p => p.cancels && !d.disp.aborts.any (fun j => j.stuck.contains p.ord))
  let d := act.foldl (fun d p => (d.cancelPkt e sThermalStop p).countAborted p.q 1) d
  let d := (d.liveCoresOf n).foldl (fun d c => d.drain e (coreKey n c)) d
  let y := d.dom n
  d.setDom n { y with srec := { y.srec with cancelled := act.length } }

/-- The 44 bytes of a stop record (17 Table 17-4); DESIGN CHOICE in part: log 17. -/
def Dev.stopRecord (d : Dev) (n : Nat) : List Byte :=
  let r := (d.dom n).srec
  [1, BitVec.ofNat 8 n, BitVec.ofNat 8 r.cls.toNat, r.idx] ++ leBytes 2 (sField 16 (tenths r.tj)) ++ leBytes 8 r.atT
    ++ [BitVec.ofNat 8 r.level.toNat, r.flags] ++ r.hot.flatMap (fun h => leBytes 2 h.toNat) ++ leBytes 2 (min r.cancelled 65535)
    ++ leBytes 2 d.thm.pEst.toNat ++ leBytes 2 d.sup.facIn.toNat ++ leBytes 2 d.sup.facOut.toNat ++ leBytes 2 d.sup.facFlow.toNat
    ++ List.replicate 10 0

/-- The ZF ports of a die go down (17 R379, 08 R181). -/
def Dev.portsDown (d : Dev) (e : Env) (n : Nat) : Dev :=
  ((List.range 7).filter (fun j => (portEnds j).1 == n || (portEnds j).2 == n)).foldl
    (fun d j => if d.portUp j then d.portDown e j [] else d) d

/-- Step 5 for a domain other than 5: its rails are off (17 R379, R448). -/
def Dev.domainOff (d : Dev) (e : Env) (n : Nat) : Dev :=
  let d := d.setDom n { d.dom n with st := 3 }
  match d.kind n with
  | 0 =>
    let d := ((d.loseStack e n).mapOutSite n).dropDma n sThermalStop
    let d := { d with zf := { d.zf with rlc := d.zf.rlc.filter (fun l => l.site != n) } }
    ((d.portsDown e n).publishLive).breakClass 128
  | 1 => ((((d.dropDma n sThermalStop).dropLinks n).portsDown e n).publishLive).breakClass 128
  | _ => d.partnerLost sThermalStop

/-- Steps 3 to 5 of Table 17-3: the record written and sent, and the rails off; domain 5 goes off in DOMAIN5_POWER_DOWN. -/
def Dev.writeStop (d : Dev) (e : Env) (n : Nat) : Dev :=
  let x := d.dom n
  if !x.stopping || x.srec.written then d
  else
    let b := d.stopRecord n
    let d := ((d.setDom n { x with srec := { x.srec with bytes := b, written := true } }).raiseThm 4).sendRecord 0x82 b
    if n == 5 then d else d.domainOff e n

/-! The scan. -/

/-- One domain scanned. -/
def Dev.scanDom (d : Dev) (r : ScanEnv) (e : Env) (n : Nat) : Dev :=
  if !d.scanned n then d
  else
    let cs := (List.range 4).filter (fun c => !(d.sensorsOf n c).isEmpty)
    let fresh : Tbl Sensor := cs.flatMap (fun c => (d.sensorsOf n c).map (fun i => (sensKey n c i, d.freshSensor r n c i)))
    let new : List (Nat × Sensor) :=
      cs.flatMap (fun c => (d.sensorsOf n c).map (fun i => (sensKey n c i, d.evalSensor fresh n c i)))
    let sus := new.any (fun s => s.2.suspect && !(tget fresh s.1 {}).suspect)
    let brk := new.any (fun s => s.2.broken && !(tget fresh s.1 {}).broken)
    let x := d.dom n
    let scan := cs.map (fun c => scanClass x c (hottestOf ((new.filter (fun s => s.1 / 100 == 10 * n + c)).map (fun s => s.2.eff))))
    let target := maxOf 0 (scan.map (·.demand))
    let th := x.thermal.toNat
    let free := x.st == 1 && new.all (fun s => s.2.seen) && scan.all (fun s => s.t < exitAt s.c)
    let th' := if x.st == 1 then (if free then 0 else 15) else if th < target then th + 1 else if target < th then th - 1 else th
    let d := { d with thm := { d.thm with sens := new.foldl (fun (t : Tbl Sensor) (s : Nat × Sensor) => tset t s.1 s.2) d.thm.sens } }
    let d := d.setDom n { x with
      st := if free then 2 else x.st, thermal := BitVec.ofNat 4 th',
      eng := BitVec.ofNat 4 (ofBits ((scan.filter ClassScan.eng).map ClassScan.c)), warn := BitVec.ofNat 4 (ofBits ((scan.filter ClassScan.warn).map ClassScan.c)),
      hot := scan.map (fun (s : ClassScan) => (s.c, s.t)) }
    let d := d.raiseThm (BitVec.ofNat 6 (8 * b2n sus + 16 * b2n brk + 32 * b2n free))
    let d := scan.foldl (fun d s => s.cross.foldl (fun d k => d.sendCrossing n s k) d) d
    match scan.find? (fun s => stopAt s.c ≤ s.t) with
    | some s => d.beginStop e n s.c scan new
    | none => d

/-- The facility level after a scan (17 R376); DEDUCED in part: log 51. -/
def facNext (lvl pEst cap : Nat) (shed0 : Bool) : Nat :=
  if shed0 then 15
  else if cap == 0xFFFF then lvl - 1
  else if cap < pEst then min 15 (lvl + 1)
  else if 100 * pEst < 97 * cap then lvl - 1
  else lvl

/-- A change of THM_CTL takes effect, and clears the SUSPECT marks of its classes (17 R370). -/
def Dev.applyThmCtl (d : Dev) : Dev :=
  let ch := d.thm.ctl ^^^ d.thm.ctlEff
  if ch == 0 then d
  else { d with thm := { d.thm with
    ctlEff := d.thm.ctl,
    sens := d.thm.sens.map (fun (s : Nat × Sensor) =>
      if s.1 % 1000 / 100 < 2 && ch.getLsbD (s.1 % 1000 / 100) then (s.1, { s.2 with suspect := false, good := 0 }) else s) } }

/-- A scan (17 R366): every domain, then the facility level. -/
def Dev.scan (d : Dev) (r : ScanEnv) (e : Env) : Dev :=
  if !d.time.running then d
  else
    let d := d.advTo (d.time.scanAt + ms)
    let d := { d with time := { d.time with scanAt := d.now } }
    let d := (List.range 6).foldl (fun d n => d.scanDom r e n) d.applyThmCtl
    let p := min ((104 * r.power + 50) / 100) 65535
    { d with thm := { d.thm with
      pEst := BitVec.ofNat 16 p, facLvl := BitVec.ofNat 4 (facNext d.thm.facLvl.toNat p d.pwr.capW.toNat d.pwr.shed0) } }

/-- A write of ESC_REQ_n (17 R377, R385). -/
def Dev.wrEscReq (d : Dev) (owner n v : Nat) : Dev :=
  if d.mayRequest owner n && !d.dieOut n then d.hostReq n (bf v 3 0) (bit v 4) owner else d

end Sys2Proof.Machine
end

