-- ==== Sys2Proof/Machine/Reset.lean ====
section
/-!
DEFINITION. Machine/Reset.lean: a partition's end (spec/09_addressing.md R217), the warm restart, PERST#, Function Level Resets,
configuration requests and the size of BAR4 (spec/03_power_to_ready.md R86, R90, R91, R446, spec/21_register_summary.md R434,
R441).
-/
namespace Sys2Proof.Machine

/-! Partitions and queues destroyed. -/

/-- Every queue of some list of keys gone. -/
def Dev.dropQueues (d : Dev) (gone : Nat → Bool) : Dev := { d with queues := d.queues.filter (fun e => !gone e.1) }

/-- A partition with every register of its stride at reset; TRN_MODE, KPM_QSTREAM and the ATU counts are kept. -/
def Part.released (x : Part) : Part :=
  { det := x.det, outSat := x.outSat, streams := x.streams, empty := x.empty, vDone := x.vDone, vRolled := x.vRolled, accepted := x.accepted }

/-- A partition releases every resource, once its packets are gone (09 R217 steps 2-4, 14 R296, 17 R377, 08 R185). -/
def Dev.releasePart (d : Dev) (p : Nat) : Dev :=
  let d := { d with zf := { d.zf with rlc := d.zf.rlc.filter (fun l => l.owner != p) },
                    disp := { d.disp with tlb := d.disp.tlb.filter (fun t => t.owner != p) },
                    lpe := d.lpe.filter (fun e => e.1 / 32 != p) }
  let d := (d.dropQueues (fun k => k / 64 == p)).dropPools p
  (d.dropReqs p (List.range 6)).setPart p (d.part p).released

/-- Registers of a partition that a warm restart resets (21 Table 21-4). -/
def Part.warmReset (x : Part) : Part := { empty := x.empty, vDone := x.vDone, vRolled := x.vRolled, accepted := x.accepted }

/-- A VF's counter window with CNT_SEL, CNT_CTL, CNT_EVT and CNT_SAT_LAST at reset. -/
def CntFn.warmReset (x : CntFn) : CntFn := { shadow := x.shadow, shOvf := x.shOvf }

/-- The registers of Table 21-4 return to their reset values, and every partition and queue is gone (21 R441). -/
def Dev.table214 (d : Dev) : Dev :=
  let d := (List.range 8).foldl (fun d p => if (d.part p).st == 0 then d else d.releasePart p) d
  let d := { d with
    parts := d.parts.map (fun (e : Nat × Part) => (e.1, e.2.warmReset)), queues := [], lpe := [],
    cnt := { d.cnt with fns := d.cnt.fns.map (fun (e : Nat × CntFn) => if e.1 == 0 then e else (e.1, e.2.warmReset)) },
    snp := d.snp.filter (fun e => e.1 == 0) }
  ((d.mapDom (fun _ x => { x with hostLvl := 0, hostHalt := false, hostOwner := 8 })).staleTlb (fun _ => true)).vopReset

/-- Every packet and queue ends by a device-scope ABORT, and Table 21-4 resets (03 R90 steps 2, 3). -/
def Dev.endAll (d : Dev) : Dev := (d.abortNow {} d.enabled).1.table214

/-- A warm restart begins: SYS_READY clears. -/
def Dev.warmBegin (d : Dev) (start : Option Nat) : Dev :=
  let d := d.endAll
  { d with sys := { d.sys with ready := false, warmPend := true, warmStart := start } }

/-! PERST#. -/

/-- PERST# asserts (03 R90): the PCIe controller resets; after SYS_READY, a warm restart is pending; DEDUCED in part: log 48. -/
def Dev.perstAssert (d : Dev) : Dev :=
  let d := { d with pins := { d.pins with perst := true }, pcie := {} }
  if !d.supAlive then d
  else if d.sys.ready then d.warmBegin none
  else if d.sys.warmPend then { d with sys := { d.sys with warmStart := none } }
  else d

/-- PERST# deasserts (03 R86, R90): a pending warm restart starts counting. -/
def Dev.perstDeassert (d : Dev) : Dev :=
  let d := { d with pins := { d.pins with perst := false } }
  if d.supAlive && d.sys.warmPend && d.sys.warmStart.isNone then { d with sys := { d.sys with warmStart := some d.now } } else d

/-- The warm restart ends: SYS_READY is set with WARM = 1, every site at VOP4, and the session changes (03 R90, R92, 16 R356); on a
disturbed module SYS_READY stays clear (19 R412). A change of a VOP that has not ended by then is given up (log 96). -/
def Dev.warmReady (d : Dev) : Dev :=
  match d.sys.warmStart with
  | some t =>
    if d.sys.warmPend && !d.pins.perst && d.lck.disturbed then
      { d with sys := { d.sys with warmPend := false, warmStart := none } }
    else if d.sys.warmPend && !d.pins.perst then
      let d := { d with sys := { d.sys with
        ready := true, warm := true, warmPend := false, warmStart := none, stReady := BitVec.ofNat 32 (d.now - t) } }
      d.vopReset.publishLive.drawSession.sendIdent
    else d
  | none => d

/-! Function Level Resets (03 R91). -/

/-- A function answers configuration requests with success. -/
def Dev.cfgOk (d : Dev) (fn : Fn) : Bool := d.pcieUp && d.fuseEnded && (fn == Fn.pf || d.pcie.vfEnable)

/-- The registers of a queue that its VF can write, at reset; the counts of Q_STAT and Q_CNT are kept. -/
def Queue.flr (x : Queue) : Queue :=
  { badDb := x.badDb, lastAbort := x.lastAbort, replayed := x.replayed, aborted := x.aborted, lastTaken := x.lastTaken, lastDone := x.lastDone }

/-- FLR of a VF (03 R91): the partition-scope ABORT, then every register the VF can write and its MSI-X table at reset. -/
def Dev.vfFlr (d : Dev) (p : Nat) : Dev :=
  let qs := d.enabled.filter (fun q => qOwner q == p)
  let d := (d.abortNow {} qs).1
  let d := { d with
    queues := d.queues.map (fun (e : Nat × Queue) => if e.1 / 64 == p then (e.1, e.2.flr) else e),
    lpe := d.lpe.filter (fun e => e.1 / 32 != p),
    cnt := { d.cnt with fns := d.cnt.fns.map (fun (e : Nat × CntFn) => if e.1 == p + 1 then (e.1, e.2.warmReset) else e) },
    snp := tdel d.snp (p + 1), pcie := { d.pcie with msix := d.pcie.msix.filter (fun m => m.1 / 128 != p + 1) },
    kpm := { d.kpm with pinHi := tdel d.kpm.pinHi (p + 1), pinRef := tdel d.kpm.pinRef (p + 1) } }
  let x := d.part p
  ((d.dropReqs p (List.range 6)).setPart p { x with ctx := [], streams := [], det := true, outSat := false }).staleTlb (fun t => t.owner == p)

/-- FLR of the physical function: VF Enable and every Memory Space Enable clear (PCIe Base Specification 6.0); PRESUMED in part: log 47. -/
def Dev.pfFlr (d : Dev) : Dev :=
  let d := { d with pcie := {} }
  if d.sys.everReady then
    (if d.sys.ready then d.warmBegin (some d.now)
     else let d := d.endAll; { d with sys := { d.sys with warmPend := true, warmStart := some d.now } })
  else d.endAll

/-! Configuration requests (03 R86, R446). -/

/-- A configuration request: no answer while the link is down, Request Retry Status until FUSE has ended, then success. -/
def Dev.cfgRequest (d : Dev) (fn : Fn) (op : CfgOp) : Dev :=
  if !d.pcieUp then d.emit (.noAnswer fn false)
  else if !d.fuseEnded then d.emit (.cfg fn false)
  else if !d.cfgOk fn then d.emit (.noAnswer fn true)
  else
    let d := match op with
      | .read => d
      | .setMse on => { d with pcie := { d.pcie with mse := tset d.pcie.mse (fnKey fn) on } }
      | .setVfEnable on => if fn == Fn.pf then { d with pcie := { d.pcie with vfEnable := on } } else d
    d.emit (.cfg fn true)

end Sys2Proof.Machine
end

