-- ==== Sys2Proof/Machine/Lock.lean ====
section
/-!
DEFINITION. Machine/Lock.lean: the field lock and test access (spec/19_test_access_lock.md R405-R420): the lock commands from
either path, challenges, TAP instructions, and the register master.
-/
namespace Sys2Proof.Machine

/-- 64-bit draws of the entropy source as bytes (19 R415, R417). -/
def Dev.entropyBytes (d : Dev) (n : Nat) : List Byte := (List.range n).flatMap (fun i => leBytes 8 (Config.entropy (d.free + i)).toNat)

/-- n draws taken. -/
def Dev.drawN (d : Dev) (n : Nat) : Dev := { d with free := d.free + n }

/-- The lock changed. -/
def Dev.setLck (d : Dev) (x : Lck) : Dev := { d with lck := x }

/-- A lock command refused or ended with a status. -/
def Dev.lckStat (d : Dev) (op : Nat) (s : BitVec 16) : Dev := d.setLck { d.lck with stat := s, lastOp := BitVec.ofNat 4 op }

/-- The password words as 16 bytes. -/
def Lck.pwBytes (x : Lck) : List Byte := (List.range 4).flatMap (fun w => leBytes 4 (tget x.pw w 0).toNat)
/-- The signature words as 96 bytes. -/
def Lck.respBytes (x : Lck) : List Byte := (List.range 24).flatMap (fun w => leBytes 4 (tget x.resp w 0).toNat)

/-- A command from a path that reaches the lock (19 R414): the host's registers, or LOCK_ACCESS on the chain. -/
def Dev.lockPath (d : Dev) (src : LockPath) (f : Dev → Dev) : Dev :=
  match src with
  | .host => d.hostReq? .pf f
  | .tap => if d.supAlive && d.lck.ir == 0x10#8 then f d else d

/-- The state machine runs one command at a time and none while the fuse load of IOD0 has failed; unlock commands fail under
LOCKOUT (19 R414); DEDUCED in part: log 62. -/
def Dev.lockGate (d : Dev) (op : Nat) (unlock : Bool) (f : Dev → Dev) : Dev :=
  if d.lck.busy.isSome || !d.sys.fuseLoaded || (unlock && d.lck.lockout) then d.lckStat op sLocked else f d

/-- A command runs until LOCK_COMMAND_DONE. -/
def Lck.run (x : Lck) (op now : Nat) (outcome : BitVec 16) : Lck := { x with busy := some (BitVec.ofNat 4 op), cmdAt := now, outcome := outcome }

/-- OPEN_OBSERVE (19 R416). -/
def Dev.lckOpen (d : Dev) : Dev :=
  d.lockGate 1 true (fun d =>
    let ok := match d.fuse.pwBanks.head? with
      | some b => sha384 (b.salt ++ d.lck.pwBytes) == b.hash
      | none => false
    d.setLck { d.lck.run 1 d.now (if ok then sOk else sCheck) with pw := [], newLvl := 1 })

/-- REQ_CHAL (19 R417). -/
def Dev.lckReqChal (d : Dev) (lvl : Nat) : Dev :=
  d.lockGate 2 false (fun d =>
    if lvl < 2 then d.lckStat 2 sBadParam
    else if lvl == 3 && d.lck.level.toNat < 2 then d.lckStat 2 sLocked
    else
      let rec_ := (List.range 512).map d.touchByte
      (d.setLck { d.lck.run 2 d.now sOk with
        newChal := d.entropyBytes 2 ++ (sha384 rec_).take 16, newLvl := BitVec.ofNat 2 lvl }).drawN 2)

/-- The message a response signs (19 R418). -/
def chalMsg (chal : List Byte) (lvl : BitVec 2) : List Byte := chal ++ leBytes 1 lvl.toNat ++ [0, 0, 0]

/-- SUBMIT_RESP (19 R418). -/
def Dev.lckSubmit (d : Dev) : Dev :=
  d.lockGate 3 true (fun d =>
    let b := d.lck.respBytes
    let ok := match d.lck.chal with
      | some c => ecdsaVerify (d.fuse.pubX, d.fuse.pubY) (chalMsg c d.lck.chalLvl) (beNat (b.take 48)) (beNat (b.drop 48))
      | none => false
    d.setLck { d.lck.run 3 d.now (if ok then sOk else sCheck) with newLvl := d.lck.chalLvl })

/-- SET_PW (19 R415). -/
def Dev.lckSetPw (d : Dev) : Dev :=
  d.lockGate 4 false (fun d =>
    if d.lck.level == 0 && !d.fuse.pwBanks.isEmpty then d.lckStat 4 sLocked
    else if 8 ≤ d.fuse.pwBanks.length then d.lckStat 4 sPerm
    else
      let salt := d.entropyBytes 2
      (d.setLck { d.lck.run 4 d.now sOk with
        pw := [], newBank := some { salt := salt, hash := sha384 (salt ++ d.lck.pwBytes) } }).drawN 2)

/-- RELOCK (19 R413). -/
def Dev.lckRelock (d : Dev) : Dev := d.lockGate 5 false (fun d => (d.setLck { d.lck with level := 0 }).lckStat 5 sOk)

/-- A write of LCK_CMD: the command OP names. -/
def Dev.wrLckCmd (d : Dev) (v : Nat) : Dev :=
  match bf v 3 0 with
  | 1 => d.lckOpen
  | 2 => d.lckReqChal (bf v 9 8)
  | 3 => d.lckSubmit
  | 4 => d.lckSetPw
  | 5 => d.lckRelock
  | _ => d

/-- The running command's result appears (19 R414-R418). -/
def Dev.lckDone (d : Dev) : Dev :=
  match d.lck.busy with
  | none => d
  | some op =>
    let d := if op == 1 then d.advTo (d.lck.cmdAt + 10000000) else d
    let x := d.lck
    let ok := x.outcome == sOk
    let x := { x with busy := none, stat := x.outcome, lastOp := op }
    let lvl := if x.level.toNat < x.newLvl.toNat then x.newLvl else x.level
    let judge := fun (x : Lck) =>
      let fails := if ok then 0 else satAdd x.fails 1
      { x with level := if ok then lvl else x.level, fails := fails, lockout := x.lockout || 8 ≤ fails.toNat }
    match op.toNat with
    | 1 => d.setLck (judge x)
    | 2 => d.setLck { x with chal := some x.newChal, chalView := x.newChal, chalLvl := x.newLvl, chalAt := d.now, newChal := [] }
    | 3 => d.setLck { judge x with chal := none }
    | 4 => ({ d with fuse := { d.fuse with pwBanks := x.newBank.toList ++ d.fuse.pwBanks } }).setLck { x with newBank := none }
    | _ => d.setLck x

/-- 600 s after it was formed, a challenge is no longer valid (19 R417). -/
def Dev.chalExpire (d : Dev) : Dev :=
  if d.lck.chal.isSome then
    let d := d.advTo (d.lck.chalAt + 600000000000)
    d.setLck { d.lck with chal := none }
  else d

/-! The test port. -/

/-- TEST_EN changes: the TC TAP starts in or is held in Test-Logic-Reset, and a scan of the register master is abandoned
(19 R407, decided case). -/
def Dev.testEnSet (d : Dev) (on : Bool) : Dev :=
  let cut := on && d.lck.tapBusy
  ({ d with pins := { d.pins with testEn := on } }).setLck { d.lck with
    ir := 0x01#8, tapBusy := d.lck.tapBusy && !cut, tapAband := d.lck.tapAband || cut, tap := .reset, tapOut := [], tapFix := [] }

/-- The TAP controller after one TCK with TMS at this level (IEEE 1149.1, to which 19 R407 has the chain conform; log 102). -/
def TapSt.next (t : TapSt) (tms : Bool) : TapSt :=
  match t with
  | .reset => if tms then .reset else .idle
  | .idle => if tms then .selDr else .idle
  | .selDr => if tms then .selIr else .capDr
  | .capDr => if tms then .ex1Dr else .shDr
  | .shDr => if tms then .ex1Dr else .shDr
  | .ex1Dr => if tms then .updDr else .pauseDr
  | .pauseDr => if tms then .ex2Dr else .pauseDr
  | .ex2Dr => if tms then .updDr else .shDr
  | .updDr => if tms then .selDr else .idle
  | .selIr => if tms then .reset else .capIr
  | .capIr => if tms then .ex1Ir else .shIr
  | .shIr => if tms then .ex1Ir else .shIr
  | .ex1Ir => if tms then .updIr else .pauseIr
  | .pauseIr => if tms then .ex2Ir else .pauseIr
  | .ex2Ir => if tms then .updIr else .shIr
  | .updIr => if tms then .selDr else .idle

/-- What a capture puts first on TDO: BUSY of the IEEE 1500 port under HBM_1500 (19 R409), and the three low bits of Capture-IR
(19 R410). Other captured bits are the chain's own. -/
def Lck.captured (x : Lck) (t : TapSt) : List Bool :=
  match t with
  | .capDr => if x.ir == 0x34#8 then [x.port1500] else []
  | .capIr => [true, false, x.refusedIr]
  | _ => []

/-- Clock i of a walk: one TCK with TMS at a level. A Shift state puts the next captured bit on TDO; Update-DR under HBM_1500 leaves
an operation at the port; Test-Logic-Reset selects IDCODE. -/
def Lck.tapClock (x : Lck) (i : Nat) (tms : Bool) : Lck :=
  let x :=
    if x.tap == .shDr || x.tap == .shIr then
      { x with tapFix := x.tapFix ++ (x.tapOut.take 1).map (fun b => (i, b)), tapOut := x.tapOut.drop 1 }
    else if x.tap == .capDr || x.tap == .capIr then { x with tapOut := x.captured x.tap }
    else x
  let t := x.tap.next tms
  { x with
    tap := t, port1500 := x.port1500 || (t == .updDr && x.ir == 0x34#8), ir := if t == .reset then 0x01#8 else x.ir }

/-- The register master's walk of n clocks, TMS taken from bit 0 of LCK_TAP_TMS upward (19 R420). -/
def Lck.tapWalk (x : Lck) (n : Nat) : Lck := (List.range n).foldl (fun x i => x.tapClock i (x.tms.getLsbD i)) x

/-- A write of LCK_TAP_CTL by the management function (19 R420); DEDUCED in part: log 64. -/
def Dev.wrTapCtl (d : Dev) (v : Nat) : Dev :=
  let x := { d.lck with tapCount := BitVec.ofNat 6 (bf v 5 0), tapAband := d.lck.tapAband && !bit v 10 }
  let go := bit v 8 && !d.pins.testEn && !x.tapBusy && 1 ≤ bf v 5 0 && bf v 5 0 ≤ 32
  d.setLck (if go then ({ x with tapBusy := true, tapFix := [] }).tapWalk (bf v 5 0) else x)

/-- TDO bits with those that a capture fixes. -/
def fixTdo (fix : List (Nat × Bool)) (tdo : Nat) : Nat :=
  fix.foldl (fun v b => if b.2 then v ||| 2 ^ b.1 else v - (v &&& 2 ^ b.1)) tdo

/-- The register master's shift ends with the TDO bits captured. -/
def Dev.tapShiftEnd (d : Dev) (tdo : BitVec 32) : Dev :=
  if d.lck.tapBusy then
    d.setLck { d.lck with
      tapBusy := false, tdo := BitVec.ofNat 32 (fixTdo d.lck.tapFix (tdo.toNat % 2 ^ d.lck.tapCount.toNat)), tapFix := [] }
  else d

/-- Level an instruction needs and whether it disturbs state; none for a code that selects BYPASS (19 Table 19-2). -/
def tapInstr (ir : Nat) : Option (Nat × Bool) :=
  match ir with
  | 0x01 => some (0, false)
  | 0x10 => some (0, false)
  | 0x20 => some (1, false)
  | 0x02 => some (2, false)
  | 0x00 => some (2, true)
  | 0x30 => some (2, false)
  | 0x31 => some (2, true)
  | 0x32 => some (2, true)
  | 0x33 => some (2, true)
  | 0x34 => some (2, true)
  | 0x35 => some (2, true)
  | 0x40 => some (3, true)
  | _ => none

/-- A TAP instruction refused: BYPASS, and its status (19 R410, R411). -/
def Dev.tapRefuse (d : Dev) (s : BitVec 16) : Dev := (d.setLck { d.lck with ir := 0xFF#8, refusedIr := true }).lckStat 6 s

/-- No partition exists and every management queue is disabled (19 R412). -/
def Dev.quietDevice (d : Dev) : Bool := d.livePart.isEmpty && d.enabled.all (fun q => qOwner q != 8)

/-- TAP_INSTRUCTION_UPDATE (19 R411, R412). -/
def Dev.tapUpdate (d : Dev) (ir : BitVec 8) : Dev :=
  match tapInstr ir.toNat with
  | none => d.setLck { d.lck with ir := 0xFF#8, refusedIr := false }
  | some (lvl, disturbs) =>
    if lvl != 0 && (d.lck.level.toNat < lvl || !d.sys.fuseLoaded) then d.tapRefuse sLocked
    else if disturbs && !d.quietDevice then d.tapRefuse sBadParam
    else
      let d := d.setLck { d.lck with ir := ir, refusedIr := false }
      if disturbs then
        let d := (d.abortNow {} d.enabled).1
        ({ d with sys := { d.sys with ready := false } }).setLck { d.lck with disturbed := true }
      else d

/-! The commands. -/

/-- OPEN_OBSERVE (19 R416). -/
def execOpenObserve (src : LockPath) (s : State) : Host.Outcome State Fault Refusal := onDev s (fun d => d.lockPath src Dev.lckOpen)
/-- REQ_CHAL (19 R417). -/
def execReqChal (src : LockPath) (lvl : BitVec 2) (s : State) : Host.Outcome State Fault Refusal :=
  onDev s (fun d => d.lockPath src (fun d => d.lckReqChal lvl.toNat))
/-- SUBMIT_RESP (19 R418). -/
def execSubmitResp (src : LockPath) (s : State) : Host.Outcome State Fault Refusal := onDev s (fun d => d.lockPath src Dev.lckSubmit)
/-- SET_PW (19 R415). -/
def execSetPw (src : LockPath) (s : State) : Host.Outcome State Fault Refusal := onDev s (fun d => d.lockPath src Dev.lckSetPw)
/-- RELOCK (19 R413). -/
def execRelock (src : LockPath) (s : State) : Host.Outcome State Fault Refusal := onDev s (fun d => d.lockPath src Dev.lckRelock)
/-- LOCK_COMMAND_DONE (19 R414, R416). -/
def execLockCommandDone (s : State) : Host.Outcome State Fault Refusal := onUp s Dev.lckDone
/-- CHALLENGE_EXPIRY (19 R417). -/
def execChallengeExpiry (s : State) : Host.Outcome State Fault Refusal := onUp s Dev.chalExpire
/-- TEST_EN_CHANGE (19 R407). -/
def execTestEnChange (level : Bool) (s : State) : Host.Outcome State Fault Refusal := onDev s (fun d => d.testEnSet level)
/-- LCK_TAP_GO (19 R420): a write of LCK_TAP_CTL with GO set. -/
def execLckTapGo (fn : Fn) (v : BitVec 32) (s : State) : Host.Outcome State Fault Refusal :=
  onDev s (fun d => d.hostReq? fn (fun d => if fn == .pf then d.wrTapCtl (v.toNat ||| 256) else d))
/-- TAP_SHIFT_DONE (19 R420). -/
def execTapShiftDone (tdo : BitVec 32) (s : State) : Host.Outcome State Fault Refusal := onUp s (fun d => d.tapShiftEnd tdo)
/-- TAP_INSTRUCTION_UPDATE (19 R411, R412). -/
def execTapInstructionUpdate (ir : BitVec 8) (s : State) : Host.Outcome State Fault Refusal := onUp s (fun d => d.tapUpdate ir)

end Sys2Proof.Machine
end

