-- ==== Sys2Proof/Machine/MemTier.lean ====
section
/-!
DEFINITION. Machine/MemTier.lean: the memory tiers' own work: refresh, patrol scrubs, repair sweeps, CA parity, retrains,
temperatures, the re-form of the pools, and BAR4 (spec/06_bonded_slices.md R141, R150-R153, spec/07_hbm_tier.md R162-R174,
spec/09_addressing.md R209, R210).
-/
namespace Sys2Proof.Machine

/-! Slices. -/

/-- Bursts of 1 KiB of a slice (06 R150). -/
def sliceBursts : Nat := 393216

/-- One burst of a slice's scrubber; tallies clear as its pass begins (06 R150, R151); DEDUCED in part: log 28. -/
def Dev.scrubSlice (d : Dev) (e : Env) (n c : Nat) : Dev :=
  if !d.coreLive n c then d
  else
    let s := d.slice n c
    let b := s.burst
    let d := if b = 0 then d.setSlice n c { s with tally := [] } else d
    let acc : Acc := { src := 2, env := e }
    let d := (List.range 32).foldl (fun d i =>
      let off := 1024 * b + 32 * i
      (d.touchWord acc (coreDpa 2 n c off) (.slice n c off)).1) d
    let s := d.slice n c
    if b + 1 = sliceBursts then (d.setSlice n c { s with burst := 0, passes := s.passes + 1 }).slicePass
    else d.setSlice n c { s with burst := b + 1 }

/-- The repair sweep of an octant ends: each word that needs correction has been rewritten (06 R152). An uncorrectable word that the
sweep reads is left as it is, neither poisoned nor logged (DESIGN CHOICE, log 89). -/
def Dev.sweepDone (d : Dev) (n c o : Nat) : Dev :=
  let s := d.slice n c
  if !s.sweeping.contains o then d
  else
    let ws := d.mem.chk.filter (fun w => match d.locate w.1 with
      | .slice n' c' off => n' == n && c' == c && octOf off == o && (eccClass w.2.toNat).correctable
      | _ => false)
    let d := ws.foldl (fun d w => ({ d with mem := d.mem.correct w.1 (eccClass w.2.toNat) }).count none 4 0 1) d
    d.setSlice n c { d.slice n c with sweeping := s.sweeping.filter (fun x => x != o) }

/-- Working CA lanes replaced by the spares that are free; where none is left the slice is read-only (06 R153, R155); DEDUCED in part: log 29. -/
def Dev.replaceCa (d : Dev) (n c o : Nat) : List Nat → List Nat → Dev
  | [], _ => d
  | l :: r, free =>
    let d := d.logSlc 7 3 0 (14 * o + l) 0
    match free with
    | [] => (d.goReadOnly n c).replaceCa n c o r []
    | f :: rest =>
      let s := d.slice n c
      (d.setSlice n c { s with caSteer := tset s.caSteer o (tget s.caSteer o [] ++ [(f, l)]) }).replaceCa n c o r rest

/-- The test of an octant's CA lanes, given those that fail: a spare that fails serves no lane any more; each failing working lane
without a good spare gets one that neither fails nor is in use (06 R153). -/
def Dev.testCa (d : Dev) (n c o : Nat) (fails : List Nat) : Dev :=
  let s := d.slice n c
  let steer := tget s.caSteer o []
  let good := steer.filter (fun x => !fails.contains x.1)
  let need := (List.range 12).filter (fun l => !good.any (fun x => x.2 == l) && (fails.contains l || steer.any (fun x => x.2 == l)))
  let free := [12, 13].filter (fun f => !fails.contains f && !good.any (fun x => x.1 == f))
  (d.setSlice n c { s with caSteer := tset s.caSteer o good }).replaceCa n c o need free

/-- A CA parity error of an octant (06 R153). Where the reissued command fails too, the words it addressed are as UE: they are logged
and poisoned here; an access whose own command fails so finds them by Env.ca. A command counts once towards the four, its failed
reissue not again, and such words are logged with SOURCE 0 (DESIGN CHOICE, log 90). -/
def Dev.caParity (d : Dev) (n c o : Nat) (f : CaFault) : Dev :=
  if !d.coreLive n c then d
  else
    let d := if f.again then
        (f.words.filter (fun w => match d.locate w with | .slice n' c' off => n' == n && c' == c && octOf off == o | _ => false)).foldl (fun d w =>
          let w := alignDown w 32
          ((d.logSlc 3 0 0 0 w).count none 4 1 1).poisonWord {} w) d
      else d
    let s := d.slice n c
    let times := (d.now :: tget s.caTimes o []).filter (fun t => d.now < t + 1000000)
    if times.length < 4 then d.setSlice n c { s with caTimes := tset s.caTimes o times }
    else
      (d.setSlice n c { s with caTimes := tdel s.caTimes o }).testCa n c o f.lanes

/-! HBM. -/

/-- Words of a pseudo-channel that are exposed. -/
def Dev.pcWords (d : Dev) : Nat := d.granules * 128

/-- One burst of the patrol of a pseudo-channel: a row of 32 words (log 36); row tallies clear as its pass begins (07 R166, R171). -/
def Dev.scrubPc (d : Dev) (e : Env) (h p : Nat) : Dev :=
  if !d.pcActive h p then d
  else
    let s := d.stack h
    let w := tget s.word p 0
    let d := if w = 0 then d.setStack h { s with rows := s.rows.filter (fun r => r.1 != p) } else d
    let acc : Acc := { src := 2, env := e }
    let d := (List.range 32).foldl (fun d i =>
      match d.pcDpa h p (w + i) with
      | some a => (d.touchWord acc a (d.locate a)).1
      | none => d) d
    let s := d.stack h
    if d.pcWords ≤ w + 32 then (d.setStack h { s with word := tset s.word p 0, passes := tset s.passes p (tget s.passes p 0 + 1) }).hbmPass
    else d.setStack h { s with word := tset s.word p (w + 32) }

/-- A retrain after CA parity errors ends; one that fails maps the pseudo-channel out (07 R171). The command stands for the eight CA
parity errors within 1 ms as well: no command of the table is a single one of an HBM stack (log 99). -/
def Dev.caRetrain (d : Dev) (h p : Nat) (ok : Bool) : Dev :=
  if !d.pcActive h p then d
  else
    let d := d.logHbm 8 3 0 h p 0
    if ok then d else d.mapOut h p 3 true

/-- The stack is fitted, on a die that has not left service. -/
def Dev.stackHere (d : Dev) (h : Nat) : Bool := (hbmFitted d.fuse.variant).testBit h && !d.dieOut (h / 2)

/-- A stack's sensor is broken (07 R174). -/
def Dev.badTemp (d : Dev) (h : Nat) : Dev := (d.setStack h { d.stack h with sensorOk := false }).raiseHbm 128

/-- The IEEE 1500 port between temperature reads: a TAP operation that waits there is applied (19 R409). What it does to the stack
is the stack's own. -/
def Dev.portFree (d : Dev) : Dev := { d with lck := { d.lck with port1500 := false } }

/-- A temperature read through IEEE 1500 (07 R174); DEDUCED in part: log 50. -/
def Dev.readTemp (d : Dev) (h : Nat) (t : Int) : Dev :=
  let d := d.portFree
  if !d.stackHere h then d
  else if -10 ≤ t && t ≤ 125 then d.setStack h { d.stack h with temp := BitVec.ofInt 8 t, sensorOk := true }
  else d.badTemp h

/-- A write of HBM_CTL by the management function (07 R170). -/
def Dev.wrHbmCtl (d : Dev) (v : Nat) : Dev :=
  let d := { d with hbm := { d.hbm with refused := d.hbm.refused && !bit v 1 } }
  if !bit v 0 then d
  else if d.hbm.busy || d.livePart.any (fun p => (d.part p).units != 0 || (d.part p).affine != 0) then
    { d with hbm := { d.hbm with refused := true } }
  else { d with hbm := { d.hbm with busy := true } }

/-- The re-form ends: a new map, and pools whose contents are undefined (07 R170). -/
def Dev.reformed (d : Dev) : Dev :=
  if !d.hbm.busy then d
  else
    let d := (d.formMap).draw
    let d := { d with mem := d.mem.fill (mkDpa 0 0) (mkDpa 2 0 - 1) (.opened d.free),
                      hbm := { d.hbm with busy := false } }
    d.raiseHbm 256

/-! BAR4 (09 R209, R210). -/

/-- DPA behind a BAR4 offset of a function, none beyond the formed extent or the held units. -/
def Dev.bar4Dpa (d : Dev) (fn : Fn) (off : Nat) : Option Nat :=
  match fn with
  | .pf => if off < d.formedGranules * 4096 then some (mkDpa 0 off) else none
  | .vf p =>
    let us := maskBits (d.part p.val).units.toNat 27
    (us[off / unitBytes]?).map (fun u => mkDpa 0 (u * unitBytes + off % unitBytes))

/-- The access of a BAR4 request: counted in the bank of the function; DEDUCED in part: log 45. -/
def bar4Acc (fn : Fn) (e : Env) : Acc := { owner := some (fnOwner fn), bar4 := true, env := e }

/-- A BAR4 read: the data, and whether EP is set. -/
def Dev.bar4Read (d : Dev) (fn : Fn) (e : Env) (off n : Nat) : Dev × List Byte × Bool :=
  if n = 0 then (d, [], false)
  else
    let r := (wordsOf off n).foldl (fun (x : Dev × List Byte × Bool) w =>
      match x.1.bar4Dpa fn w with
      | none => (x.1, x.2.1 ++ List.replicate 32 0, x.2.2)
      | some a =>
        let y := x.1.readWord (bar4Acc fn e) a
        (y.1, x.2.1 ++ y.2.1, x.2.2 || isExc y.2.2)) (d, [], false)
    (r.1.count none 0 4 n, (r.2.1.drop (off % 32)).take n, r.2.2)

/-- A BAR4 write. -/
def Dev.bar4Write (d : Dev) (fn : Fn) (e : Env) (off : Nat) (b : List Byte) : Dev :=
  let d := (cutWords (b.length / 32 + 2) off b).foldl (fun d p =>
    match d.bar4Dpa fn p.1 with
    | none => d
    | some a => (d.writeWord (bar4Acc fn e) a p.2.1 p.2.2).1) d
  d.count none 0 5 b.length

/-! The commands. -/

/-- SLICE_REFRESH (06 R141). -/
def execSliceRefresh (s : State) : Host.Outcome State Fault Refusal :=
  onUp s (fun d => { d with slc := { d.slc with refresh := d.slc.refresh + 1 } })
/-- HBM_REFRESH (07 R162). -/
def execHbmRefresh (s : State) : Host.Outcome State Fault Refusal :=
  onUp s (fun d => { d with hbm := { d.hbm with refresh := d.hbm.refresh + 1 } })
/-- SLICE_SCRUB_BURST (06 R150). -/
def execSliceScrubBurst (site : Fin 6) (core : Fin 64) (e : Env) (s : State) : Host.Outcome State Fault Refusal :=
  onUp s (fun d => (d.applyEnv e).scrubSlice e site.val core.val)
/-- REPAIR_SWEEP_DONE (06 R152). -/
def execRepairSweepDone (site : Fin 6) (core : Fin 64) (oct : Fin 8) (e : Env) (s : State) : Host.Outcome State Fault Refusal :=
  onUp s (fun d => (d.applyEnv e).sweepDone site.val core.val oct.val)
/-- CA_PARITY_ERROR (06 R153). -/
def execCaParityError (site : Fin 6) (core : Fin 64) (oct : Fin 8) (c : CaFault) (e : Env) (s : State) : Host.Outcome State Fault Refusal :=
  onUp s (fun d => (d.applyEnv e).caParity site.val core.val oct.val c)
/-- HBM_SCRUB_BURST (07 R166). -/
def execHbmScrubBurst (h : Fin 12) (pc : Fin 32) (e : Env) (s : State) : Host.Outcome State Fault Refusal :=
  onUp s (fun d => (d.applyEnv e).scrubPc e h.val pc.val)
/-- HBM_CA_RETRAIN_DONE (07 R171). -/
def execHbmCaRetrainDone (h : Fin 12) (pc : Fin 32) (ok : Bool) (s : State) : Host.Outcome State Fault Refusal :=
  onUp s (fun d => d.caRetrain h.val pc.val ok)
/-- HBM_TEMP_READ (07 R174); a reading of 103 degrees trips (17 R382). -/
def execHbmTempRead (h : Fin 12) (t : Int) (s : State) : Host.Outcome State Fault Refusal := 
  onUp s (fun d =>
    let x := d.readTemp h.val t
    if d.stackHere h.val && 103 ≤ t && t ≤ 125 then x.tripCut (h.val / 2) 2 else x)
/-- HBM_TEMP_READ_TIMEOUT (07 R174). -/
def execHbmTempReadTimeout (h : Fin 12) (s : State) : Host.Outcome State Fault Refusal :=
  onUp s (fun d => if d.stackHere h.val then d.portFree.badTemp h.val else d)
/-- HBM_CTL_REFORM (07 R170): a write of HBM_CTL with REFORM set. -/
def execHbmCtlReform (fn : Fn) (v : BitVec 32) (s : State) : Host.Outcome State Fault Refusal :=
  onDev s (fun d => d.hostReq? fn (fun d => if fn == .pf then d.wrHbmCtl (v.toNat ||| 1) else d))
/-- REFORM_DONE (07 R170). -/
def execReformDone (s : State) : Host.Outcome State Fault Refusal := onUp s Dev.reformed
/-- BAR4_READ (09 R209, R210). -/
def execBar4Read (fn : Fn) (off : Nat) (len : Nat) (e : Env) (s : State) : Host.Outcome State Fault Refusal :=
  onDev s (fun d => d.hostReq? fn (fun d =>
    let r := (d.applyEnv e).bar4Read fn e off len
    r.1.emit (.bar4 fn r.2.1 r.2.2)))
/-- BAR4_WRITE (09 R209, R210). -/
def execBar4Write (fn : Fn) (off : Nat) (data : List (BitVec 8)) (e : Env) (s : State) : Host.Outcome State Fault Refusal :=
  onDev s (fun d => d.hostReq? fn (fun d => (d.applyEnv e).bar4Write fn e off data))

end Sys2Proof.Machine
end

