-- ==== Sys2Proof/Machine/Data.lean ====
section
/-!
DEFINITION. Machine/Data.lean: tensor data (spec/12_command_reference.md R266, Table 12-1; spec/05_cores_arrays.md R123, R129, R443):
the rows of a descriptor read and written, block scales, and the pairwise tree.
-/
namespace Sys2Proof.Machine

/-! The pairwise tree (05 R129). -/

/-- One level: neighbours combined, an odd last one kept. -/
def treeLevel {α : Type} (f : α → α → α) : List α → List α
  | a :: b :: r => f a b :: treeLevel f r
  | l => l

/-- Levels until one is left. -/
def treeFold {α : Type} (f : α → α → α) : Nat → List α → List α
  | 0, l => l
  | n + 1, l => match l with
    | _ :: _ :: _ => treeFold f n (treeLevel f l)
    | _ => l

/-- The pairwise tree over some results in index order; z where there are none. -/
def pairTree {α : Type} (f : α → α → α) (z : α) (l : List α) : α := (treeFold f l.length l).headD z

/-! Elements as stored. -/

/-- The element codes of a row's bytes, least significant first. -/
def codesOf (fmt : Nat) (b : List Byte) : List Nat :=
  match fmtBits fmt with
  | 4 => b.flatMap (fun x => [x.toNat % 16, x.toNat / 16])
  | 8 => b.map (fun x => x.toNat)
  | n => (chunks (n / 8) b).map leNat

/-- The bytes of a row's element codes. -/
def codeBytes (fmt : Nat) (l : List Nat) : List Byte :=
  match fmtBits fmt with
  | 4 => (chunks 2 l).map (fun x => BitVec.ofNat 8 (x.getD 0 0 + 16 * x.getD 1 0))
  | n => l.flatMap (leBytes (n / 8))

/-- A tensor read: the module, element codes by row, the rows' bytes, the scales, the status and the first failing DPA. -/
structure MatR where
  /-- The module. -/
  d : Dev
  /-- Element codes, row by row. -/
  rows : List (List Nat) := []
  /-- Stored bytes of the rows, without padding. -/
  bytes : List Byte := []
  /-- Scale bytes. -/
  sc : List Byte := []
  /-- STATUS. -/
  st : BitVec 16 := 0
  /-- First failing DPA. -/
  fail : Nat := 0

/-- The element codes of some rows, from their bytes laid end to end. -/
def TD.rowCodes (t : TD) (b : List Byte) : List (List Nat) := (chunks t.rowBytes b).map (codesOf t.fmt)

/-- A tensor read row by row, then its scales, through a way to read DVAs that is told the row. -/
def readTensor (rd : Nat → Dev → Nat → Nat → RdR) (d : Dev) (t : TD) (alongRows : Bool) : MatR :=
  let x := (List.range t.rows).foldl (fun (x : MatR) i =>
    let r := rd i x.d (t.base + i * t.stride) t.rowBytes
    { x with d := r.d, bytes := x.bytes ++ r.bytes, st := thenSt x.st r.st,
             fail := if isExc r.st && !isExc x.st then r.fail else x.fail }) { d := d }
  let x := { x with rows := t.rowCodes x.bytes }
  let n := t.scaleBytes alongRows
  if n = 0 then x
  else
    let r := rd 0 x.d t.scale n
    { x with d := r.d, sc := r.bytes, st := thenSt x.st r.st, fail := if isExc r.st && !isExc x.st then r.fail else x.fail }

/-- The scale of element (r, c): by lines of 32 along its row or down its column. -/
def MatR.scaleAt (x : MatR) (t : TD) (alongRows : Bool) (r c : Nat) : Num :=
  if isMx t.fmt then
    let k := if alongRows then r * ((t.cols + 31) / 32) + c / 32 else c * ((t.rows + 31) / 32) + r / 32
    e8m0 (byteAt x.sc k).toNat
  else n1

/-- Element values row by row, scales applied along rows, exactly. -/
def MatR.vals (x : MatR) (t : TD) : List (List Num) :=
  (List.range x.rows.length).zip x.rows |>.map (fun r =>
    (List.range r.2.length).zip r.2 |>.map (fun c =>
      let v := decodeEl t.fmt c.2
      if isMx t.fmt then v.mulX (x.scaleAt t true r.1 c.1) else v))

/-- A tensor operand of a packet read by its units, row i by the core that serves it. -/
def Dev.readMat (d : Dev) (p : Pkt) (e : Env) (t : TD) (alongRows : Bool) : MatR :=
  readTensor (fun i d a n => d.readP (p.at i) e a n) d t alongRows

/-- A vector of n elements of a format read. -/
def Dev.readVec (d : Dev) (p : Pkt) (e : Env) (dva fmt n : Nat) : MatR :=
  let r := d.readP p e dva (n * fmtBits fmt / 8)
  { d := r.d, rows := [codesOf fmt r.bytes], bytes := r.bytes, st := r.st, fail := r.fail }

/-- The values of a vector. -/
def MatR.vec (x : MatR) (fmt : Nat) : List Num := (x.rows.headD []).map (decodeEl fmt)

/-- A row of values as bytes and scale bytes of a format (05 R123, R443). -/
def encodeRow (fmt : Nat) (sat : Bool) (l : List Num) : List Byte × List Byte :=
  if isMx fmt then
    let bs := (chunks 32 l).map (mxBlock fmt)
    (codeBytes fmt (bs.flatMap (fun x => x.2)), bs.map (fun x => BitVec.ofNat 8 x.1))
  else (codeBytes fmt (l.map (encodeEl fmt sat)), [])

/-- Rows of values written to a tensor: the elements row by row, then the scales. -/
def Dev.writeMat (d : Dev) (p : Pkt) (e : Env) (t : TD) (rows : List (List Num)) : WrR :=
  let enc := rows.map (encodeRow t.fmt p.outSat)
  let x := ((List.range enc.length).zip enc).foldl (fun (x : WrR) r =>
    let y := x.d.writeP (p.at r.1) e (t.base + r.1 * t.stride) r.2.1
    { d := y.d, st := thenSt x.st y.st, fail := if isExc y.st && !isExc x.st then y.fail else x.fail }) { d := d }
  if isMx t.fmt then
    let y := x.d.writeP p e t.scale (enc.flatMap (fun r => r.2))
    { d := y.d, st := thenSt x.st y.st, fail := if isExc y.st && !isExc x.st then y.fail else x.fail }
  else x

/-- The DPA ranges of a tensor, as a packet captured them. -/
def Pkt.tdDpa (p : Pkt) (t : TD) (alongRows : Bool) : List (Nat × Nat) :=
  (t.ranges true alongRows).flatMap (fun r => dpaPieces p.leaves r.dva r.n)

end Sys2Proof.Machine
end

