-- ==== Sys2Proof/Machine/Observe.lean ====
section
/-!
DEFINITION. Machine/Observe.lean: counter windows and CNT_SNAP (spec/18_observability.md R386-R395, R404), Loupe digests
(R396-R400), and hang snapshots (R401-R403).
-/
namespace Sys2Proof.Machine

/-! Counters. -/

/-- Counters of a group (18 Table 18-1). -/
def cntSize (g : Nat) : Nat := [14, 16, 42, 576, 8].getD g 0

/-- Key of counter i of a group of a bank. -/
def ctrKey (bank g i : Nat) : Nat := 8192 * bank + 1024 * g + i

/-- A counter as CNT_SNAP records it: VALUE, and OVF in bit 63 (18 Table 18-2). -/
def Dev.cntWord (d : Dev) (k : Nat) : Nat := tget d.cnt.val k 0 + 2 ^ 63 * b2n (tget d.cnt.ovf k false)

/-- One counter cleared: VALUE and OVF (18 R390). -/
def Dev.clearCnt (d : Dev) (k : Nat) : Dev := { d with cnt := { d.cnt with val := tdel d.cnt.val k, ovf := tdel d.cnt.ovf k } }

/-- The counters of a group of a bank cleared (18 R395). -/
def Dev.clearGroup (d : Dev) (bank g : Nat) : Dev :=
  let hit := fun (k : Nat) => ctrKey bank g 0 ≤ k && k < ctrKey bank g (cntSize g)
  { d with cnt := { d.cnt with val := d.cnt.val.filter (fun e => !hit e.1), ovf := d.cnt.ovf.filter (fun e => !hit e.1) } }

/-- Every counter of a bank zero (18 R392). -/
def Dev.clearBank (d : Dev) (bank : Nat) : Dev := (List.range 5).foldl (fun d g => d.clearGroup bank g) d

/-- The record of a group (18 Table 18-2). -/
def Dev.cntRecord (d : Dev) (bank g : Nat) : List Byte :=
  leBytes 4 0x544E4E43 ++ leBytes 1 g ++ leBytes 1 bank ++ leBytes 2 (cntSize g) ++ leBytes 8 d.now ++ List.replicate 48 0
    ++ (List.range (cntSize g)).flatMap (fun i => leBytes 8 (d.cntWord (ctrKey bank g i)))

/-- CNT_SNAP (18 R393-R395); DEDUCED in part: log 61. -/
def Dev.opCntSnap (d : Dev) (p : Pkt) (e : Env) : OpR :=
  let g := p.f 1 3 0
  let bank := if p.f 1 7 4 = 15 then p.owner else p.f 1 7 4
  let rec_ := d.cntRecord bank g
  let d := if bit (p.word 1) 8 then d.clearGroup bank g else d
  let w := d.writeP p e (p.f 2 47 0) rec_
  { d := w.d, st := w.st, res := if isExc w.st then w.fail else rec_.length, wrote := dpaPieces p.leaves (p.f 2 47 0) rec_.length }

/-- A write of CNT_VAL_LO: zero clears the selected counter (18 R390). -/
def Dev.wrCntVal (d : Dev) (fn : Fn) (v : Nat) : Dev :=
  match d.cntKey fn with
  | some k => if v = 0 then d.clearCnt k else d
  | none => d

/-! Loupe digests. -/

/-- One RNE to FP64. -/
def rnd64 : Num → Num
  | .fin s m e =>
    let r := rnd 53 (-1074) m e
    if geTwo r.1 r.2 1024 then .inf s else .fin s r.1 r.2
  | x => x

/-- A value's FP64 bits; it lies on the FP64 grid. -/
def bits64 : Num → Nat
  | .nan => 0x7FF8000000000000
  | .inf s => 0x7FF0000000000000 + b2n s * 2 ^ 63
  | .fin s m e => ieeeBits 11 52 s m e

/-- Sum in FP64. -/
def Num.add64 (a b : Num) : Num := rnd64 (a.addX b)

/-- A sum in chunks of 4,096 from +0, and the pairwise tree over them (18 R398). -/
def sum64 (l : List Num) : Num := pairTree Num.add64 nz ((chunks 4096 l).map (fun c => c.foldl Num.add64 nz))

/-- The 64 bytes of a digest (18 Table 18-3). -/
def digestBytes (count nan pinf ninf gen slot fmt st mn mx sm sq crc : Nat) : List Byte :=
  leBytes 8 count ++ leBytes 4 nan ++ leBytes 4 pinf ++ leBytes 4 ninf ++ leBytes 2 gen ++ leBytes 1 slot ++ leBytes 1 (fmt + 16 * st)
    ++ leBytes 8 mn ++ leBytes 8 mx ++ leBytes 8 sm ++ leBytes 8 sq ++ leBytes 8 crc

/-- The digest of some elements in canonical order and their stored bytes (18 R398, R399). -/
def digestOf (slot gen fmt : Nat) (vals : List Num) (raw : List Byte) : List Byte :=
  let fin := vals.filter (fun x => !x.special)
  let cnt := fun (f : Num → Bool) => (vals.filter f).length
  digestBytes vals.length (cnt Num.isNan) (cnt (fun x => x == .inf false)) (cnt (fun x => x == .inf true)) gen slot fmt 1
    (bits64 (fin.foldl Num.min (.inf false))) (bits64 (fin.foldl Num.max (.inf true)))
    (bits64 (sum64 fin)) (bits64 (sum64 (fin.map (fun x => rnd64 (x.mulX x))))) (crc64 raw)

/-- A watch slot of an owner. -/
def Dev.watch (d : Dev) (o s : Nat) : Watch := tget d.lpe (32 * o + s) {}

/-- Every byte a watch slot covers is memory its owner still holds (18, the decided case on PART_RESIZE). -/
def Dev.watchOwned (d : Dev) (o : Nat) (w : Watch) : Bool := w.extent.all (fun r => d.owns o (d.canon r.1) r.2 false)

/-- A slot's digest taken now: GEN rises; a read that fails leaves STATE 2 and every value field zero (18 R397); DEDUCED in part: log 60. -/
def Dev.digest (d : Dev) (e : Env) (o s : Nat) : Dev :=
  let w := d.watch o s
  if !w.bound then d
  else
    let t := tdOfWords w.td
    let x : MatR := if d.watchOwned o w then readTensor (fun _ d a n => d.readDva { owner := some o, env := e } w.leaves a n) d t true
      else { d := d, st := sPerm }
    let gen := w.gen + 1
    let bad := isExc x.st
    let b := if bad then digestBytes (t.rows * t.cols) 0 0 0 gen.toNat s t.fmt 2 0 0 0 0 0
      else digestOf s gen.toNat t.fmt (x.vals t).flatten (x.bytes ++ x.sc)
    { x.d with lpe := tset x.d.lpe (32 * o + s) { w with gen := gen, st := if bad then 2 else 1, dig := b } }

/-- A packet's writes are performed, but for its cores' store buffers and those an exclusive hold keeps back (18 R397). -/
def Dev.digestReady (d : Dev) (p : Pkt) : Bool := p.phase == .done && !d.sentWrites p.ord

/-- The digest of a slot for a packet that triggered it, once its writes are performed; none is taken if a write that was still
buffered fails it. -/
def Dev.takeDigest (d : Dev) (e : Env) (p : Pkt) (s : Nat) : Dev :=
  let d := (d.drainPkt e p).awaitHeld e (fun h => h.ord == some p.ord)
  match d.pkt? p.q p.tag with
  | none => d
  | some p =>
    let d := if isExc p.status then d else d.digest e p.owner s
    d.modPkt p.ord (fun x => { x with trig := if isExc p.status then [] else x.trig.filter (fun i => i != s) })

/-- The digest ACTION 1 writes (18 R400). -/
def Watch.shown (w : Watch) (s : Nat) : List Byte :=
  if w.bound && w.st != 0 then w.dig
  else digestBytes 0 0 0 0 0 s (if w.bound then (tdOfWords w.td).fmt else 0) 0 0 0 0 0 0

/-- LOUPE_WATCH (18 R396, R400): arm, read, disarm. -/
def Dev.opWatch (d : Dev) (p : Pkt) (e : Env) : OpR :=
  let s := p.f 1 4 0
  let k := 32 * p.owner + s
  let ps := d.disp.pkts.filter (fun x => x.owner == p.owner && x.trig.contains s)
  match p.f 1 9 8 with
  | 1 =>
    let w := d.writeP p e (p.f 2 47 0) ((d.watch p.owner s).shown s)
    { d := w.d, st := w.st, res := if isExc w.st then w.fail else 64, wrote := dpaPieces p.leaves (p.f 2 47 0) 64 }
  | 0 =>
    let d := ps.foldl (fun d x => d.takeDigest e x s) d
    { d := { d with lpe := tset d.lpe k { bound := true, td := p.tdWords 0 0, leaves := p.leaves } } }
  | _ =>
    let d := ps.foldl (fun d x => d.takeDigest e x s) d
    { d := { d with lpe := tdel d.lpe k } }

/-- A LOUPE_WATCH that binds or unbinds waits until the digests being taken for its slot can complete. -/
def Dev.watchReady (d : Dev) (p : Pkt) : Bool :=
  p.f 1 9 8 == 1 || d.disp.pkts.all (fun x => !(x.owner == p.owner && x.trig.contains (p.f 1 4 0)) || d.digestReady x)

/-! Snapshots. -/

/-- A function's snapshot registers. -/
def Dev.snpFn (d : Dev) (k : Nat) : SnpFn := tget d.snp k {}
/-- A function's snapshot registers changed. -/
def Dev.setSnp (d : Dev) (k : Nat) (x : SnpFn) : Dev := { d with snp := tset d.snp k x }

/-- Number of a queue within its owner. -/
def qNum : QRef → Nat
  | .part _ q => q.val
  | .mgmt m => m.val

/-- An owner's resources lie in the scope of a snapshot of owner o (18 R401). -/
def inScope (dev : Bool) (o x : Nat) : Bool := dev || x == o

/-- The partition that holds a core's group, 8 if none does. -/
def Dev.coreOwner (d : Dev) (k : Nat) : Nat :=
  ((List.range 8).find? (fun p => (d.part p).st != 0 && (d.part p).groups.getLsbD (8 * (k / 64) + k % 64 / 8))).getD 8

/-- The packet a queue waits with: the oldest one taken and not started, else the one at the head of its ring. -/
def Dev.headOf (d : Dev) (q : QRef) : Option Header :=
  let x := d.queue q
  match (d.inflight q).find? (fun p => p.phase == .taken) with
  | some p => some (header (p.word 0))
  | none => if x.waiting = 0 then none else some (d.peekHeader x x.sqHead.toNat)

/-- Why it waits (18 Table 18-5): 0 none, 1 DEP, 2 completion ring full, 3 256 in flight, 4 doorbells held by ABORT; DEDUCED in part: log 24. -/
def Dev.headWait (d : Dev) (q : QRef) : Nat :=
  let x := d.queue q
  let n := d.outstanding q
  if (d.headOf q).isNone then 0
  else if d.aborting q then 4
  else if (d.inflight q).any (fun p => p.phase == .taken && !p.depMet) then 1
  else if 256 ≤ n then 3
  else if x.cqFree ≤ n then 2
  else 0

/-- Section 1: queues. -/
def Dev.snpQueues (d : Dev) (dev : Bool) (o : Nat) : List (List Byte) :=
  (d.queues.filter (fun e => e.2.enable && inScope dev o (qOwner (keyQ e.1)))).map (fun e =>
    let q := keyQ e.1
    let x := e.2
    let h := (d.headOf q).getD (header 0)
    padTo 32 (leBytes 1 (qOwner q) ++ leBytes 1 (qNum q) ++ leBytes 1 x.st.toNat ++ [0] ++ leBytes 2 x.sqHead.toNat ++ leBytes 2 x.sqTail.toNat
      ++ leBytes 2 x.cqTail.toNat ++ leBytes 2 x.cqHead.toNat ++ leBytes 2 (d.outstanding q) ++ leBytes 2 x.lastTaken.toNat
      ++ leBytes 2 x.lastDone.toNat ++ leBytes 2 h.tag ++ leBytes 1 h.opc ++ leBytes 1 (d.headWait q) ++ leBytes 2 h.dep))

/-- The WAIT packet a core's sequencer holds: that of a queue whose owner's first core it is. -/
def Dev.waitOn (d : Dev) (k : Nat) : Option Pkt :=
  d.disp.pkts.find? (fun p => p.opc == 0x03 && p.phase == .started && (d.coresOf (d.groupsOf p.owner 0)).head? == some k)

/-- STATE of a core's sequencer and the packet it names (18 Table 18-5). -/
def Dev.seqState (d : Dev) (k : Nat) : Nat × Option Pkt :=
  let run := (d.runningOn k).head?
  let next := d.disp.pkts.find? (fun p => p.phase == .taken && (d.pktCores p).contains k)
  let paused := (List.range 6).any (fun u => (tget d.units (6 * k + u) {}).pause != 0)
  if d.halt (k / 64) then (7, if run.isSome then run else next)
  else match run with
    | some p => (1, some p)
    | none =>
      if paused then (6, next)
      else match d.waitOn k with
        | some p => (3, some p)
        | none => match next with
          | none => (0, none)
          | some p =>
            let unitsOk := match unitClass p.opc.toNat with | some c => d.unitFree k c | none => true
            (if !p.depMet then 2 else if !unitsOk then 5 else if !d.scoreOk k p then 4 else 0, some p)

/-- Units of a core that are busy: running a packet, or pausing. -/
def Dev.busyUnits (d : Dev) (k : Nat) : Nat :=
  let pausing := (List.range 6).filter (fun u => (tget d.units (6 * k + u) {}).pause != 0)
  let used := (List.range 3).flatMap (fun c =>
    ((unitsOf c).filter (fun u => !pausing.contains u)).take ((d.runningOn k).filter (fun p => unitClass p.opc.toNat == some c)).length)
  ofBits (pausing ++ used)

/-- Section 2: sequencers. -/
def Dev.snpSeqs (d : Dev) (dev : Bool) (o : Nat) : List (List Byte) :=
  (((List.range 6).flatMap (fun n => (d.liveCoresOf n).map (fun c => coreKey n c))).filter (fun k => inScope dev o (d.coreOwner k))).map (fun k =>
    let s := d.seqState k
    let w := if s.1 == 3 then s.2 else none
    let wa := (w.bind (fun p => (leafDpa p.leaves (p.f 1 47 0)).map (fun x => x.1))).getD 0
    padTo 32 (leBytes 1 (k / 64) ++ leBytes 1 (k % 64) ++ leBytes 1 (d.coreOwner k) ++ leBytes 1 s.1
      ++ leBytes 2 ((s.2.map (fun p => p.tag.toNat)).getD 0) ++ leBytes 1 ((s.2.map (fun p => qNum p.q)).getD 0) ++ leBytes 1 (d.busyUnits k)
      ++ leBytes 8 wa ++ leBytes 8 ((w.map (fun p => p.word 2)).getD 0) ++ leBytes 1 (d.sbOf k).length))

/-- Section 3: ZF credits; every slot has been delivered between two commands, so every credit is with its sender (08 Table 08-1); DESIGN CHOICE in part: log 101. -/
def Dev.snpZf (d : Dev) (dev : Bool) : List (List Byte) :=
  if dev && d.sys.phase.toNat != 1 then
    (List.range 42).map (fun i =>
      let j := i / 6
      let st := (tget d.zf.ports j {}).st
      padTo 16 (leBytes 1 j ++ leBytes 1 (i % 6 / 3) ++ leBytes 1 (i % 3) ++ leBytes 1 st.toNat
        ++ leBytes 2 (if st == 1 then [64, 128, 256].getD (i % 3) 0 else 0)))
  else []

/-- Section 4: link credits; direction 0 is transmit, 1 receive. -/
def Dev.snpLinks (d : Dev) (dev : Bool) : List (List Byte) :=
  if dev then
    ((List.range 72).filter (fun l => (d.link l).st != 0)).flatMap (fun l =>
      let x := d.link l
      (List.range 6).map (fun i =>
        let vc := i % 3
        let inUnits := ((d.lnk.held.filter (fun h => h.link == l && h.msg.vc == vc)).map (fun h => h.msg.nUnits)).foldl (· + ·) 0
        let back := if vc == 0 then x.freed.1 else if vc == 1 then x.freed.2.1 else x.freed.2.2
        padTo 16 (leBytes 2 l ++ leBytes 1 (i / 3) ++ leBytes 1 vc
          ++ leBytes 2 (if i < 3 then x.credits vc else back) ++ leBytes 2 (if i < 3 then x.waitingUnits vc else inUnits)
          ++ leBytes 2 (if i < 3 then x.replay.length else 0) ++ leBytes 1 x.st.toNat)))
  else []

/-- Section 5: DMA channels. -/
def Dev.snpDma (d : Dev) (dev : Bool) (o : Nat) : List (List Byte) :=
  ((List.range 192).filter (fun k => (tget d.dma (k / 16) {}).present)).filterMap (fun k =>
    let c := d.chan k
    let own := match c.job with | some j => j.owner | none => k % 16 / 2
    if inScope dev o own then
      some (match c.job with
        | some j => padTo 32 (leBytes 1 (k / 16) ++ leBytes 1 (k % 16) ++ leBytes 1 (d.chanState (k / 16) (k % 16)) ++ leBytes 1 own ++ leBytes 2 j.tag.toNat
            ++ leBytes 1 (qNum j.q) ++ leBytes 1 j.blocks.length ++ leBytes 8 j.desc ++ leBytes 8 (j.dst + j.wr) ++ leBytes 2 c.waiting.length)
        | none => padTo 32 (leBytes 1 (k / 16) ++ leBytes 1 (k % 16) ++ leBytes 1 (d.chanState (k / 16) (k % 16)) ++ leBytes 1 own ++ List.replicate 20 0
            ++ leBytes 2 c.waiting.length))
    else none)

/-- Section 6: KPM slots. -/
def Dev.snpKpm (d : Dev) (dev : Bool) (o : Nat) : List (List Byte) :=
  ((List.range 48).filter (fun k => d.kpmOk (k / 8))).filterMap (fun k =>
    let s := d.kslot k
    if s.st == 0 then (if dev then some (padTo 32 (leBytes 1 (k / 8) ++ leBytes 1 (k % 8))) else none)
    else if inScope dev o (qOwner s.q) then
      some (padTo 32 (leBytes 1 (k / 8) ++ leBytes 1 (k % 8) ++ leBytes 1 s.st.toNat ++ leBytes 1 (qOwner s.q) ++ leBytes 2 s.tag.toNat
        ++ leBytes 1 s.opc.toNat ++ leBytes 1 s.fails ++ leBytes 8 s.desc ++ leBytes 8 (s.gran.getD 0)
        ++ leBytes 8 (if s.gran.isSome then d.now - s.since else 0)))
    else none)

/-- Times a request has been sent, and the link it last went by. -/
def Dev.ridSends (d : Dev) (r : Rid) : Nat × Nat :=
  let l := d.lnk.links.filterMap (fun e => (e.2.txq.find? (fun t => t.msg.op != 5 && t.msg.src == d.sys.node.toNat && t.msg.rid == r.rid.toNat)).map (fun t => (t.sends, e.1)))
  match l.head? with
  | some x => x
  | none => (b2n r.sent, (d.route r.node r.vc).getD 0)

/-- Section 7: remote requests. -/
def Dev.snpRids (d : Dev) (dev : Bool) (o : Nat) : List (List Byte) :=
  (d.lnk.rids.filter (fun r => inScope dev o r.owner)).map (fun r =>
    let s := d.ridSends r
    padTo 32 (leBytes 2 r.rid.toNat ++ leBytes 1 (s.2 / 24) ++ leBytes 1 r.owner ++ leBytes 2 r.tag.toNat ++ leBytes 1 r.op
      ++ leBytes 1 s.1 ++ leBytes 1 r.node ++ leBytes 1 r.vc ++ leBytes 2 r.xseq.toNat ++ leBytes 4 ((d.now - r.since) / 1000) ++ leBytes 8 (r.addr % 2 ^ 56)))

/-- The sections in order: TYPE, entry size, entries. -/
def Dev.snpSections (d : Dev) (dev : Bool) (o : Nat) : List (Nat × Nat × List (List Byte)) :=
  [(1, 32, d.snpQueues dev o), (2, 32, d.snpSeqs dev o), (3, 16, d.snpZf dev), (4, 16, d.snpLinks dev),
   (5, 32, d.snpDma dev o), (6, 32, d.snpKpm dev o), (7, 32, d.snpRids dev o)]

/-- The directory: offsets follow from the sizes. -/
def snpDirectory : List (Nat × Nat × List (List Byte)) → Nat → List Byte
  | [], _ => []
  | (t, n, l) :: r, off =>
    padTo 16 (leBytes 1 t ++ [0] ++ leBytes 2 n ++ leBytes 4 l.length ++ leBytes 4 off) ++ snpDirectory r (off + n * l.length)

/-- A snapshot record (18 Table 18-4, R401). -/
def Dev.snpRecord (d : Dev) (dev : Bool) (o : Nat) (x : SnpFn) : List Byte :=
  let s := d.snpSections dev o
  let body := s.flatMap (fun e => e.2.2.flatten)
  let n := 64 + 112 + body.length
  padTo 64 (leBytes 4 0x534E4150 ++ leBytes 1 1 ++ leBytes 1 (b2n dev) ++ leBytes 1 o ++ leBytes 1 (b2n x.cmd.isNone)
    ++ leBytes 8 x.start ++ leBytes 8 d.now ++ leBytes 4 n ++ leBytes 4 7 ++ leBytes 4 x.stAt.toNat ++ leBytes 4 x.liveAt.toNat)
    ++ snpDirectory s 176 ++ body

/-- A snapshot begins: START and the header's registers. -/
def Dev.snpStart (d : Dev) (k : Nat) (cmd : Option (QRef × BitVec 16)) : Dev :=
  d.setSnp k { d.snpFn k with busy := true, cmd := cmd, start := d.now, stAt := BitVec.ofNat 32 d.sysState, liveAt := BitVec.ofNat 32 d.sysLive }

/-- The destination check of a GO (18 R402). -/
def Dev.snpDestOk (d : Dev) (o a : Nat) : Bool :=
  a % 4096 == 0 && isLocal a && (dpaSpace a == 0 || dpaSpace a == 12) && d.owns o a (2 ^ 21) true

/-- A write of SNP_CTL (18 R402, R403). -/
def Dev.wrSnpCtl (d : Dev) (fn : Fn) (v : Nat) : Dev :=
  let k := fnKey fn
  let x := d.snpFn k
  let x := if fn == .pf then { x with scope := bit v 1 } else x
  if !bit v 0 then d.setSnp k x
  else if x.busy then d.setSnp k { x with refused := true }
  else if !d.snpDestOk (fnOwner fn) (d.canon x.dest.toNat) then d.setSnp k { x with err := true, cause := 1 }
  else (d.setSnp k x).snpStart k none

/-- SNAPSHOT (18 R402, R403): it waits for the function's earlier snapshot to end. -/
def Dev.opSnapshot (d : Dev) (p : Pkt) : Dev :=
  let k := fnKey (ownerFn p.owner)
  if (d.snpFn k).busy then d else d.snpStart k (some (p.q, p.tag))

/-- A record written through captured translations until a write fails. -/
def Dev.writeRecord (d : Dev) (p : Pkt) (e : Env) (dva : Nat) (b : List Byte) : WrR :=
  ((dpaPieces p.leaves dva b.length).foldl (fun (x : WrR × List Byte) q =>
    (writeUntil p.owner (p.acc e) (cutWords (q.2 / 32 + 2) (x.1.d.canon q.1) (x.2.take q.2)) x.1, x.2.drop q.2)) ({ d := d }, b)).1

/-- SNAPSHOT_DONE (18 R403): the record is written; a write that fails stops it. -/
def Dev.snpDone (d : Dev) (fn : Fn) (e : Env) : Dev :=
  let k := fnKey fn
  let o := fnOwner fn
  let x := d.snpFn k
  if !x.busy then d
  else
    let idle := fun (d : Dev) => d.setSnp k { d.snpFn k with busy := false, cmd := none }
    match x.cmd with
    | some (q, tag) =>
      match d.pkt? q tag with
      | none => idle d
      | some p =>
        let b := d.snpRecord (bit (p.word 1) 0) o x
        let w := d.writeRecord p e (p.f 2 47 0) b
        let d := idle w.d
        let d := if isExc w.st then d else d.setSnp k { d.snpFn k with bytes := BitVec.ofNat 32 b.length }
        Dev.conclude p { d := d, st := w.st, res := if isExc w.st then w.fail else b.length, wrote := dpaPieces p.leaves (p.f 2 47 0) b.length }
    | none =>
      let a := d.canon x.dest.toNat
      let b := d.snpRecord x.scope o x
      let w := writeUntil o { owner := some o, env := e } (cutWords (b.length / 32 + 2) a b) { d := d }
      let d := idle w.d
      let x := d.snpFn k
      if isExc w.st then d.setSnp k { x with err := true, cause := 2 }
      else
        let d := d.setSnp k { x with done := true, bytes := BitVec.ofNat 32 b.length }
        if x.done then d else d.emit (.msix fn 0)

end Sys2Proof.Machine
end

