-- ==== Sys2Proof/Machine/RegWrite.lean ====
section
/-!
DEFINITION. Machine/RegWrite.lean: a write of any register (spec/21_register_summary.md R433-R442 and the register tables of every
chapter), the accesses of a function to its BAR0 (R435, R437, R438), and the register accesses that units make through space 0xF
(R436).
-/
namespace Sys2Proof.Machine

/-- W1C: the bits written 1 clear (00 Table 00-3). -/
def w1c {w : Nat} (x : BitVec w) (v : Nat) : BitVec w := x &&& ~~~(BitVec.ofNat w v)

/-- Bits [31:0] of a 56-bit address register replaced, its low l bits zero. -/
def setLo (x : BitVec 56) (v l : Nat) : BitVec 56 := BitVec.ofNat 56 (2 ^ 32 * (x.toNat / 2 ^ 32) + alignDown (v % 2 ^ 32) (2 ^ l))
/-- Bits [55:32] of a 56-bit address register replaced. -/
def setHi (x : BitVec 56) (v : Nat) : BitVec 56 := BitVec.ofNat 56 (2 ^ 32 * (v % 2 ^ 24) + x.toNat % 2 ^ 32)

/-- A write of word i of a context's registers: LO for an even i, HI for an odd one (09 Table 09-6). Later packets are translated
by the new root. -/
def Dev.wrCtx (d : Dev) (o i v : Nat) : Dev :=
  let p := d.part o
  let c := tget p.ctx (i / 2) {}
  let c := if i % 2 == 0 then { c with valid := bit v 0, root := setLo c.root v 13 } else { c with root := setHi c.root v }
  (d.setPart o { p with ctx := tset p.ctx (i / 2) c }).staleTlb (fun t => t.owner == o && t.ctx == i / 2)

/-- A write of a queue's register; the ring registers are read-only while the queue is enabled (11 R240, Table 11-6). -/
def Dev.wrQueue (d : Dev) (e : Env) (q : QRef) (r v : Nat) : Dev :=
  let x := d.queue q
  if !d.queueExists q then d
  else match r with
    | 0x00 => d.wrQctl e q v
    | 0x30 => d.wrQirq q v
    | _ =>
      if x.enable then d
      else match r with
        | 0x08 => d.setQueue q { x with sqBase := setLo x.sqBase v 12 }
        | 0x10 => d.setQueue q { x with sqBase := setHi x.sqBase v }
        | 0x18 => d.setQueue q { x with sqLog2 := BitVec.ofNat 5 v, cqLog2 := BitVec.ofNat 5 (bf v 12 8) }
        | 0x20 => d.setQueue q { x with cqBase := setLo x.cqBase v 12 }
        | 0x28 => d.setQueue q { x with cqBase := setHi x.cqBase v }
        | _ => d

/-- A write in a partition's stride; ignored while the partition is absent (09 R219). -/
def Dev.wrStride (d : Dev) (e : Env) (p r v : Nat) : Dev :=
  if (d.part p).st == 0 then d
  else match entry? r 0x40 8 32 with
    | some i => d.wrCtx p i v
    | none => match group? r 0x1000 0x80 64 with
      | some (q, o) => d.wrQueue e (keyQ (64 * p + q)) o v
      | none => d

/-- A write of a pool's register; the configuration of an enabled pool is kept (14 R296, R317), as is that of a die that is out of
service (21 R438). -/
def Dev.wrPool (d : Dev) (fn : Fn) (n k r v : Nat) : Dev :=
  let x := d.pool k
  if d.dieOut n || !d.mayPool fn k then d
  else if r == 0x00 then d.wrPoolCtl n k (fn == .pf) v
  else if x.enable then d
  else match r with
    | 0x08 => d.setPool k { x with base := setLo x.base v 12 }
    | 0x10 => d.setPool k { x with base := setHi x.base v }
    | 0x18 => d.setPool k { x with blocks := BitVec.ofNat 24 v }
    | 0x20 => d.setPool k { x with desc := setLo x.desc v 12 }
    | 0x28 => d.setPool k { x with desc := setHi x.desc v }
    | 0x30 => d.setPool k { x with arb := setLo x.arb v 12 }
    | 0x38 => d.setPool k { x with arb := setHi x.arb v }
    | _ => d

/-- A write in the KPM and ARB block (14 Table 14-6). -/
def Dev.wrKpm (d : Dev) (e : Env) (fn : Fn) (off v : Nat) : Dev :=
  match group? off 0x180000 0x4000 6 with
  | some (n, r) => d.wrPool fn n (poolKey n (r / 0x100)) (r % 0x100) v
  | none => match entry? off 0x198000 8 512 with
    | some k =>
      let p := d.part (k / 64)
      if p.st == 0 then d else d.setPart (k / 64) { p with streams := tset p.streams (k % 64) (BitVec.ofNat 13 v) }
    | none => match entry? off 0x199000 8 36 with
      | some i => d.wrArbKey (i / 4) (i % 4) v
      | none =>
        if off == 0x199120 then { d with kpm := { d.kpm with keyRef := d.kpm.keyRef && !bit v 0 } }
        else if off == 0x199800 then d.wrPin e fn v
        else if off == 0x199808 then { d with kpm := { d.kpm with pinHi := tset d.kpm.pinHi (fnKey fn) (BitVec.ofNat 24 v) } }
        else if off == 0x199810 then { d with kpm := { d.kpm with evt := w1c d.kpm.evt v } }
        else d

/-- A write in the TRN block (05 Table 05-5, 09 Table 09-6). -/
def Dev.wrTrn (d : Dev) (off v : Nat) : Dev :=
  match entry? off 0x280010 8 8 with
  | some p => d.setPart p { d.part p with det := bit v 0, outSat := bit v 1 }
  | none => match entry? off 0x280100 8 32 with
    | some i => d.wrCtx 8 i v
    | none => d

/-- A write in the HBM block (07 Table 07-6). -/
def Dev.wrHbm (d : Dev) (r v : Nat) : Dev :=
  if r == 0 then { d with hbm := { d.hbm with evt := w1c d.hbm.evt v } }
  else if r == 0x28 then d.wrHbmCtl v
  else match entry? r 0x40 8 6 with
    | some n => if d.dieOut n then d else { d with hbm := { d.hbm with share := tset d.hbm.share n (BitVec.ofNat 5 (min 16 (bf v 4 0))) } }
    | none => d

/-- A write in the ZF and PRT blocks (08 Table 08-7); DEDUCED in part: log 66. -/
def Dev.wrZf (d : Dev) (r v : Nat) : Dev :=
  match r with
  | 0x40 => { d with zf := { d.zf with evt := w1c d.zf.evt v } }
  | 0x48 => d.wrRlcCtl v
  | 0x120 => { d with zf := { d.zf with inBase := setLo d.zf.inBase v 0 } }
  | 0x128 => { d with zf := { d.zf with inBase := setHi d.zf.inBase v } }
  | 0x130 => { d with zf := { d.zf with inSize := BitVec.ofNat 25 v } }
  | _ => d

/-- A write in the LNK block (16 Table 16-5). -/
def Dev.wrLnk (d : Dev) (r v : Nat) : Dev :=
  match r with
  | 0x00 => { d with lnk := { d.lnk with timeout := BitVec.ofNat 20 (max 100 (min 1000000 (bf v 19 0))) } }
  | 0x10 => { d with lnk := { d.lnk with evt := w1c d.lnk.evt v } }
  | 0x20 => { d with lnk := { d.lnk with rtSel := BitVec.ofNat 8 v } }
  | _ => match entry? r 0x100 8 64 with
    | some i => { d with lnk := { d.lnk with imp := tset d.lnk.imp i (BitVec.ofNat 32 (v &&& 0xFF01FF)) } }
    | none => d

/-- A write in the THM block (17 Table 17-6). -/
def Dev.wrThm (d : Dev) (r v : Nat) : Dev :=
  match r with
  | 0x00 => { d with thm := { d.thm with ctl := BitVec.ofNat 2 v } }
  | 0x08 => { d with thm := { d.thm with evt := w1c d.thm.evt v } }
  | 0x10 => { d with thm := { d.thm with trip := d.thm.trip && !bit v 0 } }
  | 0x20 => { d with thm := { d.thm with sel := BitVec.ofNat 15 (v &&& 0x7F37) } }
  | _ => d

/-- A function's counter window changed. -/
def Dev.setCntFn (d : Dev) (fn : Fn) (c : CntFn) : Dev := { d with cnt := { d.cnt with fns := tset d.cnt.fns (fnKey fn) c } }

/-- A write in the CNT block (18 Table 18-8); BANK is fixed in a VF (18 R391). -/
def Dev.wrCnt (d : Dev) (fn : Fn) (r v : Nat) : Dev :=
  let c := d.cntFn fn
  match r with
  | 0x00 => d.setCntFn fn { c with
      index := BitVec.ofNat 10 v, group := BitVec.ofNat 3 (bf v 18 16), bank := if fn == .pf then BitVec.ofNat 4 (bf v 27 24) else c.bank }
  | 0x08 => d.wrCntVal fn v
  | 0x18 => d.setCntFn fn { c with satEvt := bit v 0 }
  | 0x20 => d.setCntFn fn { c with evt := c.evt && !bit v 0 }
  | _ => d

/-- A write in the SNP block (18 Table 18-8). -/
def Dev.wrSnp (d : Dev) (fn : Fn) (r v : Nat) : Dev :=
  let k := fnKey fn
  let x := d.snpFn k
  match r with
  | 0x00 => d.setSnp k { x with dest := setLo x.dest v 12 }
  | 0x08 => d.setSnp k { x with dest := setHi x.dest v }
  | 0x10 => d.wrSnpCtl fn v
  | 0x18 => d.setSnp k { x with done := x.done && !bit v 1, refused := x.refused && !bit v 2, err := x.err && !bit v 3 }
  | _ => d

/-- A write in the LCK block (19 Table 19-4). -/
def Dev.wrLck (d : Dev) (r v : Nat) : Dev :=
  match r with
  | 0x08 => d.wrLckCmd v
  | 0x200 => d.wrTapCtl v
  | 0x208 => d.setLck { d.lck with tms := BitVec.ofNat 32 v }
  | 0x210 => d.setLck { d.lck with tdi := BitVec.ofNat 32 v }
  | _ => match entry? r 0x20 8 4 with
    | some w => d.setLck { d.lck with pw := tset d.lck.pw w (BitVec.ofNat 32 v) }
    | none => match entry? r 0x100 8 24 with
      | some w => d.setLck { d.lck with resp := tset d.lck.resp w (BitVec.ofNat 32 v) }
      | none => d

/-- A write in the SYS and TMK blocks. -/
def Dev.wrSys (d : Dev) (e : Env) (fn : Fn) (off v : Nat) : Dev :=
  if fn != .pf then d
  else match off with
    | 0x90 => { d with time := { d.time with holdSeen := d.time.holdSeen && !bit v 2 } }
    | 0xA0 => d.wrNode v
    | 0x10408 => { d with sys := { d.sys with tmkEvt := d.sys.tmkEvt && !bit v 0 } }
    | _ => match group? off 0x4000 0x80 16 with
      | some (m, r) => d.wrQueue e (keyQ (512 + m)) r v
      | none => d

/-- A write in the PWR block (02 Table 02-13). -/
def Dev.wrPwr (d : Dev) (r v : Nat) : Dev :=
  match r with
  | 0x00 => d.wrPwrVop v
  | 0x28 => { d with pwr := { d.pwr with evt := w1c d.pwr.evt v } }
  | 0x30 => d.wrPwrReq v
  | _ => d

/-- A write of 32 bits to the register at a management offset; a register the function does not see ignores it (21 R435, R438). -/
def Dev.regWrite (d : Dev) (e : Env) (fn : Fn) (off v : Nat) : Dev :=
  let v := v % 2 ^ 32
  if fn != .pf && !d.regVisible (fnOwner fn) off then d
  else if off < 0x20000 then d.wrSys e fn off v
  else if off < 0x30000 then d.wrPwr (off - 0x20000) v
  else if off < 0x40000 then (if fn == .pf then d.wrThm (off - 0x30000) v else d)
  else if off < 0x50000 then
    match entry? off 0x40040 8 6 with
    | some n => if d.dieOut n then d else d.wrEscReq (fnOwner fn) n v
    | none => d
  else if off < 0x80000 then d
  else if off < 0x100000 then d.wrStride e ((off - 0x80000) / 0x10000) (off % 0x10000) v
  else if off < 0x180000 then d
  else if off < 0x200000 then d.wrKpm e fn off v
  else if off < 0x280000 then d
  else if off < 0x300000 then d.wrTrn off v
  else if off < 0x380000 then d.wrHbm (off - 0x300000) v
  else if off < 0x400000 then
    (match off - 0x380000 with
     | 0x00 => { d with slc := { d.slc with evt := w1c d.slc.evt v } }
     | 0x28 => d.wrSlcCtl v
     | _ => d)
  else if off < 0x480000 then d.wrZf (off - 0x400000) v
  else if off < 0x500000 then d.wrLnk (off - 0x480000) v
  else if off < 0x580000 then d.wrCnt fn (off - 0x500000) v
  else if off < 0x600000 then d
  else if off < 0x680000 then d.wrSnp fn (off - 0x600000) v
  else if off < 0x700000 then (if fn == .pf then d.wrLck (off - 0x680000) v else d)
  else d

/-! Accesses (21 R437). -/

/-- 8-byte slots that [off, off + n) touches. -/
def slotsOf (off n : Nat) : List Nat := if n = 0 then [] else (List.range ((off + (n - 1)) / 8 + 1 - off / 8)).map (fun i => (off / 8 + i) * 8)

/-- A write of bytes, register by register: only one that covers the register's four bytes takes effect. map: management offset
of a slot. -/
def Dev.regWriteBytes (d : Dev) (e : Env) (fn : Fn) (map : Nat → Option Nat) (off : Nat) (b : List Byte) : Dev :=
  (slotsOf off b.length).foldl (fun d s =>
    if off ≤ s && s + 4 ≤ off + b.length then
      match map s with
      | some m => d.regWrite e fn m (leNat ((b.drop (s - off)).take 4))
      | none => d
    else d) d

/-- A read of n bytes, register by register: one read of every register whose low dword it touches. -/
def Dev.regReadBytes (d : Dev) (fn : Fn) (map : Nat → Option Nat) (off n : Nat) : Dev × List Byte :=
  let r := (slotsOf off n).foldl (fun (x : Dev × List Byte) s =>
    if s + 4 ≤ off then (x.1, x.2 ++ List.replicate 8 0)
    else match map s with
      | some m => let v := regRead x.1 fn m; (v.2, x.2 ++ leBytes 8 v.1)
      | none => (x.1, x.2 ++ List.replicate 8 0)) (d, [])
  (r.1, (r.2.drop (off % 8)).take n)

/-- Writes that units made through space 0xF, applied in order (21 R436). -/
def Dev.applyRegq (e : Env) : Nat → Dev → Dev
  | 0, d => { d with disp := { d.disp with regq := [] } }
  | n + 1, d =>
    match d.disp.regq with
    | [] => d
    | (o, off, b) :: r => Dev.applyRegq e n (({ d with disp := { d.disp with regq := r } } : Dev).regWriteBytes e (ownerFn o) some off b)

/-- Every register write of the running command applied; DEDUCED in part: log 65. -/
def Dev.flushRegs (d : Dev) (e : Env) : Dev := Dev.applyRegq e (d.disp.regq.length + 65536) d

/-- A command of the host side whose units may write registers. -/
def onRun (s : State) (e : Env) (f : Dev → Dev) : Host.Outcome State Fault Refusal := onUp s (fun d => (f d).flushRegs e)
/-- A request of a function whose effect may write further registers. -/
def onHost (s : State) (fn : Fn) (e : Env) (f : Dev → Dev) : Host.Outcome State Fault Refusal :=
  onDev s (fun d => d.hostReq? fn (fun d => (f d).flushRegs e))

/-! The commands. -/

/-- REGISTER_WRITE (21 R437): a write of up to 8 bytes in a function's BAR0. -/
def execRegisterWrite (fn : Fn) (off size : Nat) (v : BitVec 64) (e : Env) (s : State) : Host.Outcome State Fault Refusal :=
  onHost s fn e (fun d => (d.applyEnv e).regWriteBytes e fn (fnMap fn) off (leBytes (min size 8) v.toNat))
/-- REGISTER_READ (21 R437, 00 R7): a read of up to 8 bytes in a function's BAR0. -/
def execRegisterRead (fn : Fn) (off size : Nat) (s : State) : Host.Outcome State Fault Refusal :=
  onHost s fn {} (fun d => let r := d.regReadBytes fn (fnMap fn) off (min size 8); r.1.emit (.reg fn off (leNat r.2)))

end Sys2Proof.Machine
end

