-- ==== Sys2Proof/Machine/Control.lean ====
section
/-!
DEFINITION. Machine/Control.lean: BARRIER, FLUSH, SIGNAL, WAIT, INVALIDATE, the partition commands, SET_VOP and ESC_REQUEST
(spec/12_command_reference.md R268, R269, R275, R276, spec/10_ordering.md R225-R234, spec/09_addressing.md R207, R212-R217).
-/
namespace Sys2Proof.Machine

/-! Ordering. -/

/-- Writes of packets that sel picks by queue and number are not yet performed: remote and partner writes not yet answered, and
writes an exclusive hold keeps back; DEDUCED in part: log 39. -/
def Dev.writesPend (d : Dev) (sel : QRef → Nat → Bool) : Bool :=
  d.kpm.held.any (fun h => match h.q, h.ord with | some q, some o => sel q o | _, _ => false)
    || d.lnk.rids.any (fun r => sel r.q r.ord && (match r.use with | .dmaWrite _ _ _ => true | _ => false))
    || d.zf.reqs.any (fun r => r.wr && !r.dead && !r.sync && sel r.q r.ord)

/-- Every packet ahead of p in its queue has completed, and its writes are performed (10 R229). -/
def Dev.aheadDone (d : Dev) (p : Pkt) : Bool :=
  !(d.inflight p.q).any (fun x => x.ord < p.ord) && !(d.abortsOf p.q).any (fun j => j.ord < p.ord)
    && !d.writesPend (fun q o => q == p.q && o < p.ord)

/-- Every reservation broken (10 R234). -/
def Dev.breakAll (d : Dev) : Dev := d.kpm.slots.foldl (fun d e => d.dropRsv e.1) d

/-- The store buffers that hold writes of a queue's packets drained (10 R226 items 1 and 4, R232). -/
def Dev.drainQueue (d : Dev) (e : Env) (q : QRef) : Dev :=
  (d.sb.filter (fun x => x.2.any (fun y => y.q == q))).foldl (fun d x => d.drain e x.1) d

/-- BARRIER (10 R226, R229, R234). -/
def Dev.opBarrier (d : Dev) (p : Pkt) (e : Env) : Dev :=
  let d := d.drainQueue e p.q
  if d.aheadDone p then d.breakAll.finish p.ord sOk 0 else d

/-- FLUSH (10 R230): the packets of its scope that had their status entries when it was taken have every write performed. -/
def Dev.opFlush (d : Dev) (p : Pkt) : Dev := if d.writesPend (fun _ o => p.flush.contains o) then d else d.close p sOk 0

/-! WAIT (12 R269). -/

/-- COND holds of a word. -/
def waitMet (cond v want : Nat) : Bool :=
  match cond with
  | 0 => decide (want ≤ v)
  | 1 => v == want
  | _ => v != want

/-- A WAIT reads its word: it completes where COND holds. -/
def Dev.pollWait (d : Dev) (p : Pkt) (e : Env) : Dev :=
  match leafDpa p.leaves (p.f 1 47 0) with
  | none => d.close p sUnmapped 0
  | some (a, l) =>
    let a := d.canon a
    if !isLocal a then d.close p (if 3 < dpaSpace a then sPerm else sBadParam) 0
    else
      let r := d.readBytes { p.acc e with imm := l.imm } a 8
      let v := leNat r.bytes
      let p := { p with waitRid := 1, wanted := BitVec.ofNat 64 (if isExc r.st then p.wanted.toNat else v) }
      let d := r.d.modPkt p.ord (fun x => { x with waitRid := 1, wanted := p.wanted })
      if isExc r.st then d.close p r.st p.wanted.toNat
      else if waitMet (p.f 3 1 0) v (p.word 2) then d.finish p.ord sOk v
      else d

/-- WAIT's TIMEOUT expires: the last value read is its RESULT. -/
def Dev.expireWait (d : Dev) (p : Pkt) : Dev :=
  match p.deadline with
  | some t => if p.waitRid = 0 then d else (d.advTo t).close p sTimeout p.wanted.toNat
  | none => d

/-- Every WAIT on an address reads it again (12 R269). -/
def Dev.wakeWaits (d : Dev) (e : Env) (a : Nat) : Dev :=
  (d.disp.pkts.filter (fun (p : Pkt) => p.opc == 0x03 && p.phase == .started && p.waitRid != 0 &&
    (match leafDpa p.leaves (p.f 1 47 0) with | some x => d.canon x.1 == a | none => false))).foldl (fun (d : Dev) p => d.pollWait p e) d

/-! SIGNAL (12 Table 12-3, 10 R232, 16 R354). -/

/-- SIGNAL; DEDUCED in part: log 35. -/
def Dev.opSignal (d : Dev) (p : Pkt) (e : Env) : Dev :=
  match leafDpa p.leaves (p.f 1 47 0) with
  | none => d.close p sUnmapped 0
  | some (a, _) =>
    let a := d.canon a
    let add := bit (p.word 3) 0
    if !isLocal a && 3 < dpaSpace a then d.close p sPerm 0
    else if 2 < dpaSpace a then d.close p sBadParam 0
    else if p.waitRid != 0 then d
    else
      let d := d.drainQueue e p.q
      if d.writesPend (fun q o => q == p.q && o < p.ord) then d
      else if isLocal a then
        let r := d.atomicAt (p.acc e) a (if add then 0 else 1) true (p.word 2) 0
        if isExc r.2.1 then r.1.close p r.2.1 0
        else (Dev.conclude p { d := r.1, res := r.2.2, wrote := [(a, 8)] }).wakeWaits e a
      else if d.sys.node.toNat == 0xFF then d.close p sUnmapped 0
      else
        let d := d.modPkt p.ord (fun x => { x with waitRid := 1 })
        (d.request (if add then
            { op := 3, node := dpaNode a, vc := 0, tracked := true, owner := p.owner, q := p.q, tag := p.tag, addr := a, len := 8,
              use := .atomic, data := leBytes 8 (p.word 2), arg := 8 }
          else
            { op := 2, node := dpaNode a, vc := 0, owner := p.owner, q := p.q, tag := p.tag, addr := a, len := 8, use := .signal,
              data := leBytes 8 (p.word 2) })).sendAll

/-! INVALIDATE (09 R207). -/

/-- The part of [dva, dva + n) that lies in [lo, hi). -/
def cutTo (dva n lo hi : Nat) : Nat × Nat := (max dva lo, min (dva + n) hi - max dva lo)

/-- A packet holds a DPA translated from [lo, hi) of a context: a range it named overlaps it. -/
def holdsRange (o k lo hi : Nat) (p : Pkt) : Bool :=
  p.owner == o && p.ctx == k && p.dvas.any (fun r => r.2 != 0 && r.1 < hi && lo < r.1 + r.2)

/-- Packets that sel picks and that are not started complete with E_UNMAPPED: the module, and how many there were. -/
def Dev.unmapTaken (d : Dev) (sel : Pkt → Bool) : Dev × Nat :=
  let l := d.disp.pkts.filter (fun p => p.phase == .taken && sel p)
  (l.foldl (fun d p => d.close p sUnmapped 0) d, l.length)

/-- INVALIDATE: steps 1-3 once, and then a wait for every packet taken before them that holds such a DPA. While it waits, wanted
holds its count and deadline the number of the first packet taken afterwards. -/
def Dev.opInvalidate (d : Dev) (p : Pkt) : Dev :=
  let o := if bit (p.word 1) 7 then p.f 1 6 4 else p.owner
  let k := p.f 1 3 0
  let lo := p.f 2 47 0
  let hi := lo + p.f 3 47 0
  let hit := fun (t : Tlb) => t.owner == o && t.ctx == k && decide (t.dva < hi) && decide (lo < t.dva + t.size)
  let limit := p.deadline.getD d.disp.ord
  let sel := fun (x : Pkt) => x.ord != p.ord && x.ord < limit && holdsRange o k lo hi x
  let purge := fun (d : Dev) =>
    let gone := d.disp.tlb.filter hit
    let d := { d with disp := { d.disp with tlb := d.disp.tlb.filter (fun t => !hit t) } }
    gone.foldl (fun d t => let c := cutTo t.dva t.size lo hi; d.purgeRange (t.dpa + (c.1 - t.dva)) c.2) d
  let r := if p.deadline.isSome then (d, p.wanted.toNat) else (purge d).unmapTaken sel
  if r.1.disp.pkts.any sel then r.1.modPkt p.ord (fun x => { x with wanted := BitVec.ofNat 64 r.2, deadline := some limit })
  else r.1.close p sOk (r.2 % 2 ^ 32)

/-! Partitions (09 R212-R217, 12 R275). -/

/-- The resource set a packet names. -/
structure PartSet where
  /-- QUEUES. -/
  queues : Nat
  /-- CORES. -/
  groups : Nat
  /-- UNITS. -/
  units : Nat
  /-- AFFINE. -/
  affine : Nat
  /-- PARTNER. -/
  partner : Bool
deriving DecidableEq, Repr

/-- The set PART_CREATE and PART_RESIZE name (12 Table 12-9). -/
def Pkt.partSet (p : Pkt) : PartSet :=
  { queues := p.f 1 14 8, groups := p.f 2 47 0, units := p.f 3 26 0, affine := p.f 4 5 0, partner := bit (p.word 4) 8 }

/-- The set a partition holds. -/
def Part.held (x : Part) : PartSet :=
  { queues := x.queues.toNat, groups := x.groups.toNat, units := x.units.toNat, affine := x.affine.toNat, partner := x.partner }

/-- What a has beyond b. -/
def PartSet.minus (a b : PartSet) : PartSet :=
  { queues := a.queues - b.queues, groups := a.groups &&& (2 ^ 48 - 1 - b.groups), units := a.units &&& (2 ^ 27 - 1 - b.units),
    affine := a.affine &&& (2 ^ 6 - 1 - b.affine), partner := a.partner && !b.partner }

/-- No resource of a set is absent (09 R214). -/
def Dev.setPresent (d : Dev) (s : PartSet) : Bool :=
  (maskBits s.groups 48).all (fun b => d.groupPresent (b / 8) (b % 8)) && (maskBits s.units 27).all (fun u => u < d.hbmUnits)
    && (maskBits s.affine 6).all (fun n => d.affGranules n != 0) && (!s.partner || d.partnerReady)

/-- The set that a PART_RESIZE which runs will add to a partition. -/
def Part.adds (x : Part) : PartSet :=
  { queues := 0, groups := x.addGroups.toNat, units := x.addUnits.toNat, affine := x.addAffine.toNat, partner := x.addPartner }

/-- Two sets have a resource in common. -/
def PartSet.meets (a b : PartSet) : Bool :=
  a.groups &&& b.groups != 0 || a.units &&& b.units != 0 || a.affine &&& b.affine != 0 || (a.partner && b.partner)

/-- No resource of a set is held by a partition other than o, or about to be added to it. -/
def Dev.setFree (d : Dev) (o : Nat) (s : PartSet) : Bool :=
  d.livePart.all (fun p => p == o || !((d.part p).held.meets s || (d.part p).adds.meets s))

/-- DPA ranges of a set: slices and core SRAM of its groups, its units, its pools, and the partner window. -/
def PartSet.memory (s : PartSet) : List (Nat × Nat) :=
  ((maskBits s.groups 48).flatMap (fun b => [(coreDpa 2 (b / 8) (8 * (b % 8)) 0, 8 * 2 ^ 35), (coreDpa 3 (b / 8) (8 * (b % 8)) 0, 8 * 2 ^ 35)]))
    ++ (maskBits s.units 27).map (fun u => (mkDpa 0 (u * unitBytes), unitBytes))
    ++ (maskBits s.affine 6).map (fun n => (mkDpa 1 (n * 2 ^ 41), 2 ^ 41))
    ++ (if s.partner then [(mkDpa 14 0, 2 ^ 44)] else [])

/-- The memory of a set filled with zeros with valid check bits before it is granted (09 R215). The partner window is no memory of
this module; DEDUCED in part: log 37. -/
def Dev.fillSet (d : Dev) (s : PartSet) : Dev :=
  ({ s with partner := false } : PartSet).memory.foldl (fun d r => (d.breakRsv r.1 r.2 none).zeroFill r.1 (r.1 + r.2 - 1)) d

/-- A partition that holds a set. -/
def Part.hold (x : Part) (s : PartSet) : Part :=
  { x.noAdd with
           queues := BitVec.ofNat 7 s.queues, groups := BitVec.ofNat 48 s.groups, units := BitVec.ofNat 27 s.units,
           affine := BitVec.ofNat 6 s.affine, partner := s.partner }

/-- An earlier command on the partition still runs, or has started and not yet acted (12 R275). -/
def Dev.partBusy (d : Dev) (p : Pkt) (n : Nat) : Bool :=
  2 ≤ (d.part n).st.toNat || d.disp.pkts.any (fun x => x.phase == .started && 0x60 ≤ x.opc.toNat && x.opc.toNat ≤ 0x62
    && x.f 1 2 0 == n && x.startNo < p.startNo && x.ord != p.ord)

/-- PART_CREATE (09 R214, R215, 18 R392). -/
def Dev.opPartCreate (d : Dev) (p : Pkt) : Dev :=
  let n := p.f 1 2 0
  let s := p.partSet
  if d.partBusy p n then d
  else if (d.part n).st != 0 || !d.setFree n s || !d.setPresent s || s.groups = 0 then d.close p sBadParam 0
  else
    let d := (d.fillSet s).clearBank n
    (d.setPart n ((d.part n).hold s)).close p sOk 0

/-- A packet holds a resource of a set: a DPA in its memory, a core it runs on, or a group its CORE_MASK names (09 R216). -/
def Dev.holdsSet (d : Dev) (s : PartSet) (p : Pkt) : Bool :=
  p.uses.any (fun u => s.memory.any (fun r => overlaps (d.canon u.1) u.2.1 r.1 r.2))
    || p.on.any (fun k => s.groups.testBit (8 * (k / 64) + k % 64 / 8))
    || (p.phase == .taken && ((p.coreMask.map (fun m => m &&& s.groups != 0)).getD false))

/-- Queues of a partition numbered from m up. -/
def partQueues (n m : Nat) : List QRef := ((List.range 64).filter (fun i => m ≤ i)).map (fun i => keyQ (64 * n + i))

/-- PART_RESIZE, once no packet that has started holds a removed resource (09 R216 steps 2, 3, R215, 17 R377). -/
def Dev.finishResize (d : Dev) (p : Pkt) (e : Env) (n : Nat) (s : PartSet) : Dev :=
  let old := (d.part n).held
  let rem := old.minus s
  let lost := (List.range 6).filter (fun i => bf rem.groups (8 * i + 7) (8 * i) != 0)
  let qs := partQueues n s.queues
  let d := qs.foldl (fun d q => d.disableQueue e q) d
  let d := d.dropQueues (fun k => k / 64 == n && s.queues ≤ k % 64)
  let d := { d with zf := { d.zf with rlc := d.zf.rlc.filter (fun l =>
    !(l.owner == n && rem.memory.any (fun r => overlaps (256 * l.tag) 256 r.1 r.2))) } }
  let d := (d.dropReqs n lost).fillSet (s.minus old)
  (d.setPart n ((d.part n).hold s)).close p sOk 0

/-- PART_RESIZE (12 R275, 09 R216). STATE is 2 from its checks to its end, and what it will add is its own from then on; waitRid
marks the packet that runs it. -/
def Dev.opPartResize (d : Dev) (p : Pkt) (e : Env) : Dev :=
  let n := p.f 1 2 0
  let s := p.partSet
  let x := d.part n
  if p.waitRid = 0 && d.partBusy p n then d
  else if p.waitRid = 0 && x.st == 0 then d.close p sBadParam 0
  else if p.waitRid = 0 && (s.groups = 0 || !d.setPresent (s.minus x.held) || !d.setFree n (s.minus x.held)) then d.close p sBadParam 0
  else if s = x.held then (d.setPart n x.noAdd).close p sOk 0
  else
    let add := s.minus x.held
    let d := (d.setPart n { x with
        st := 2, addGroups := BitVec.ofNat 48 add.groups, addUnits := BitVec.ofNat 27 add.units, addAffine := BitVec.ofNat 6 add.affine,
        addPartner := add.partner }).modPkt p.ord (fun y => { y with waitRid := 1 })
    let sel := fun (y : Pkt) => y.owner == n && d.holdsSet (x.held.minus s) y
    let r := d.unmapTaken sel
    if r.1.disp.pkts.any sel then r.1 else r.1.finishResize p e n s

/-- The partition-scope ABORT of a PART_DESTROY has ended: the partition releases everything (09 R217 steps 2-4). RESULT counts the
packets cancelled and the units reset. -/
def Dev.endDestroy (d : Dev) (e : Env) (p : Pkt) (j : AbortJob) : Dev :=
  let d := j.target.foldl (fun d q => d.retireAll e q) d
  if !j.stuck.isEmpty || d.disp.pkts.any (fun x => j.target.contains x.q) then d
  else ((d.dropAbort j).releasePart j.part).close p sOk j.result

/-- PART_DESTROY (09 R217): its ABORT begins, STATE is 3, and where every packet has ended the release follows at once; else the
packet waits, and acts again. Units that do not come to rest are reset by ABORT_RESET_TIMEOUT (11 Table 11-4 step 6); DEDUCED in part: log 46. -/
def Dev.opPartDestroy (d : Dev) (p : Pkt) (e : Env) : Dev :=
  let n := p.f 1 2 0
  match d.abortOf p.q p.tag with
  | some j => d.endDestroy e p j
  | none =>
    if d.partBusy p n then d
    else if (d.part n).st == 0 then d.close p sBadParam 0
    else
      let qs := d.enabled.filter (fun q => qOwner q == n)
      let start := d.now
      let d := (qs.foldl (fun d q => d.finishAborts e q) (d.setPart n { d.part n with st := 3 })).setRunning qs 1 2
      let r := d.cancelNow e qs
      let j : AbortJob := {
        q := some p.q, tag := p.tag, ord := p.ord, scope := 1, target := qs, acted := true, cancelled := r.2.1, stuck := r.2.2,
        kind := .destroy, part := n, start := start }
      ({ r.1 with disp := { r.1.disp with aborts := r.1.disp.aborts ++ [j] } } : Dev).endDestroy e p j

/-! SET_VOP and ESC_REQUEST (12 R276). -/

/-- SET_VOP: it completes when its own change is done (02 R50). -/
def Dev.opSetVop (d : Dev) (p : Pkt) : Dev :=
  if p.waitRid != 0 then d
  else (d.modPkt p.ord (fun x => { x with waitRid := 1 })).vopRequest (p.f 1 2 0) (BitVec.ofNat 3 (p.f 1 10 8)) (some (p.q, p.tag))

/-- ESC_REQUEST (17 R377). -/
def Dev.opEscRequest (d : Dev) (p : Pkt) : Dev :=
  let n := p.f 1 3 0
  let d := d.hostReq n (p.f 1 11 8) (bit (p.word 1) 12) p.owner
  d.finish p.ord sOk (d.level n + 16 * b2n (d.halt n))

/-! The commands. -/

/-- NOP (12 R268): it completes with RESULT zero. -/
def execNop (q : QRef) (tag : BitVec 16) (s : State) : Host.Outcome State Fault Refusal :=
  onRun s {} (fun d => d.onPkt [0x00] q tag (fun d p => d.finish p.ord sOk 0))
/-- BARRIER (10 R229). -/
def execBarrier (q : QRef) (tag : BitVec 16) (e : Env) (s : State) : Host.Outcome State Fault Refusal :=
  onRun s e (fun d => (d.applyEnv e).onPkt [0x01] q tag (fun d p => d.opBarrier p e))
/-- STORE_BUFFER_ISSUE (10 R225): the oldest entry of a core's store buffer is issued and performed. -/
def execStoreBufferIssue (site : Fin 6) (core : Fin 64) (e : Env) (s : State) : Host.Outcome State Fault Refusal :=
  onRun s e (fun d => (d.applyEnv e).issueN e (coreKey site.val core.val) 1)
/-- SIGNAL (10 R232). -/
def execSignal (q : QRef) (tag : BitVec 16) (e : Env) (s : State) : Host.Outcome State Fault Refusal :=
  onRun s e (fun d => (d.meet e (some (qOwner q))).onPkt [0x02] q tag (fun d p => d.opSignal p e))
/-- WAIT (12 R269): its first read. -/
def execWait (q : QRef) (tag : BitVec 16) (e : Env) (s : State) : Host.Outcome State Fault Refusal :=
  onRun s e (fun d => (d.meet e (some (qOwner q))).onPkt [0x03] q tag (fun d p => d.pollWait p e))
/-- WAIT_POLL (12 R269): it reads its word again. -/
def execWaitPoll (q : QRef) (tag : BitVec 16) (e : Env) (s : State) : Host.Outcome State Fault Refusal :=
  onRun s e (fun d => (d.meet e (some (qOwner q))).onPkt [0x03] q tag (fun d p => if p.waitRid = 0 then d else d.pollWait p e))
/-- WAIT_TIMEOUT (12 R269). -/
def execWaitTimeout (q : QRef) (tag : BitVec 16) (s : State) : Host.Outcome State Fault Refusal :=
  onRun s {} (fun d => d.onPkt [0x03] q tag (fun d p => d.expireWait p))
/-- FLUSH (10 R230). -/
def execFlush (q : QRef) (tag : BitVec 16) (s : State) : Host.Outcome State Fault Refusal :=
  onRun s {} (fun d => d.onPkt [0x04] q tag Dev.opFlush)
/-- INVALIDATE (09 R207). -/
def execInvalidate (q : QRef) (tag : BitVec 16) (e : Env) (s : State) : Host.Outcome State Fault Refusal :=
  onRun s e (fun d => (d.applyEnv e).onPkt [0x05] q tag Dev.opInvalidate)
/-- PART_CREATE (09 R214). -/
def execPartCreate (q : QRef) (tag : BitVec 16) (s : State) : Host.Outcome State Fault Refusal :=
  onRun s {} (fun d => d.onPkt [0x60] q tag Dev.opPartCreate)
/-- PART_RESIZE (12 R275). -/
def execPartResize (q : QRef) (tag : BitVec 16) (e : Env) (s : State) : Host.Outcome State Fault Refusal :=
  onRun s e (fun d => (d.applyEnv e).onPkt [0x61] q tag (fun d p => d.opPartResize p e))
/-- PART_DESTROY (09 R217). -/
def execPartDestroy (q : QRef) (tag : BitVec 16) (e : Env) (s : State) : Host.Outcome State Fault Refusal :=
  onRun s e (fun d => (d.applyEnv e).onPkt [0x62] q tag (fun d p => d.opPartDestroy p e))
/-- SET_VOP (12 R276). -/
def execSetVop (q : QRef) (tag : BitVec 16) (s : State) : Host.Outcome State Fault Refusal :=
  onRun s {} (fun d => d.onPkt [0x80] q tag Dev.opSetVop)
/-- ESC_REQUEST (17 R377). -/
def execEscRequest (q : QRef) (tag : BitVec 16) (s : State) : Host.Outcome State Fault Refusal :=
  onRun s {} (fun d => d.onPkt [0x81] q tag Dev.opEscRequest)

end Sys2Proof.Machine
end

