-- ==== Sys2Proof/Machine/Tensor.lean ====
section
/-!
DEFINITION. Machine/Tensor.lean: the arrays and the vector unit (spec/05_cores_arrays.md R115-R131, R443; spec/12_command_reference.md
R270, Tables 12-4, 12-5): canonical and free reductions, the epilogue, VXU_OP, NORM, OPTIM_STEP, and the escapement's pauses
(spec/17_thermal_escapement.md R373).
-/
namespace Sys2Proof.Machine

/-! Reductions (05 R129, R130). -/

/-- A list cut into consecutive runs of given lengths, the rest as a last run; empty runs are left out. -/
def cutRuns {α : Type} : List Nat → List α → List (List α)
  | [], l => if l.isEmpty then [] else [l]
  | n :: r, l => if l.isEmpty then [] else if n = 0 then cutRuns r l else l.take n :: cutRuns r (l.drop n)

/-- Partial results combined in the order a plan gives, those it does not name last. -/
def joinPlan {α : Type} (pl : Plan) (f : α → α → α) (z : α) (l : List α) : α :=
  let named := nub (pl.order.filter (fun i => i < l.length))
  let all := (named ++ (List.range l.length).filter (fun i => !named.contains i)).filterMap (fun i => l[i]?)
  match all with
  | [] => z
  | a :: r => r.foldl f a

/-- A reduction: in deterministic mode chunks of n in the pairwise tree, in free mode as the plan has it. -/
def reduceBy {α β : Type} (det : Bool) (pl : Plan) (n : Nat) (f : β → β → β) (z : β) (red : List α → β) (l : List α) : β :=
  if det then pairTree f z ((chunks n l).map red) else joinPlan pl f z ((cutRuns pl.cuts l).map red)

/-! The arrays (05 R115-R122). -/

/-- A line of an array operand: a row of A or a column of B, with its block scales. -/
structure Line where
  /-- Elements in K order. -/
  els : List Num
  /-- Scales of its blocks of 32; none outside the MX formats. -/
  sc : List Num := []
deriving Inhabited

/-- Rows and columns exchanged. -/
def transpose (cols : Nat) (m : List (List Nat)) : List (List Nat) := (List.range cols).map (fun c => m.map (fun r => r.getD c 0))

/-- The lines of an operand used along its rows or down its columns (12 R266, 05 R124). -/
def MatR.lines (x : MatR) (t : TD) (alongRows : Bool) : List Line :=
  let m := if alongRows then x.rows else transpose t.cols x.rows
  let nb := ((if alongRows then t.cols else t.rows) + 31) / 32
  ((List.range m.length).zip m).map (fun r =>
    { els := r.2.map (decodeEl t.fmt),
      sc := if isMx t.fmt then (List.range nb).map (fun j => e8m0 (byteAt x.sc (r.1 * nb + j)).toNat) else [] })

/-- A run of products added to the FP32 accumulator, one RNE each (05 R119). -/
def accFloat (l : List (Num × Num)) : Num := l.foldl (fun a x => rnd32 (a.addX (x.1.mulX x.2))) nz

/-- The exact sum of some products. -/
def sumExact (l : List (Num × Num)) : Num := l.foldl (fun a x => a.addX (x.1.mulX x.2)) nz

/-- Blocks added to the FP32 accumulator: each block's exact sum times its scale, one RNE (05 R119). -/
def accBlocks (l : List (List (Num × Num) × Num)) : Num := l.foldl (fun a b => rnd32 (a.addX ((sumExact b.1).mulX b.2))) nz

/-- S of one output element (05 R119, R120, R129). -/
def dotLines (fmt : Nat) (det : Bool) (pl : Plan) (a b : Line) : Num :=
  let ps := a.els.zip b.els
  if isIntGemm fmt then sumExact ps
  else if isMx fmt then
    reduceBy det { pl with cuts := pl.cuts.map (fun n => n / 32) } 128 Num.add nz accBlocks
      ((chunks 32 ps).zip ((a.sc.zip b.sc).map (fun s => s.1.mulX s.2)))
  else reduceBy det pl 4096 Num.add nz accFloat ps

/-- The activation ACT (12 Table 12-4). -/
def actFn (n : Nat) (x : Num) : Num :=
  match n with
  | 1 => x.gelu
  | 2 => x.silu
  | 3 => x.softplus
  | _ => x

/-- What the epilogue of a GEMM takes. -/
structure Epi where
  /-- ALPHA. -/
  alpha : Nat
  /-- BETA. -/
  beta : Nat
  /-- ACT. -/
  act : Nat
  /-- C, if enabled: an element. -/
  c : Option Num
  /-- BIAS, if enabled: an element. -/
  bias : Option Num

/-- No step of the epilogue applies. -/
def Epi.plain (x : Epi) : Bool := x.alpha == 0x3F800000 && (x.c.isNone || (f32 x.beta).isZero) && x.bias.isNone && x.act == 0

/-- Steps 1-5 of the epilogue; a step whose operand is absent is skipped (05 R122). -/
def Epi.run (x : Epi) (s : Num) : Num :=
  let p := if x.alpha == 0x3F800000 then s else (f32 x.alpha).mul s
  let u := match x.c with
    | some c => if (f32 x.beta).isZero then p else p.add ((f32 x.beta).mul c)
    | none => p
  let v := match x.bias with | some b => u.add b | none => u
  actFn x.act v

/-- The value is an integer that INT32 holds. -/
def Num.isInt32 : Num → Bool
  | .fin s m e =>
    let i := sgnNat s (if 0 ≤ e then m * 2 ^ e.toNat else m / 2 ^ (-e).toNat)
    (0 ≤ e || m % 2 ^ (-e).toNat == 0) && decide (-(2 ^ 31) ≤ i) && decide (i < 2 ^ 31)
  | _ => false

/-- W of one output element. An integer GEMM gives its exact sum where no step of the epilogue applies. The steps of R122 are those
of an FP32 sum: they give W of an integer GEMM too where its sum is one exactly and W is an integer of INT32; else the result is
open (log 8). -/
def Epi.out (x : Epi) (int : Bool) (s : Num) : Num :=
  if !int then x.run s
  else if x.plain then s
  else if (s.sub (rnd32 s)).isZero && (x.run s).isInt32 then x.run s
  else Num.ofInt (sgn 32 (Config.openResult 20 ([x.alpha, x.beta, x.act, bits32 (rnd32 s)] ++ ((x.c.map bits32).toList) ++ ((x.bias.map bits32).toList)) % 2 ^ 32))

/-- The rows of the A operand of a convolution: K runs over (KH, KW, IN_C), rows over (BATCH, OH, OW); padding is zero. The elements
of an MX format come with their own scales applied, so that the scales of the line are one (05 R116, R119); DEDUCED in part: logs 32 and 38. -/
def Conv.rows (c : Conv) (mx : Bool) (a : List (List Num)) : List Line :=
  (List.range (c.batch * c.oh * c.ow)).map (fun r =>
    let b := r / (c.oh * c.ow)
    let y := r / c.ow % c.oh
    let x := r % c.ow
    { sc := if mx then List.replicate ((c.k + 31) / 32) n1 else [],
      els := (List.range (c.kh * c.kw)).flatMap (fun i =>
        let h := y * c.sh + i / c.kw * c.dh
        let w := x * c.sw + i % c.kw * c.dw
        if c.ph ≤ h && h < c.ph + c.h && c.pw ≤ w && w < c.pw + c.w then
          ((a.getD (b * c.h + (h - c.ph)) []).drop ((w - c.pw) * c.c)).take c.c
        else List.replicate c.c nz) })

/-! Operations and pauses (05 R117, R118, 17 R373). -/

/-- Handshakes of an array operation over n elements of K, by A format (05 Table 05-1). -/
def arrayHs (fmt n : Nat) : Nat := if fmt ≤ 2 then n else if fmt ≤ 5 then (n + 1) / 2 else 2 * n
/-- Longest K of one array operation. -/
def arrayMaxK (fmt : Nat) : Nat := if fmt ≤ 2 then 16384 else if fmt ≤ 5 then 32768 else 8192

/-- n cut into parts of at most m. -/
def cutMax : Nat → Nat → Nat → List Nat
  | 0, _, _ => []
  | f + 1, n, m => if n = 0 then [] else if n ≤ m then [n] else m :: cutMax f (n - m) m

/-- Operations of some units end: each unit pauses N L / 16 handshakes after each, the last pause still running; every pause
counts. A unit does its list of operations a given number of times. -/
def Dev.endOps (d : Dev) (owner : Nat) (l : List (Nat × Nat × List Nat)) : Dev :=
  l.foldl (fun d u =>
    let lv := d.level (u.1 / 6 / 64)
    let ps := u.2.2.map (fun n => n * lv / 16)
    let d := d.count (some owner) 1 15 (u.2.1 * ps.foldl (· + ·) 0)
    let last := ps.getLast?.getD 0
    if u.2.1 = 0 || last = 0 then d else { d with units := tset d.units u.1 { pause := last } }) d

/-- Tiles dealt in turn to the arrays of some cores: (unit, tiles, operations of a tile). -/
def arrayJobs (cores : List Nat) (tiles : Nat) (ops : List Nat) : List (Nat × Nat × List Nat) :=
  let us := cores.flatMap (fun k => [6 * k, 6 * k + 1, 6 * k + 2, 6 * k + 3])
  ((List.range us.length).zip us).map (fun u => (u.2, (tiles + us.length - 1 - u.1) / us.length, ops))

/-- Elements shared as evenly as possible over one unit of each core: (unit, 1, operations). -/
def evenJobs (cores : List Nat) (u els rate : Nat) : List (Nat × Nat × List Nat) :=
  ((List.range cores.length).zip cores).map (fun k =>
    let n := (els + cores.length - 1 - k.1) / cores.length
    let hs := (n + rate - 1) / rate
    (6 * k.2 + u, 1, cutMax (hs / 16448 + 1) hs 16448))

/-- HALT keeps the operations of a packet's units from starting (17 R373, R374). -/
def Dev.unitsHeld (d : Dev) (p : Pkt) : Bool := (nub (p.on.map (fun k => k / 64))).any d.halt

/-- A status of bad data: the destination is poisoned (06 R146). -/
def badData (s : BitVec 16) : Bool := s == sUe || s == sPoison

/-- A packet whose source failed: nothing is written, and bad data poisons its destination; DEDUCED in part: log 27. -/
def Dev.srcFail (d : Dev) (p : Pkt) (e : Env) (st : BitVec 16) (rs : List Range) : OpR :=
  { d := if badData st then rs.foldl (fun d r => d.poisonP p e r.dva r.n) d else d, st := st }

/-- DPA ranges of some ranges. -/
def Pkt.dpaOf (p : Pkt) (rs : List Range) : List (Nat × Nat) := rs.flatMap (fun r => dpaPieces p.leaves r.dva r.n)

/-! GEMM, GEMM_T and CONV_AS_GEMM. -/

/-- The output rows of a GEMM from its operands. -/
def gemmRows (fmt : Nat) (det : Bool) (plans : List Plan) (a b : List Line) (epi : Nat → Nat → Epi) : List (List Num) :=
  ((List.range a.length).zip a).map (fun r => ((List.range b.length).zip b).map (fun c =>
    (epi r.1 c.1).out (isIntGemm fmt) (dotLines fmt det (plans.getD (r.1 * b.length + c.1) {}) r.2 c.2)))

/-- Hops of a route, as ZF port and direction (0 from the lower-numbered site). -/
def hops : List Nat → List (Nat × Nat)
  | a :: b :: r => ((List.range 7).filter (fun j => portEnds j == (min a b, max a b))).map (fun j => (j, b2n (b < a))) ++ hops (b :: r)
  | _ => []

/-- The ports that a tree's slots cross: those of the routes to its destinations, each once (08 R182). -/
def Dev.treePorts (d : Dev) (t : StreamTree) : List (Nat × Nat) :=
  t.dests.foldl (fun l s => l ++ (hops (tget d.zf.routes (6 * t.src + s.1) [])).filter (fun h => !l.contains h)) []

/-- The STREAM data slots of a packet's trees counted: one copy on each port of a tree (08 R182, 18 Table 18-1). -/
def Dev.countTrees (d : Dev) (p : Pkt) : Dev :=
  p.trees.foldl (fun d t => (d.treePorts t).foldl (fun d j => d.count (some p.owner) 2 (6 * j.1 + 3 * j.2 + 2) (64 * ((t.bytes + 63) / 64))) d) d

/-- GEMM, GEMM_T, CONV_AS_GEMM (12 Table 12-4). In both modes the array operations of a tile are cut at the longest K of Table 05-1,
not at the canonical chunk, which only orders the sums (DESIGN CHOICE, log 88). -/
def Dev.opGemm (d : Dev) (p : Pkt) (e : Env) : OpR :=
  let conv := p.opc == 0x12
  let s := p.shape
  let cv := p.conv
  let ta := p.td 0 0
  let tb := p.td 0 1
  let td := p.td 1 0
  let tc := p.td 1 1
  let m := if conv then cv.batch * cv.oh * cv.ow else s.m
  let k := if conv then cv.k else s.k
  let n := if conv then tb.cols else s.n
  let cEn := bit (p.word 2) 56
  let bEn := bit (p.word 2) 57
  let bf := p.f 2 51 48
  let x := d.readMat p e ta (!s.ta)
  let y := x.d.readMat p e tb s.tb
  let c : MatR := if cEn then y.d.readMat p e tc true else { d := y.d }
  let bi : MatR := if bEn then c.d.readVec p e (p.f 2 47 0) bf n else { d := c.d }
  let st := thenSt x.st (thenSt y.st (thenSt c.st bi.st))
  if isExc st then bi.d.srcFail p e st (td.ranges true true)
  else
    let la := if conv then cv.rows (isMx ta.fmt) (x.vals ta) else x.lines ta (!s.ta)
    let cvals := (c.vals tc).map (fun r => r.map rnd32)
    let bv := bi.vec bf
    let epi := fun (i j : Nat) => ({ alpha := p.f 1 31 0, beta := p.f 1 63 32, act := p.f 2 55 52,
                                     c := if cEn then some ((cvals.getD i []).getD j nz) else none,
                                     bias := if bEn then some (bv.getD j nz) else none } : Epi)
    let rows := gemmRows ta.fmt p.det e.plans la (y.lines tb s.tb) epi
    let w := bi.d.writeMat p e td rows
    let tiles := (m + 63) / 64 * ((n + 63) / 64)
    let ops := (cutMax (k / arrayMaxK ta.fmt + 1) k (arrayMaxK ta.fmt)).map (arrayHs ta.fmt)
    let d := ((w.d.countTrees p).count (some p.owner) 1 ta.fmt (tiles * k)).endOps p.owner (arrayJobs p.on tiles ops)
    { d := d, st := thenSt st w.st, res := tiles % 2 ^ 32 + 2 ^ 32 * b2n p.det, wrote := p.dpaOf (td.ranges true true) }

/-! VXU_OP (05 R125, R126, Tables 05-2, 05-3). -/

/-- One step of the running (m, l) pair (15 R323). -/
def lseStep (a : Num × Num) (s : Num) : Num × Num :=
  let m2 := a.1.max s
  let x := if a.1 == .inf true then nz else (a.1.sub m2).exp
  (m2, rnd32 ((a.2.mulX x).addX (s.sub m2).exp))

/-- Two (m, l) pairs merged; m = -inf is the identity, and of two such a NaN stays (15 R323, R324). -/
def lseMerge (a b : Num × Num) : Num × Num :=
  if a.1 == .inf true && b.1 == .inf true then (.inf true, a.2.add b.2)
  else if a.1 == .inf true then b
  else if b.1 == .inf true then a
  else
    let m := a.1.max b.1
    (m, rnd32 ((a.2.mulX (a.1.sub m).exp).addX (b.2.mulX (b.1.sub m).exp)))

/-- RNE(m + log l). -/
def lseEnd (a : Num × Num) : Num := a.1.add a.2.log

/-- Lane i mod 256 folds its elements in ascending order; the 256 lanes meet in the pairwise tree (05 Table 05-3). -/
def lanes {β : Type} (step : β → Num → β) (id_ : β) (f : β → β → β) (l : List Num) : β :=
  pairTree f id_ ((List.range 256).map (fun i => ((chunks 256 l).filterMap (fun r => r[i]?)).foldl step id_))

/-- A row reduction (05 R129, R130). -/
def reduceRow (op : Nat) (det : Bool) (pl : Plan) (l : List Num) : Num :=
  match op with
  | 0x30 => reduceBy det pl 4096 Num.add nz (lanes Num.add nz Num.add) l
  | 0x31 => reduceBy det pl 4096 Num.add nz (lanes (fun a x => a.add (x.mul x)) nz Num.add) l
  | 0x32 => l.foldl Num.max (.inf true)
  | 0x33 => l.foldl Num.min (.inf false)
  | _ => lseEnd (reduceBy det pl 4096 lseMerge (.inf true, nz) (lanes lseStep (.inf true, nz) lseMerge) l)

/-- An elementwise operation of X, Y and Z (12 Table 12-5). select takes Y where X is not zero, else Z; DEDUCED in part: log 33. -/
def vxuFn (op : Nat) (x y z : Num) : Num :=
  match op with
  | 0x00 => x.add y
  | 0x01 => x.sub y
  | 0x02 => x.mul y
  | 0x03 => x.fma y z
  | 0x04 => x.max y
  | 0x05 => x.min y
  | 0x06 => x.abs
  | 0x07 => x.neg
  | 0x08 => if x.isZero then z else y
  | 0x09 => x
  | 0x10 => x.exp
  | 0x11 => x.exp2
  | 0x12 => x.log
  | 0x13 => x.recip
  | 0x14 => x.rsqrt
  | 0x15 => x.sqrt
  | 0x16 => x.tanh
  | 0x20 => x.gelu
  | 0x21 => x.silu
  | _ => x.softplus

/-- Elements per handshake (05 Table 05-2). -/
def vxuRate (op : Nat) : Nat := if 0x20 ≤ op && op ≤ 0x22 then 64 else if 0x10 ≤ op && op ≤ 0x16 then 128 else 256

/-- Rows of a tensor as FP32 values; an MX element whose scaled value lies beyond FP32 reads as an infinity (DESIGN CHOICE, log 87). -/
def MatR.f32s (x : MatR) (t : TD) : List (List Num) := (x.vals t).map (fun r => r.map rnd32)

/-- VXU_OP. -/
def Dev.opVxu (d : Dev) (p : Pkt) (e : Env) : OpR :=
  let op := p.f 1 7 0
  let tx := p.td 0 0
  let ty := p.td 0 1
  let tz := p.td 1 0
  let t := p.td 1 1
  let yEn := usesY op && !bit (p.word 1) 8
  let x := d.readMat p e tx true
  let y : MatR := if yEn then x.d.readMat p e ty true else { d := x.d }
  let z : MatR := if usesZ op then y.d.readMat p e tz true else { d := y.d }
  let st := thenSt x.st (thenSt y.st z.st)
  if isExc st then z.d.srcFail p e st (t.ranges true true)
  else
    let xs := x.f32s tx
    let ys := y.f32s ty
    let zs := z.f32s tz
    let k := f32 (p.f 1 63 32)
    let rows := if 0x30 ≤ op then ((List.range xs.length).zip xs).map (fun r => [reduceRow op p.det (e.plans.getD r.1 {}) r.2])
      else ((List.range xs.length).zip xs).map (fun r => ((List.range r.2.length).zip r.2).map (fun c =>
        vxuFn op c.2 (if yEn then (ys.getD r.1 []).getD c.1 nz else k) ((zs.getD r.1 []).getD c.1 nz)))
    let w := z.d.writeMat p e t rows
    let els := tx.rows * tx.cols
    let d := (w.d.count (some p.owner) 1 8 els).endOps p.owner (evenJobs p.on 4 els (vxuRate op))
    { d := d, st := thenSt st w.st, res := t.rows * t.cols, wrote := p.dpaOf (t.ranges true true) }

/-! NORM and OPTIM_STEP (12 Table 12-5). The spec names what they compute; the formulas are those of the names (log 100). Where it
does not say which of several sequences of correctly rounded steps is taken, a free value picks one, the same for all data
(log 8). -/

/-- An open FP32 value. -/
def openF32 (name : Nat) (arg : List Nat) : Num := f32 (Config.openResult name arg % 2 ^ 32)

/-- One of some results between which the spec leaves the choice open. -/
def openPick {α : Type} (name : Nat) (l : List α) (z : α) : α := l.getD (Config.openResult name [] % l.length) z

/-- Mean and reciprocal deviation of a row, as NORM's STATS has them: from the row's sum and sum of squares, or the sum of the squared
differences from the mean, each reduced as Table 05-3 says. pl gives the plans of a row's reductions in free mode. -/
def normStats (kind : Nat) (eps : Num) (det : Bool) (pl : Nat → Plan) (row : List Num) : Num × Num :=
  let n := Num.ofInt (Int.ofNat row.length)
  let mean := (reduceRow 0x30 det (pl 0) row).div n
  let sq := (reduceRow 0x31 det (pl 1) row).div n
  if kind = 1 then (openPick 21 [mean, nz] nz, (sq.add eps).rsqrt)
  else
    let var := openPick 22 [sq.sub (mean.mul mean), rnd32 (sq.addX (mean.mulX mean).neg),
                            (reduceRow 0x31 det (pl 2) (row.map (fun x => x.sub mean))).div n] nz
    (mean, (var.add eps).rsqrt)

/-- A normalised element: gamma and beta apply where they are there. -/
def normEl (kind : Nat) (x : Num) (g b : Option Num) (mean rstd : Num) : Num :=
  let y := (if kind = 1 then x else x.sub mean).mul rstd
  match g, b with
  | none, _ => y
  | some g, none => y.mul g
  | some g, some b => openPick 23 [(y.mul g).add b, y.fma g b] nz

/-- NORM. -/
def Dev.opNorm (d : Dev) (p : Pkt) (e : Env) : OpR :=
  let tx := p.td 0 0
  let t := p.td 0 1
  let v := p.normVecs
  let aff := bit (p.word 1) 1
  let x := d.readMat p e tx true
  let g : MatR := if aff then x.d.readVec p e (p.f 2 47 0) 8 tx.cols else { d := x.d }
  let b : MatR := if aff && p.f 3 47 0 != 0 then g.d.readVec p e (p.f 3 47 0) 8 tx.cols else { d := g.d }
  let st := thenSt x.st (thenSt g.st b.st)
  let dst := t.ranges true true ++ v.2
  if isExc st then b.d.srcFail p e st dst
  else
    let kind := b2n (bit (p.word 1) 0)
    let xs := x.f32s tx
    let stats := ((List.range xs.length).zip xs).map (fun r =>
      normStats kind (f32 (p.f 1 63 32)) p.det (fun i => e.plans.getD (3 * r.1 + i) {}) r.2)
    let gs := g.vec 8
    let bs := b.vec 8
    let beta := aff && p.f 3 47 0 != 0
    let rows := (xs.zip stats).map (fun r => ((List.range r.1.length).zip r.1).map (fun c =>
      normEl kind c.2 (if aff then some (gs.getD c.1 n1) else none) (if beta then some (bs.getD c.1 nz) else none) r.2.1 r.2.2))
    let w := b.d.writeMat p e t rows
    let w2 : WrR := if v.2.isEmpty then { d := w.d }
      else w.d.writeP p e (p.f 4 47 0) (stats.flatMap (fun s => leBytes 4 (bits32 s.1) ++ leBytes 4 (bits32 s.2)))
    let els := tx.rows * tx.cols
    let d := (w2.d.count (some p.owner) 1 8 els).endOps p.owner (evenJobs p.on 4 els 128)
    { d := d, st := thenSt st (thenSt w.st w2.st), res := tx.rows % 2 ^ 32, wrote := p.dpaOf dst }

/-- The parameters of an OPTIM_STEP (12 Table 12-5). -/
structure OptPar where
  /-- LR. -/
  lr : Num
  /-- WD. -/
  wd : Num
  /-- BETA1, the momentum of SGD. -/
  b1 : Num
  /-- BETA2. -/
  b2 : Num
  /-- EPS. -/
  eps : Num
  /-- STEP. -/
  t : Nat

/-- The parameters a packet names. -/
def Pkt.optPar (p : Pkt) : OptPar :=
  { lr := f32 (p.f 2 31 0), wd := f32 (p.f 2 63 32), b1 := f32 (p.f 3 31 0), b2 := f32 (p.f 3 63 32), eps := f32 (p.f 4 31 0), t := p.f 4 63 32 }

/-- 1 - b^t for bias correction; how the power is rounded is open beyond the first step (log 8). -/
def biasCorr (b : Num) (t : Nat) : Num := if t = 1 then n1.sub b else openF32 24 [bits32 b, t]

/-- a * b + c with an RNE at each step. -/
def Num.mulAdd (a b c : Num) : Num := (a.mul b).add c

/-- SGD with momentum: the new weight and moment. Weight decay adds to the gradient. -/
def sgdEl (o : OptPar) (w g m : Num) : Num × Num :=
  let step := fun (f : Num → Num → Num → Num) =>
    let m2 := f o.b1 m (f o.wd w g)
    (f o.lr.neg m2 w, m2)
  openPick 25 [step Num.mulAdd, step Num.fma] (w, m)

/-- AdamW with bias correction and decoupled weight decay: the new weight and moments. The decay is taken with the step, or from the
weight before it. -/
def adamEl (o : OptPar) (w g m v : Num) : Num × Num × Num :=
  let step := fun (f : Num → Num → Num → Num) (first : Bool) =>
    let m2 := f o.b1 m ((n1.sub o.b1).mul g)
    let v2 := f o.b2 v ((n1.sub o.b2).mul (g.mul g))
    let u := (m2.div (biasCorr o.b1 o.t)).div ((v2.div (biasCorr o.b2 o.t)).sqrt.add o.eps)
    (if first then f o.lr.neg u (f (o.lr.mul o.wd).neg w w) else f o.lr.neg (f o.wd w u) w, m2, v2)
  openPick 26 [step Num.mulAdd false, step Num.mulAdd true, step Num.fma false, step Num.fma true] (w, m, v)

/-- OPTIM_STEP: W, M and V, and a copy of W rounded by RNE (05 R127). -/
def Dev.opOptim (d : Dev) (p : Pkt) (e : Env) : OpR :=
  let n := p.f 1 39 0
  let adam := bit (p.word 1) 40
  let cp := p.f 1 42 41
  let gf := p.f 1 47 44
  let a := fun i => bf (p.blk 0 i) 47 0
  let dst := p.fixedRanges.filter (fun r => r.write)
  let w := d.readVec p e (a 0) 8 n
  let g := w.d.readVec p e (a 1) gf n
  let m := g.d.readVec p e (a 2) 8 n
  let v : MatR := if adam then m.d.readVec p e (a 3) 8 n else { d := m.d }
  let st := thenSt w.st (thenSt g.st (thenSt m.st v.st))
  if isExc st then v.d.srcFail p e st dst
  else
    let vs := v.vec 8
    let out := ((List.range n).zip ((w.vec 8).zip ((g.vec gf).zip (m.vec 8)))).map (fun r =>
      if adam then adamEl p.optPar r.2.1 r.2.2.1 r.2.2.2 (vs.getD r.1 nz)
      else let x := sgdEl p.optPar r.2.1 r.2.2.1 r.2.2.2; (x.1, x.2, nz))
    let put := fun (x : WrR) (dva fmt : Nat) (l : List Num) =>
      let y := x.d.writeP p e dva (codeBytes fmt (l.map (encodeEl fmt p.outSat)))
      ({ d := y.d, st := thenSt x.st y.st, fail := if isExc y.st && !isExc x.st then y.fail else x.fail } : WrR)
    let w2 := out.map (·.1)
    let r := put { d := v.d } (a 0) 8 w2
    let r := put r (a 2) 8 (out.map (·.2.1))
    let r := if adam then put r (a 3) 8 (out.map (·.2.2)) else r
    let r := if cp = 0 then r else put r (a 4) (if cp = 1 then 6 else 7) w2
    let d := (r.d.count (some p.owner) 1 8 n).endOps p.owner (evenJobs p.on 4 n 64)
    { d := d, st := thenSt st r.st, res := n, wrote := p.dpaOf dst }

/-! The commands. -/

/-- A packet of some opcodes run on its cores, unless HALT holds them. -/
def Dev.onCores (d : Dev) (ops : List Nat) (q : QRef) (tag : BitVec 16) (f : Dev → Pkt → OpR) : Dev :=
  d.onPkt ops q tag (fun d p => if d.unitsHeld p then d else Dev.conclude p (f d p))

/-- GEMM (12 R270). -/
def execGemm (q : QRef) (tag : BitVec 16) (e : Env) (s : State) : Host.Outcome State Fault Refusal :=
  onRun s e (fun d => (d.meet e (some (qOwner q))).onCores [0x10] q tag (fun d p => d.opGemm p e))
/-- GEMM_T (05 R124). -/
def execGemmT (q : QRef) (tag : BitVec 16) (e : Env) (s : State) : Host.Outcome State Fault Refusal :=
  onRun s e (fun d => (d.meet e (some (qOwner q))).onCores [0x11] q tag (fun d p => d.opGemm p e))
/-- CONV_AS_GEMM (12 R270). -/
def execConvAsGemm (q : QRef) (tag : BitVec 16) (e : Env) (s : State) : Host.Outcome State Fault Refusal :=
  onRun s e (fun d => (d.meet e (some (qOwner q))).onCores [0x12] q tag (fun d p => d.opGemm p e))
/-- VXU_OP (05 R125). -/
def execVxuOp (q : QRef) (tag : BitVec 16) (e : Env) (s : State) : Host.Outcome State Fault Refusal :=
  onRun s e (fun d => (d.meet e (some (qOwner q))).onCores [0x13] q tag (fun d p => d.opVxu p e))
/-- NORM (05 R125). -/
def execNorm (q : QRef) (tag : BitVec 16) (e : Env) (s : State) : Host.Outcome State Fault Refusal :=
  onRun s e (fun d => (d.meet e (some (qOwner q))).onCores [0x14] q tag (fun d p => d.opNorm p e))
/-- OPTIM_STEP (05 R127). -/
def execOptimStep (q : QRef) (tag : BitVec 16) (e : Env) (s : State) : Host.Outcome State Fault Refusal :=
  onRun s e (fun d => (d.meet e (some (qOwner q))).onCores [0x15] q tag (fun d p => d.opOptim p e))
/-- ESCAPEMENT_PAUSE_END (17 R373): the pause of a unit ends; while HALT holds, no operation starts. -/
def execEscapementPauseEnd (site : Fin 6) (core : Fin 64) (u : Fin 6) (s : State) : Host.Outcome State Fault Refusal :=
  onRun s {} (fun d => if d.halt site.val then d else { d with units := tdel d.units (6 * coreKey site.val core.val + u.val) })

end Sys2Proof.Machine
end

