-- ==== Sys2Proof/Machine/Attention.lean ====
section
/-!
DEFINITION. Machine/Attention.lean: attention over KV pages and draft verification (spec/15_attention_verify.md R318-R341,
spec/12_command_reference.md R263, R272, R273, Tables 12-6, 12-7): rotary positions, the page walk, the running softmax, trees of
candidates, the stream of a VERIFY, acceptance and commit.
-/
namespace Sys2Proof.Machine

/-! Rotary positions (15 R322). -/

/-- The Taylor sum of sin (from t = r, i = 2) or cos (from t = 1, i = 1) at scale 2^-p, r2 the square of the argument. -/
def trigTaylor (p : Nat) (r2 : Int) : Nat → Int → Int → Nat → Int
  | 0, acc, _, _ => acc
  | k + 1, acc, t, i =>
    let t := -(t * r2) / (2 ^ p * Int.ofNat (i * (i + 1)))
    if t = 0 then acc else trigTaylor p r2 k (acc + t) t (i + 2)

/-- Bounds of sin x, or of cos x = sin (x + pi/2), for x = (-1)^s m 2^e, at scale 2^-p. -/
def trigB (cosine : Bool) (s : Bool) (m : Nat) (e : Int) (p : Nat) : Bound :=
  let b := (e + Int.ofNat (bitLen m)).toNat
  let w := p + b + 16
  let t := scaled w s m e
  let pi := piAt w
  let k := (4 * t + pi) / (2 * pi)
  let r := (2 * t - k * pi) / 2 / 2 ^ (b + 16)
  let q := ((k + (if cosine then 1 else 0)) % 4).toNat
  let one : Int := 2 ^ p
  let r2 := r * r / one
  let v := if q % 2 = 0 then trigTaylor p r2 p r r 2 else trigTaylor p r2 p one one 1
  let v := if 2 ≤ q then -v else v
  let err := Int.ofNat (8 * p + 64)
  { lo := v - err, hi := v + err, e := -Int.ofNat p }

/-- sin in FP32. -/
def Num.sin : Num → Num
  | .nan => .nan
  | .inf _ => .nan
  | .fin s m e => if m = 0 then .fin s 0 0 else resolve 8 (argOf (.fin s m e)) s (trigB false s m e) precs

/-- cos in FP32. -/
def Num.cos : Num → Num
  | .nan => .nan
  | .inf _ => .nan
  | .fin s m e => if m = 0 then n1 else resolve 9 (argOf (.fin s m e)) false (trigB true s m e) precs

/-- Bounds of n * (m 2^e)^(-x/h), n with its sign. -/
def powB (n : Int) (m : Nat) (e : Int) (x h : Nat) (p : Nat) : Bound :=
  let l := logB p m e
  let b := expB p (-(l.hi * Int.ofNat x) / Int.ofNat h) (-(l.lo * Int.ofNat x) / Int.ofNat h + 1)
  let u := n * b.lo
  let v := n * b.hi
  { lo := min u v, hi := max u v, e := b.e }

/-- theta_i at a position: p * BASE^(-2i/HD), rounded once. A BASE whose power the reals do not give leaves it open (log 8). -/
def ropeAngle (base : Num) (pos : Int) (i hd : Nat) : Num :=
  let arg := [bits32 base, b2n (decide (pos < 0)), pos.natAbs, i, hd]
  match base with
  | .nan => .nan
  | .inf _ => openF32 10 arg
  | .fin s m e =>
    if i = 0 then rnd32 (Num.ofInt pos)
    else if s || m = 0 then openF32 10 arg
    else if pos = 0 then nz
    else resolve 10 arg (decide (pos < 0)) (powB pos m e (2 * i) hd) precs

/-- cos and sin of every theta of a position. -/
def ropeTurns (base : Num) (pos : Int) (hd : Nat) : List (Num × Num) :=
  (List.range (hd / 2)).map (fun i => let t := ropeAngle base pos i hd; (t.cos, t.sin))

/-- A vector turned: each element from exact products, rounded once. -/
def ropeTurn (turns : List (Num × Num)) (x : List Num) : List Num :=
  let a := (x.take turns.length).zip (x.drop turns.length)
  let l := a.zip turns
  l.map (fun y => rnd32 ((y.1.1.mulX y.2.1).addX (y.1.2.mulX y.2.2).neg))
    ++ l.map (fun y => rnd32 ((y.1.1.mulX y.2.2).addX (y.1.2.mulX y.2.1)))

/-- A vector at a position; ROPE_BASE zero leaves it as it is; DEDUCED in part: log 70. -/
def rope (base : Nat) (pos : Int) (x : List Num) : List Num :=
  if (f32 base).isZero then x else ropeTurn (ropeTurns (f32 base) pos x.length) x

/-! The running softmax (15 R323, R324). -/

/-- A triple (m, l, o). -/
structure Soft where
  /-- Largest score. -/
  m : Num := .inf true
  /-- Sum of the weights. -/
  l : Num := nz
  /-- Weighted sum of the values. -/
  o : List Num
deriving DecidableEq, Repr, Inhabited

/-- One key folded in; one RNE per step; DEDUCED in part: log 78. -/
def Soft.step (a : Soft) (s : Num) (v : List Num) : Soft :=
  let m2 := a.m.max s
  let x := if a.m == .inf true then nz else (a.m.sub m2).exp
  let e := (s.sub m2).exp
  { m := m2, l := rnd32 ((a.l.mulX x).addX e), o := (a.o.zip v).map (fun y => rnd32 ((y.1.mulX x).addX (e.mulX y.2))) }

/-- Two triples merged. One with m = -inf is the identity; of two such, a NaN stays. -/
def Soft.merge (a b : Soft) : Soft :=
  if a.m == .inf true && b.m == .inf true then { m := .inf true, l := a.l.add b.l, o := (a.o.zip b.o).map (fun y => y.1.add y.2) }
  else if a.m == .inf true then b
  else if b.m == .inf true then a
  else
    let m := a.m.max b.m
    let x := (a.m.sub m).exp
    let y := (b.m.sub m).exp
    { m := m, l := rnd32 ((a.l.mulX x).addX (b.l.mulX y)), o := (a.o.zip b.o).map (fun z => rnd32 ((z.1.mulX x).addX (z.2.mulX y))) }

/-- A key row and its value row. -/
abbrev KV := List Num × List Num

/-- A row of one head over its key sequence; a masked key is none (15 R323). -/
def attRow (det : Bool) (pl : Plan) (scale : Num) (q : List Num) (keys : List (Option KV)) : Soft :=
  let z : Soft := { o := q.map (fun _ => nz) }
  reduceBy det pl 256 Soft.merge z (fun c => c.foldl (fun a x => match x with
    | some kv => a.step (scale.mul (accFloat (q.zip kv.1))) kv.2
    | none => a) z) keys

/-- The output row and the LSE. Where l is not above 0 and no NaN is met, the spec states no result (log 8). -/
def Soft.out (a : Soft) : List Num × Num :=
  if nz.lt a.l || a.m.isNan || a.l.isNan || a.o.any Num.isNan then (a.o.map (fun x => x.div a.l), a.m.add a.l.log)
  else
    let arg := bits32 a.m :: bits32 a.l :: a.o.map bits32
    (((List.range a.o.length).map (fun i => openF32 30 (i :: arg))), openF32 31 arg)

/-! Masks (15 R325). -/

/-- Committed key t is visible to a row at position p (Table 15-1). -/
def maskSees (mask window : Nat) (p : Int) (t : Nat) : Bool :=
  match mask with
  | 0 => decide (Int.ofNat t ≤ p)
  | 1 => decide (p - Int.ofNat window < Int.ofNat t) && decide (Int.ofNat t ≤ p)
  | 2 => decide (t < window) || decide (Int.ofNat t ≤ p)
  | _ => true

/-! Trees (15 R331). -/

/-- The records of a tree. -/
def treeOf (b : List Byte) : List TreeRec :=
  (chunks 16 b).map (fun r => { token := fieldAt r 0 4, parent := fieldAt r 4 1, pDraft := BitVec.ofNat 32 (fieldAt r 8 4) })

/-- Depth of every record, in order. -/
def depths (t : List TreeRec) : List Nat :=
  t.foldl (fun l r => l ++ [if r.parent = 255 then 0 else l.getD r.parent 0 + 1]) []

/-- The records keep the shape of a tree and no depth passes the bound. -/
def treeShape (t : List TreeRec) (depth : Nat) : Bool :=
  (List.range t.length).all (fun i => let r := (t.getD i {}).parent; if i = 0 then r == 255 else r < i) && (depths t).all (fun x => x ≤ depth)

/-- Every P_DRAFT but the anchor's lies in (0, 1]. -/
def draftsOk (t : List TreeRec) : Bool :=
  (t.drop 1).all (fun r => let x := f32 r.pDraft.toNat; nz.lt x && !n1.lt x)

/-- Record j and its ancestors. -/
def ancestors (t : List TreeRec) : Nat → Nat → List Nat
  | 0, j => [j]
  | n + 1, j => let r := (t.getD j {}).parent; if r = 255 then [j] else j :: ancestors t n r

/-! Pages (15 R320-R322). -/

/-- A page in use: its pool, its descriptor's DPA, and the descriptor. -/
structure PageUse where
  /-- Pool. -/
  k : Nat
  /-- Descriptor DPA. -/
  a : Nat
  /-- Descriptor. -/
  x : PDesc
deriving DecidableEq, Repr, Inhabited

/-- Something read: the module, the value, a status, and the DPA that R263 refuses. -/
structure Got (α : Type) where
  /-- The module. -/
  d : Dev
  /-- The value, unless the status is an exception. -/
  v : α
  /-- STATUS. -/
  st : BitVec 16 := 0
  /-- Offending DPA. -/
  bad : Nat := 0

/-- The page whose descriptor an entry of PAGES names; DEDUCED in part: log 69. -/
def Dev.pageAt (d : Dev) (p : Pkt) (e : Env) (entry : Nat) : Got (List PageUse) :=
  if !d.dpaOk p.owner entry 8 then { d := d, v := [], st := sPerm, bad := entry % 2 ^ 56 }
  else
    let r := d.readA p (p.acc e) entry 8
    let raw := leNat r.bytes % 2 ^ 56
    if isExc r.st then { d := r.d, v := [], st := r.st }
    else if !r.d.dpaOk p.owner raw 32 then { d := r.d, v := [], st := sPerm, bad := raw }
    else
      let a := r.d.canon raw
      match r.d.poolAt a with
      | none => { d := r.d, v := [], st := sBadParam }
      | some k =>
        let y := r.d.readA p (p.acc e) a 32
        let x := PDesc.ofBytes y.bytes
        let st := thenSt r.st y.st
        if isExc st then { d := y.d, v := [], st := st }
        else if !y.d.poolOk k || x.ref = 0 || x.log2 = 0 then { d := y.d, v := [], st := sBadParam }
        else if !y.d.dpaOk p.owner x.base ((y.d.pool k).pageBytes x.log2) then { d := y.d, v := [], st := sPerm, bad := x.base }
        else { d := y.d, v := [{ k := k, a := a, x := x }], st := st }

/-- What all pages of a packet share: FMT, SCALE, G and HD. -/
def PageUse.sort (d : Dev) (g : PageUse) : Nat × Bool × Nat × Nat :=
  let po := d.pool g.k
  (g.x.fmt, g.x.scale, po.heads.toNat, po.headDim)

/-- Head groups: KVH / G. -/
def Dev.groups (d : Dev) (kvh : Nat) (g : PageUse) : Nat := kvh / (d.pool g.k).heads.toNat

/-- The pages of one slot, one per head group; ng is 0 while G is not known. -/
def Dev.slotPages (d : Dev) (p : Pkt) (e : Env) (pages i ng : Nat) : Got (List PageUse) :=
  let kvh := p.f 5 15 8
  let r := d.pageAt p e (pages + 8 * (i * ng))
  match r.v with
  | [] => r
  | g :: _ =>
    let gs := (r.d.pool g.k).heads.toNat
    if gs = 0 || kvh % gs != 0 || (r.d.pool g.k).headDim != p.f 5 31 16 || (ng != 0 && kvh / gs != ng) then { r with v := [], st := sBadParam }
    else
      let ng := kvh / gs
      ((List.range ng).drop 1).foldl (fun (x : Got (List PageUse)) j =>
        if isExc x.st then x
        else
          let y := x.d.pageAt p e (pages + 8 * (i * ng + j))
          if isExc y.st then { y with v := [] }
          else if y.v.all (fun h => h.x.log2 == g.x.log2 && h.x.len == g.x.len && h.sort y.d == g.sort y.d) then
            { d := y.d, v := x.v ++ y.v, st := thenSt x.st y.st }
          else { d := y.d, v := [], st := sBadParam }) r

/-- Slots walked from slot i until their LEN reach n more keys (15 R320); the fuel passes every address. -/
def walkSlots (p : Pkt) (e : Env) (pages : Nat) : Nat → Nat → Nat → Got (List (List PageUse)) → Got (List (List PageUse))
  | 0, _, n, x => if n = 0 then x else { x with st := sBadParam }
  | f + 1, i, n, x =>
    if n = 0 then x
    else
      let first := (x.v.headD []).head?
      let y := x.d.slotPages p e pages i (match first with | some g => x.d.groups (p.f 5 15 8) g | none => 0)
      if isExc y.st then { d := y.d, v := x.v, st := y.st, bad := y.bad }
      else
        let g := y.v.headD default
        if first.any (fun h => h.sort y.d != g.sort y.d) then { d := y.d, v := x.v, st := sBadParam }
        else walkSlots p e pages f (i + 1) (n - g.x.len) { d := y.d, v := x.v ++ [y.v], st := thenSt x.st y.st }

/-- Slots a walk may look at: as many as there are entries in the whole address space. A walk of empty pages ends where an entry or
a descriptor may not be read. -/
def walkFuel : Nat := 2 ^ 53

/-- An element of a page with its scale (15 R322). -/
def dequant (fmt : Nat) (scale : Num) (c : Nat) : Num :=
  match fmt with
  | 0 => decodeEl 7 c
  | 1 => decodeEl 6 c
  | _ => if scale.special then .nan else rnd32 ((decodeEl ([0, 0, 0, 2, 5, 3].getD fmt 0) c).mulX scale)

/-- Rows r0 to r0 + n - 1 of a plane of a page: plane hv, K of head hv / 2 or its V. A SHARED page is read through the RLC (08 R184). -/
def Dev.planeRows (d : Dev) (p : Pkt) (e : Env) (g : PageUse) (hv r0 n : Nat) : Got (List (List Num)) :=
  let po := d.pool g.k
  let t := 2 ^ g.x.log2
  let f := po.fmt.toNat
  let o := g.x.base + 4 * t + hv * t * (po.eBytes + po.sBytes)
  let acc := { p.acc e with imm := g.x.shared }
  let r := d.readA p acc (o + r0 * po.eBytes) (n * po.eBytes)
  let s : RdR := if f < 2 then { d := r.d } else r.d.readA p acc (o + t * po.eBytes + r0 * po.sBytes) (n * po.sBytes)
  let rows := (chunks po.eBytes r.bytes).map (unpackEls (kvBits f))
  let scs := (chunks po.sBytes s.bytes).map (fun b => if po.scale then (chunks 2 b).map (fun c => ieee 5 10 (leNat c)) else b.map (fun c => e8m0 c.toNat))
  { d := s.d, st := thenSt r.st s.st,
    v := ((List.range rows.length).zip rows).map (fun x => ((List.range x.2.length).zip x.2).map (fun y =>
      dequant f ((scs.getD x.1 []).getD (y.1 / 32) n1) y.2)) }

/-- A page read by an ATU whose STAMP is more than 2^20 ticks old is stamped by its KPM (14 R315). -/
def Dev.stampPage (d : Dev) (p : Pkt) (e : Env) (g : PageUse) : Dev :=
  let acc := d.kacc p e
  let t := d.stampOn e (acc.site.getD 5)
  if g.x.stamp + 2 ^ 20 < t then (d.writeBytes acc (g.a + 24) (leBytes 8 t)).d else d

/-- Rows of the pages of a slot, by KV head (15 R321). -/
def Dev.slotRows (d : Dev) (p : Pkt) (e : Env) (l : List PageUse) (r0 n : Nat) (ofTent : Bool) : Got (List (List KV)) :=
  l.foldl (fun (x : Got (List (List KV))) g =>
    let x := if n = 0 then x else { x with d := x.d.stampPage p e g }
    (List.range (x.d.pool g.k).heads.toNat).foldl (fun (x : Got (List (List KV))) h =>
      let r0 := if ofTent then g.x.len else r0
      let a := x.d.planeRows p e g (2 * h) r0 n
      let b := a.d.planeRows p e g (2 * h + 1) r0 n
      { d := b.d, v := x.v ++ [a.v.zip b.v], st := thenSt x.st (thenSt a.st b.st) }) x) { d := d, v := [] }

/-- Lists by head laid end to end. -/
def joinHeads (a b : List (List KV)) : List (List KV) := if a.isEmpty then b else (a.zip b).map (fun x => x.1 ++ x.2)

/-- The first n committed rows of some slots, by KV head. -/
def Dev.keyRows (d : Dev) (p : Pkt) (e : Env) (slots : List (List PageUse)) (n : Nat) : Got (List (List KV)) :=
  (slots.foldl (fun (x : Got (List (List KV)) × Nat) l =>
    let m := min x.2 (l.headD default).x.len
    let y := x.1.d.slotRows p e l 0 m false
    ({ d := y.d, v := joinHeads x.1.v y.v, st := thenSt x.1.st y.st }, x.2 - m)) ({ d := d, v := [] }, n)).1

/-! One sequence (15 R320-R326, R332). -/

/-- The tree an ATTEND with MASK 3 runs under: its records and their depths. -/
structure TreeUse where
  /-- The records. -/
  recs : List TreeRec
  /-- Depth of each. -/
  deps : List Nat

/-- The tentative slot of a sequence under MASK 3: every row of its pages was appended by this VERIFY (15 R332). -/
def Dev.tentSlot (d : Dev) (p : Pkt) (e : Env) (s : SeqEntry) (v : RunVerify) (slots : List (List PageUse)) (ncand : Nat) : Got (List PageUse) :=
  let sum := slots.foldl (fun n l => n + (l.headD default).x.len) 0
  let last := slots.getLast?.getD []
  let lx := (last.headD default).x
  if sum != s.kvLen then { d := d, v := [], st := sBadParam }
  else
    let fresh := last.isEmpty || lx.len == 2 ^ lx.log2
    let y : Got (List PageUse) := if !fresh then { d := d, v := last }
      else d.slotPages p e s.pages slots.length (match last with | g :: _ => d.groups (p.f 5 15 8) g | [] => 0)
    if isExc y.st then y
    else if (fresh && y.v.any (fun g => g.x.len != 0))
        || y.v.any (fun g => g.x.tlen != ncand || !v.pages.contains g.a || v.mixed.contains g.a || (last.head?).any (fun h => h.sort y.d != g.sort y.d)) then
      { d := y.d, v := [], st := sBadParam }
    else y

/-- What a sequence comes to: bytes to write by DVA, empty rows, and keys seen over all rows and heads. -/
structure SeqOut where
  /-- Writes. -/
  wr : List (Nat × List Byte) := []
  /-- Empty rows. -/
  empty : Nat := 0
  /-- Visible keys times heads. -/
  seen : Nat := 0
  /-- What all pages of the packet share, once a page has been read. -/
  sort : Option (Nat × Bool × Nat × Nat) := none

/-- SCALE (15 R323). -/
def attScale (b hd : Nat) : Num := if (f32 b).isZero then (Num.fin false hd 0).rsqrt else f32 b

/-- The rows of a sequence from its keys. base: rows of the packet before this sequence. -/
def seqRows (p : Pkt) (e : Env) (s : SeqEntry) (base : Nat) (tree : Option TreeUse) (qs : List (List Num)) (keys tents : List (List KV)) :
    SeqOut :=
  let qh := p.f 5 7 0
  let kvh := p.f 5 15 8
  let hd := p.f 5 31 16
  let mask := p.f 1 55 52
  let win := p.f 6 31 0
  let rb := p.f 6 63 32
  let of := p.f 2 51 48
  let scale := attScale (p.f 7 31 0) hd
  let dep := fun j => match tree with | some t => t.deps.getD j 0 | none => 0
  let turned := keys.map (fun l => ((List.range l.length).zip l).map (fun x => (rope rb (Int.ofNat x.1) x.2.1, x.2.2)))
  let ttents := tents.map (fun l => ((List.range l.length).zip l).map (fun x => (rope rb (Int.ofNat (s.kvLen + dep x.1)) x.2.1, x.2.2)))
  (List.range s.qLen).foldl (fun (o : SeqOut) j =>
    let pos : Int := if mask == 3 then Int.ofNat (s.kvLen + dep j) else Int.ofNat s.kvLen - Int.ofNat s.qLen + Int.ofNat j
    let sees := (List.range s.kvLen).map (maskSees mask win pos)
    let anc := match tree with | some t => ancestors t.recs t.recs.length j | none => []
    let tn : Nat := match tree with | some t => t.recs.length | none => 0
    let tsees := (List.range tn).map (fun i => anc.contains i)
    let n : Nat := ((sees ++ tsees).filter id).length
    let rows := (List.range qh).map (fun h =>
      let k := h * kvh / qh
      let q := rope rb pos (((qs.getD j []).drop (h * hd)).take hd)
      let all := (turned.getD k []).zip sees ++ (ttents.getD k []).zip tsees
      if n = 0 then (List.replicate hd nz, (Num.inf true))
      else (attRow p.det (e.plans.getD ((base + j) * qh + h) {}) scale q (all.map (fun x => if x.2 then some x.1 else none))).out)
    let r := s.qRow + j
    let ob := codeBytes of (rows.flatMap (fun x => x.1.map (encodeEl of p.outSat)))
    { o with
      wr := o.wr ++ [(p.f 2 47 0 + r * qh * hd * (fmtBits of / 8), ob)]
        ++ (if p.f 3 47 0 = 0 then [] else [(p.f 3 47 0 + 4 * r * qh, rows.flatMap (fun x => leBytes 4 (bits32 x.2)))]),
      empty := o.empty + (if n = 0 then 1 else 0), seen := o.seen + n * qh }) {}

/-- One sequence of a packet. -/
def Dev.opSeq (d : Dev) (p : Pkt) (e : Env) (inside : Option RunVerify) (tree : Option TreeUse) (sort : Option (Nat × Bool × Nat × Nat))
    (base : Nat) (s : SeqEntry) : Got SeqOut :=
  let w := walkSlots p e s.pages walkFuel 0 s.kvLen { d := d, v := [] }
  let t : Got (List PageUse) := match inside, tree with
    | some v, some t => if isExc w.st then { d := w.d, v := [], st := w.st, bad := w.bad } else w.d.tentSlot p e s v w.v t.recs.length
    | _, _ => { d := w.d, v := [], st := w.st, bad := w.bad }
  let sorts := (w.v.flatMap id ++ t.v).map (fun g => g.sort t.d)
  let sort2 := match sort with | some x => some x | none => sorts.head?
  if isExc t.st then { d := t.d, v := {}, st := t.st, bad := t.bad }
  else if sorts.any (fun x => some x != sort2) then { d := t.d, v := {}, st := sBadParam }
  else
    let k := t.d.keyRows p e w.v s.kvLen
    let u : Got (List (List KV)) := match tree with
      | some x => k.d.slotRows p e t.v 0 x.recs.length true
      | none => { d := k.d, v := [] }
    let qf := p.f 1 51 48
    let rb := p.f 5 7 0 * p.f 5 31 16 * (fmtBits qf / 8)
    let q := u.d.readP p e (p.f 1 47 0 + s.qRow * rb) (s.qLen * rb)
    let st := thenSt w.st (thenSt t.st (thenSt k.st (thenSt u.st q.st)))
    if isExc st then { d := q.d, v := {}, st := st }
    else { d := q.d, st := st, v := { seqRows p e s base tree ((chunks rb q.bytes).map (fun b => (codesOf qf b).map (decodeEl qf))) k.v u.v with sort := sort2 } }

/-! ATTEND and ATTEND_BUCKETS. -/

/-- The ranges of the rows a packet writes. -/
def Pkt.attendDst (p : Pkt) : List Range :=
  let qh := p.f 5 7 0
  let ob := qh * p.f 5 31 16 * (fmtBits (p.f 2 51 48) / 8)
  (p.seqs.filter (fun s => s.qLen != 0)).flatMap (fun s =>
    [{ dva := p.f 2 47 0 + s.qRow * ob, n := s.qLen * ob, write := true }]
      ++ (if p.f 3 47 0 = 0 then [] else [{ dva := p.f 3 47 0 + 4 * s.qRow * qh, n := 4 * s.qLen * qh, write := true }]))

/-- Rows written one after another. -/
def Dev.writeRuns (d : Dev) (p : Pkt) (e : Env) (l : List (Nat × List Byte)) : WrR :=
  l.foldl (fun (x : WrR) r =>
    let y := x.d.writeP p e r.1 r.2
    { d := y.d, st := thenSt x.st y.st, fail := if isExc y.st && !isExc x.st then y.fail else x.fail }) { d := d }

/-- Empty rows counted (15 R326). -/
def Dev.countEmpty (d : Dev) (o n : Nat) : Dev := if o < 8 then let x := d.part o; d.setPart o { x with empty := satAdd x.empty n } else d

/-- The ATUs' operations end: the spec gives neither their number nor their handshakes (log 8). -/
def Dev.endAtu (d : Dev) (p : Pkt) : Dev :=
  let n := d.free
  (d.draw.endOps p.owner (p.on.map (fun k =>
    (6 * k + 5, Config.openResult 28 [n, k], [Config.openResult 27 [n, k] % 16449]))))

/-- Some of the rows computed before a failure have been written: which ones is open (12, the decided case on SEQ_TABLE). -/
def Dev.mixRuns (d : Dev) (p : Pkt) (e : Env) (l : List (Nat × List Byte)) : Dev :=
  l.foldl (fun d r => if bit (Config.freeValue d.free).toNat 0 then (d.draw.writeP p e r.1 r.2).d else d.draw) d

/-- The tree of an ATTEND with MASK 3, read and checked (15 R332). depth: DEPTH of the VERIFY. -/
def Dev.attendTree (d : Dev) (p : Pkt) (e : Env) (inside : Option RunVerify) (depth : Nat) : Got (Option TreeUse) :=
  match inside with
  | none => { d := d, v := none }
  | some v =>
    if p.f 1 55 52 != 3 then { d := d, v := none }
    else
      let r := d.readP p e (bf (p.blk 0 0) 47 0) (16 * v.tree.length)
      let t := treeOf r.bytes
      if isExc r.st then { d := r.d, v := none, st := r.st }
      else if !treeShape t depth then { d := r.d, v := none, st := sBadParam }
      else { d := r.d, v := some { recs := t, deps := depths t }, st := r.st }

/-- ATTEND and ATTEND_BUCKETS: padding changes no result (15 R328-R330). inside: the VERIFY whose stream holds the packet; DEDUCED in part: log 68. -/
def Dev.opAttend (d : Dev) (p : Pkt) (e : Env) (inside : Option RunVerify) (depth : Nat) : OpR :=
  let t := d.attendTree p e inside depth
  let r := (p.seqs.filter (fun s => s.qLen != 0)).foldl (fun (x : Got SeqOut × Nat) s =>
    if isExc x.1.st then x
    else
      let y := x.1.d.opSeq p e inside t.v x.1.v.sort x.2 s
      if isExc y.st then ({ d := y.d, v := x.1.v, st := y.st, bad := y.bad }, x.2)
      else ({ d := y.d, st := thenSt x.1.st y.st,
              v := { wr := x.1.v.wr ++ y.v.wr, empty := x.1.v.empty + y.v.empty, seen := x.1.v.seen + y.v.seen, sort := y.v.sort } }, x.2 + s.qLen))
    ({ d := t.d, v := {}, st := t.st }, 0)
  let g := r.1
  if isExc g.st then
    let f := if badData g.st then g.d.srcFail p e g.st p.attendDst else { d := g.d.mixRuns p e g.v.wr, st := g.st }
    { f with res := g.bad }
  else
    let w := g.d.writeRuns p e g.v.wr
    let d := ((w.d.countEmpty p.owner g.v.empty).count (some p.owner) 1 9 g.v.seen).endAtu p
    { d := d, st := thenSt g.st w.st, res := r.2 % 2 ^ 32 + 2 ^ 32 * (g.v.empty % 2 ^ 32), wrote := p.dpaOf p.attendDst }

/-- ATTEND (15 R328). -/
def execAttend (q : QRef) (tag : BitVec 16) (e : Env) (s : State) : Host.Outcome State Fault Refusal :=
  onRun s e (fun d => (d.meet e (some (qOwner q))).onCores [0x20] q tag (fun d p => d.opAttend p e none 0))
/-- ATTEND_BUCKETS (15 R329). -/
def execAttendBuckets (q : QRef) (tag : BitVec 16) (e : Env) (s : State) : Host.Outcome State Fault Refusal :=
  onRun s e (fun d => (d.meet e (some (qOwner q))).onCores [0x21] q tag (fun d p => d.opAttend p e none 0))

/-! VERIFY: the tree (15 R331). -/

/-- A VERIFY in progress. -/
def Dev.verify? (d : Dev) (p : Pkt) : Option RunVerify := d.disp.verifies.find? (fun v => v.q == p.q && v.tag == p.tag)

/-- A VERIFY in progress changed. -/
def Dev.modVerify (d : Dev) (p : Pkt) (f : RunVerify → RunVerify) : Dev :=
  { d with disp := { d.disp with verifies := d.disp.verifies.map (fun v => if v.q == p.q && v.tag == p.tag then f v else v) } }

/-- VERIFY ends before its stream runs; its RESULT is open (log 8). -/
def Dev.rejectTree (d : Dev) (p : Pkt) (st : BitVec 16) : Dev := d.draw.finish p.ord st (Config.freeValue d.free).toNat

/-- VERIFY: its tree is read and checked, and its stream may run. -/
def Dev.opVerify (d : Dev) (p : Pkt) (e : Env) : Dev :=
  if (d.verify? p).isSome then d
  else
    let r := d.readP p e (p.f 2 47 0) (16 * p.f 6 6 0)
    let t := treeOf r.bytes
    if isExc r.st then r.d.rejectTree p r.st
    else if !treeShape t (p.f 6 12 8) || (p.f 6 17 16 != 0 && !draftsOk t) then r.d.rejectTree p sBadParam
    else
      let v : RunVerify := { q := p.q, tag := p.tag, tree := t, vocab := fieldAt p.hdr 0 4, fmt := fieldAt p.hdr 4 1,
                             stride := fieldAt p.hdr 8 4, temp := BitVec.ofNat 32 (fieldAt p.hdr 12 4), corr := r.st == sCorrected }
      { r.d with disp := { r.d.disp with verifies := r.d.disp.verifies ++ [v] } }

/-! VERIFY: the stream (12 R273). -/

/-- Opcodes a stream may hold. -/
def streamOps : List Nat := [0x10, 0x11, 0x12, 0x13, 0x14, 0x15, 0x20, 0x21, 0x31, 0x01]

/-- Checks of the header of a stream packet (11 R247, 12 R273); DEDUCED in part: log 71. -/
def streamStatus (h : Header) : BitVec 16 :=
  match opLen h.opc with
  | none => sBadOpcode
  | some n => if !streamOps.contains h.opc || h.fmt != 1 || 16 ≤ h.flg || h.tag = 0 || h.len != n then sBadParam else sOk

/-- Bytes of the stream read through the translations captured at queue time (12 R264). -/
def Dev.readStream (d : Dev) (p : Pkt) (e : Env) (o n : Nat) : Got (List Byte) :=
  let r := d.readP p e (p.f 1 47 0 + o) n
  { d := r.d, v := r.bytes, st := r.st }

/-- The operation of a stream packet. -/
def Dev.opStream (d : Dev) (sp : Pkt) (e : Env) (v : RunVerify) (depth : Nat) : OpR :=
  match sp.opc.toNat with
  | 0x13 => d.opVxu sp e
  | 0x14 => d.opNorm sp e
  | 0x15 => d.opOptim sp e
  | 0x20 => d.opAttend sp e (some v) depth
  | 0x21 => d.opAttend sp e (some v) depth
  | 0x31 => d.opAppend sp e (some (v.q, v.tag))
  | 0x01 => { d := d.breakAll }
  | _ => d.opGemm sp e

/-- The units of a stream packet are free and nothing else holds it back: the VERIFY's own uses are no obstacle. -/
def Dev.streamFree (d : Dev) (p sp : Pkt) : Bool :=
  let others := { d with disp := { d.disp with pkts := d.disp.pkts.filter (fun x => x.ord != p.ord) } }
  let cores := d.pktCores sp
  !d.haltedFor sp && (match unitClass sp.opc.toNat with | some c => cores.all (fun k => others.unitFree k c) | none => true)
    && cores.all (fun k => others.scoreOk k sp)

/-- A stream packet has run and its writes are performed: its failure ends the VERIFY, its success moves the stream on. -/
def endStream (p sp : Pkt) (e : Env) (len : Nat) (st : BitVec 16) (r : OpR) : Dev :=
  let d := (r.d.drainPkt e sp).awaitHeld e (fun h => h.ord == some p.ord)
  let fell := ((d.pkt? p.q p.tag).map (fun x => x.status)).getD 0
  let st := thenSt st (thenSt r.st fell)
  if isExc st then d.cancelVerify e st p
  else
    let d := d.modPkt p.ord (fun x => { x with wrote := x.wrote ++ r.wrote })
    d.modVerify p (fun v => { v with idx := v.idx + 1, off := v.off + 64 * (1 + len), corr := v.corr || st == sCorrected,
                                     ended := decide (p.f 1 63 48 ≤ v.idx + 1) })

/-- The next packet of a VERIFY's stream: read, checked, translated in the context the VERIFY was taken with, and run. -/
def Dev.stepStream (d : Dev) (p : Pkt) (e : Env) : Dev :=
  match d.verify? p with
  | none => d
  | some v =>
    if v.ended then d
    else
      let h0 := d.readStream p e v.off 64
      if isExc h0.st then h0.d.cancelVerify e h0.st p
      else
        let h := header (fieldAt h0.v 0 8)
        let s := streamStatus h
        if isExc s then h0.d.cancelVerify e s p
        else
          let b : Got (List Byte) := if h.len = 0 then h0 else h0.d.readStream p e v.off (64 * (1 + h.len))
          let sp : Pkt := { q := p.q, tag := p.tag, opc := BitVec.ofNat 8 h.opc, flg := BitVec.ofNat 8 h.flg, qos := p.qos,
                            words := (chunks 8 b.v).map (fun x => BitVec.ofNat 64 (leNat x)), ord := p.ord, ctx := p.ctx, startNo := p.startNo, det := (b.d.part p.owner).det,
                            outSat := (b.d.part p.owner).outSat, phase := .started }
          let ps := b.d.paramStatus sp (some v.tree.length)
          if isExc b.st then b.d.cancelVerify e b.st p
          else if isExc ps then b.d.cancelVerify e ps p
          else
            let c := b.d.capture e sp p.ctx (some v.tree.length)
            match c.2.2 with
            | some f => c.1.cancelVerify e f.1 p
            | none =>
              let cores := c.1.pktCores sp
              let sp := { c.2.1 with on := cores, core := cores.head?, site := c.1.unitSite c.2.1 }
              if sp.coreMask.isSome && (cores.isEmpty || c.1.namesGone sp) then c.1.cancelVerify e sBadParam p
              else if !c.1.streamFree p sp then d
              else endStream p sp e h.len (thenSt h0.st b.st) (c.1.opStream sp e v (p.f 6 12 8))

/-! VERIFY: acceptance (15 R336-R338). -/

/-- u[i] of MODE 2 (15 R337). -/
def deviceU (seed i : Nat) : Num := .fin false (sipHash13 (seed + 2 ^ 64 * (2 ^ 64 - 1 - seed)) (leBytes 4 i) / 2 ^ 40) (-24)

/-- A TARGET row as acceptance uses it: the weights, their sum, and argmax. -/
structure Logits where
  /-- w. -/
  w : List Num := []
  /-- W. -/
  sum : Num := nz
  /-- argmax. -/
  top : Nat := 0

/-- The lowest index among the largest values. -/
def argMax (l : List Num) : Nat :=
  ((((List.range l.length).zip l).foldl (fun (b : Option (Nat × Num)) x => match b with
    | none => some x
    | some y => if y.2.lt x.2 then some x else b) none).map (·.1)).getD 0

/-- w_x, W and argmax of a row of logits. -/
def logitsOf (temp : Nat) (z : List Num) : Logits :=
  let t := if (f32 temp).isZero then n1 else f32 temp
  let s := z.map (fun x => x.div t)
  let m := s.foldl Num.max (.inf true)
  let w := s.map (fun x => (x.sub m).exp)
  { w := w, sum := reduceRow 0x30 true {} w, top := argMax z }

/-- Row i of TARGET read: a NaN in it ends the VERIFY. -/
def Dev.targetRow (d : Dev) (p : Pkt) (e : Env) (v : RunVerify) (i : Nat) : Got Logits :=
  let r := d.readP p e (p.f 3 47 0 + 64 + i * v.stride) (v.vocab * (fmtBits v.fmt / 8))
  let z := (codesOf v.fmt r.bytes).map (decodeEl v.fmt)
  if isExc r.st then { d := r.d, v := {}, st := r.st }
  else if z.any Num.isNan then { d := r.d, v := {}, st := sBadParam }
  else { d := r.d, v := logitsOf v.temp.toNat z, st := r.st }

/-- The children of a record, tested in ascending order: the one taken, W_left, and the tokens excluded. -/
def tryChildren (t : List TreeRec) (mode : Nat) (g : Logits) (u : List Num) : List Nat → Num → List Nat → Option Nat × Num × List Nat
  | [], left, ex => (none, left, ex)
  | c :: r, left, ex =>
    let x := (t.getD c {}).token
    if mode = 0 then (if x = g.top then (some c, left, ex) else tryChildren t mode g u r left ex)
    else
      let out := ex.contains x
      let wx := if out then nz else g.w.getD x nz
      let q := (if out then nz else wx.div left).div (f32 (t.getD c {}).pDraft.toNat)
      let uc := u.getD c nz
      if !q.isNan && !q.lt uc then (some c, left, ex) else tryChildren t mode g u r (left.sub wx) (ex ++ [x])

/-- draw(cur, u). A sum that never reaches its goal leaves NEXT open (log 8). -/
def drawToken (g : Logits) (left : Num) (ex : List Nat) (u : Num) : Nat :=
  if left.isZero then g.top
  else
    let goal := u.mul left
    let r := ((List.range g.w.length).zip g.w).foldl (fun (a : Num × Option Nat) x =>
      if a.2.isSome || ex.contains x.1 then a
      else
        let n := a.1.add x.2
        (n, if !n.isNan && !goal.isNan && !n.lt goal then some x.1 else none)) (nz, none)
    r.2.getD (Config.openResult 29 (bits32 goal :: ex ++ g.w.map bits32) % 2 ^ 32)

/-- An accepted path: records taken, and NEXT. -/
structure Accepted where
  /-- Records. -/
  path : List Nat := []
  /-- NEXT. -/
  next : Nat := 0

/-- The walk of acceptance from a record. -/
def acceptFrom (p : Pkt) (e : Env) (v : RunVerify) (mode : Nat) (u : List Num) : Nat → Nat → Dev → List Nat → BitVec 16 → Got Accepted
  | 0, _, d, path, st => { d := d, v := { path := path }, st := st }
  | f + 1, cur, d, path, st =>
    let g := d.targetRow p e v cur
    if isExc g.st then { d := g.d, v := {}, st := g.st }
    else
      let kids := (List.range v.tree.length).filter (fun c => c != 0 && (v.tree.getD c {}).parent == cur)
      let r := tryChildren v.tree mode g.v u kids g.v.sum []
      match r.1 with
      | some c => acceptFrom p e v mode u f c g.d (path ++ [c]) (thenSt st g.st)
      | none =>
        { d := g.d, st := thenSt st g.st,
          v := { path := path, next := if mode = 0 then g.v.top else drawToken g.v r.2.1 r.2.2 (u.getD 0 nz) } }

/-- Every recorded page holds TLEN = NCAND (15 R340). -/
def Dev.pagesFull (d : Dev) (p : Pkt) (e : Env) (v : RunVerify) : Got Unit :=
  v.pages.foldl (fun (x : Got Unit) a =>
    if isExc x.st then x
    else
      let r := x.d.readDesc (x.d.kacc p e) a
      { d := r.1, v := (), st := if isExc r.2.1 then r.2.1 else if r.2.2.tlen != v.tree.length then sBadParam else thenSt x.st r.2.1 })
    { d := d, v := () }

/-- u of a VERIFY: from U, from the device generator, or none. A u outside [0, 1) ends it. -/
def Dev.verifyU (d : Dev) (p : Pkt) (e : Env) (n : Nat) : Got (List Num) :=
  match p.f 6 17 16 with
  | 1 =>
    let r := d.readP p e (p.f 4 47 0) (4 * n)
    let u := (codesOf 8 r.bytes).map (decodeEl 8)
    { d := r.d, v := u, st := if isExc r.st then r.st else if u.all (fun x => !x.isNan && !x.lt nz && x.lt n1) then r.st else sBadParam }
  | 2 => { d := d, v := (List.range n).map (deviceU (p.word 7)) }
  | _ => { d := d, v := [] }

/-- KV_COMMIT of a list of rows on every recorded page (15 R339): the status, and rows committed. -/
def Dev.commitAll (d : Dev) (p : Pkt) (e : Env) (v : RunVerify) (l : List Nat) : Got Nat :=
  v.pages.foldl (fun (x : Got Nat) a =>
    let r := x.d.readDesc (x.d.kacc p e) a
    match r.1.poolAt a with
    | none => { x with d := r.1, st := thenSt x.st sBadParam }
    | some k =>
      if isExc r.2.1 then { x with d := r.1, st := thenSt x.st r.2.1 }
      else
        let w := r.1.commitRows (r.1.kacc p e) k a r.2.2 l
        { d := w.d, v := if isExc w.st then x.v else x.v + l.length, st := thenSt x.st (thenSt r.2.1 w.st) }) { d := d, v := 0 }

/-- The commit: rows, PATH, RESULT and the counts (15 R339, Table 12-7). -/
def Dev.commitVerify (d : Dev) (p : Pkt) (e : Env) (v : RunVerify) (a : Accepted) (st : BitVec 16) : Dev :=
  let c := d.commitAll p e v (0 :: a.path)
  let toks := a.path.map (fun i => (v.tree.getD i {}).token) ++ [a.next]
  let w := c.d.writeP p e (p.f 5 47 0) (toks.flatMap (leBytes 4))
  let d := { w.d with disp := { w.d.disp with verifies := w.d.disp.verifies.filter (fun x => !(x.q == p.q && x.tag == p.tag)) } }
  let n := a.path.length
  let d := if p.owner < 8 then
      let x := d.part p.owner
      d.setPart p.owner { x with vDone := satAdd x.vDone 1, accepted := satAdd x.accepted n }
    else d
  let st := thenSt (if v.corr then sCorrected else sOk) (thenSt st (thenSt c.st w.st))
  let res := n + 2 ^ 8 * a.path.getLast?.getD 255 + 2 ^ 16 * (a.next % 2 ^ 32) + 2 ^ 48 * min c.v 65535
  let wrote := ((d.pkt? p.q p.tag).map (fun x => x.wrote)).getD [] ++ dpaPieces p.leaves (p.f 5 47 0) (4 * (n + 1)) ++ v.pages.map (fun a => (a, 32))
  if isExc st then d.draw.finish p.ord st (Config.freeValue d.free).toNat else Dev.conclude p { d := d, st := st, res := res, wrote := wrote }

/-- VERIFY_ACCEPTANCE: acceptance and, where nothing fails, the commit; DEDUCED in part: log 72. -/
def Dev.acceptVerify (d : Dev) (p : Pkt) (e : Env) : Dev :=
  match d.verify? p with
  | none => d
  | some v =>
    if !v.ended then d
    else
      let a := d.pagesFull p e v
      if isExc a.st then a.d.cancelVerify e a.st p
      else
        let u := a.d.verifyU p e v.tree.length
        if isExc u.st then u.d.cancelVerify e u.st p
        else if v.tree.any (fun r => v.vocab ≤ r.token) then u.d.cancelVerify e sBadParam p
        else
          let g := acceptFrom p e v (p.f 6 17 16) u.v (v.tree.length + 1) 0 u.d [] (thenSt a.st u.st)
          if isExc g.st then g.d.cancelVerify e g.st p else g.d.commitVerify p e v g.v g.st

/-- VERIFY (15 R331). -/
def execVerify (q : QRef) (tag : BitVec 16) (e : Env) (s : State) : Host.Outcome State Fault Refusal :=
  onRun s e (fun d => (d.meet e (some (qOwner q))).onPkt [0x22] q tag (fun d p => if d.unitsHeld p then d else d.opVerify p e))
/-- VERIFY_STREAM_PACKET (12 R273). -/
def execVerifyStreamPacket (q : QRef) (tag : BitVec 16) (e : Env) (s : State) : Host.Outcome State Fault Refusal :=
  onRun s e (fun d => (d.meet e (some (qOwner q))).onPkt [0x22] q tag (fun d p => d.stepStream p e))
/-- VERIFY_ACCEPTANCE (15 R336). -/
def execVerifyAcceptance (q : QRef) (tag : BitVec 16) (e : Env) (s : State) : Host.Outcome State Fault Refusal :=
  onRun s e (fun d => (d.meet e (some (qOwner q))).onPkt [0x22] q tag (fun d p => if d.unitsHeld p then d else d.acceptVerify p e))

end Sys2Proof.Machine
end

