-- ==== Sys2Proof/Machine/LinksExec.lean ====
section
/-!
DEFINITION. Machine/LinksExec.lean: the packets that use the links: SEND, REMOTE_ATOMIC and ROUTE_SET (spec/16_fidom_links.md R349, R352,
R354, R362, R363; spec/12_command_reference.md Table 12-9).
-/
namespace Sys2Proof.Machine

/-! SEND (16 R363). -/

/-- The segments of a SEND: (DPA, bytes). -/
def Dev.segments (d : Dev) (p : Pkt) : List (Nat × Nat) :=
  (dpaPieces p.leaves (p.f 2 47 0) (p.f 3 31 0)).flatMap (fun r => cut4k (r.2 / 4096 + 2) (d.canon r.1) r.2)

/-- A target on another node that a message may name, or the status that refuses it. -/
def Dev.remoteStatus (d : Dev) (a : Nat) : BitVec 16 :=
  if isLocal a then sBadParam else if 3 < dpaSpace a then sPerm else if d.sys.node.toNat == 0xFF then sUnmapped else sOk

/-- SEND: its segments are requested, with the data read now. -/
def Dev.opSend (d : Dev) (p : Pkt) (e : Env) : Dev :=
  let segs := d.segments p
  let note := if p.f 4 47 0 = 0 then 0 else (leafDpa p.leaves (p.f 4 47 0)).elim 0 (fun x => d.canon x.1)
  let st := ((segs.map (·.1)) ++ (if p.f 4 47 0 = 0 then [] else [note])).foldl (fun s a => thenSt s (d.remoteStatus a)) sOk
  if (d.sendJob? p.q p.tag).isSome then d
  else if isExc st then d.close p st 0
  else
    let r := d.readP p e (p.f 1 47 0) (p.f 3 31 0)
    if isExc r.st then r.d.close p r.st 0
    else
      let job : SendJob := { q := p.q, tag := p.tag, left := segs.length, corr := r.st == sCorrected, notify := note }
      let d := { r.d with disp := { r.d.disp with sends := r.d.disp.sends ++ [job] } }
      (segs.foldl (fun (x : Dev × List Byte) g =>
        (x.1.request { op := 4, node := dpaNode g.1, vc := 2, tracked := true, owner := p.owner, q := p.q, tag := p.tag, addr := g.1, len := g.2,
                       use := .segment, data := x.2.take g.2 }, x.2.drop g.2)) (d, r.bytes)).1.sendAll

/-! REMOTE_ATOMIC (16 R354, R362, 10 R226 item 4). -/

/-- REMOTE_ATOMIC: at another node by a tracked ATOMIC; at this one at once. -/
def Dev.opRemoteAtomic (d : Dev) (p : Pkt) (e : Env) : Dev :=
  match leafDpa p.leaves (p.f 1 47 0) with
  | none => d.close p sUnmapped 0
  | some (a, _) =>
    let a := d.canon a
    let op := p.f 4 3 0
    let wide := bit (p.word 4) 4
    if !isLocal a && 3 < dpaSpace a then d.close p sPerm 0
    else if 2 < dpaSpace a then d.close p sBadParam 0
    else if p.waitRid != 0 then d
    else
      let d := d.drainQueue e p.q
      if d.writesPend (fun q o => q == p.q && o < p.ord) then d
      else if isLocal a then
        let r := d.atomicAt (p.acc e) a op wide (p.word 2) (p.word 3)
        if isExc r.2.1 then r.1.close p r.2.1 0
        else (Dev.conclude p { d := r.1, st := r.2.1, res := r.2.2, wrote := [(a, if wide then 8 else 4)] }).wakeWaits e a
      else if d.sys.node.toNat == 0xFF then d.close p sUnmapped 0
      else
        ((d.modPkt p.ord (fun x => { x with waitRid := 1 })).request
          { op := 3, node := dpaNode a, vc := 0, tracked := true, owner := p.owner, q := p.q, tag := p.tag, addr := a, len := if wide then 8 else 4,
            use := .atomic, data := leBytes 8 (p.word 2) ++ leBytes 8 (p.word 3), arg := BitVec.ofNat 8 (op + 8 * b2n wide) }).sendAll

/-! ROUTE_SET (16 R349). -/

/-- A mask of links, all of them exposed. -/
def Dev.maskExposed (d : Dev) (m : Nat) : Bool := (maskBits m 72).all d.linkExposed

/-- ROUTE_SET: one entry of the destination table. -/
def Dev.opRouteSet (d : Dev) (p : Pkt) : Dev :=
  let n := p.f 1 7 0
  let pri := p.word 2 + 2 ^ 64 * p.f 3 7 0
  let alt := p.word 4 + 2 ^ 64 * p.f 5 7 0
  if d.maskExposed pri && d.maskExposed alt then
    ({ d with lnk := { d.lnk with pri := tset d.lnk.pri n (BitVec.ofNat 72 pri), alt := tset d.lnk.alt n (BitVec.ofNat 72 alt) } }).close p sOk 0
  else d.close p sBadParam 0

/-! The commands. -/

/-- SEND (16 R363). -/
def execSend (q : QRef) (tag : BitVec 16) (e : Env) (s : State) : Host.Outcome State Fault Refusal :=
  onRun s e (fun d => (d.meet e (some (qOwner q))).onPkt [0x50] q tag (fun d p => d.opSend p e))
/-- REMOTE_ATOMIC (16 R362). -/
def execRemoteAtomic (q : QRef) (tag : BitVec 16) (e : Env) (s : State) : Host.Outcome State Fault Refusal :=
  onRun s e (fun d => (d.meet e (some (qOwner q))).onPkt [0x51] q tag (fun d p => d.opRemoteAtomic p e))
/-- ROUTE_SET (16 R349). -/
def execRouteSet (q : QRef) (tag : BitVec 16) (s : State) : Host.Outcome State Fault Refusal :=
  onRun s {} (fun d => d.onPkt [0x52] q tag Dev.opRouteSet)

end Sys2Proof.Machine
end

