-- ==== Sys2Proof/Machine/Run.lean ====
section
/-!
DEFINITION. Machine/Run.lean: the commands of the DMA complexes, the KPMs, ABORT, cores and ports that leave service, queues,
thermal supervision and resets: each runs the operation its own chapter's file defines, and then the register writes that its
units made through space 0xF (spec/21_register_summary.md R436).
-/
namespace Sys2Proof.Machine

/-! DMA (spec/13_dma.md). -/

/-- DMA_RUN (13 R280, R286). -/
def execDmaRun (q : QRef) (tag : BitVec 16) (e : Env) (s : State) : Host.Outcome State Fault Refusal :=
  onRun s e (fun d => (d.applyEnv e).onPkt [0x40] q tag Dev.dmaBegin)
/-- DMA_CHAIN (13 R290). -/
def execDmaChain (q : QRef) (tag : BitVec 16) (e : Env) (s : State) : Host.Outcome State Fault Refusal :=
  onRun s e (fun d => (d.applyEnv e).onPkt [0x41] q tag Dev.dmaBegin)
/-- DMA_DESCRIPTOR_START (13 R286). -/
def execDmaDescriptorStart (n : Fin 12) (ch : Fin 16) (e : Env) (s : State) : Host.Outcome State Fault Refusal :=
  onRun s e (fun d => (d.meet e (d.chanOwner n.val ch.val)).startDesc e n.val ch.val)
/-- DMA_BLOCK_READ (13 R281, R282). -/
def execDmaBlockRead (n : Fin 12) (ch : Fin 16) (e : Env) (s : State) : Host.Outcome State Fault Refusal :=
  onRun s e (fun d => (d.meet e (d.chanOwner n.val ch.val)).readBlock e n.val ch.val)
/-- DMA_BLOCK_WRITE (13 R281). -/
def execDmaBlockWrite (n : Fin 12) (ch : Fin 16) (e : Env) (s : State) : Host.Outcome State Fault Refusal :=
  onRun s e (fun d => (d.meet e (d.chanOwner n.val ch.val)).writeBlock e n.val ch.val)
/-- DMA_DESCRIPTOR_END (13 R289). -/
def execDmaDescriptorEnd (n : Fin 12) (ch : Fin 16) (e : Env) (s : State) : Host.Outcome State Fault Refusal :=
  onRun s e (fun d => (d.meet e (d.chanOwner n.val ch.val)).endDesc e n.val ch.val)

/-! KV pages and the Arbor (spec/14_kv_pages_arbor.md). -/

/-- KV_ALLOC (14 R298). -/
def execKvAlloc (q : QRef) (tag : BitVec 16) (e : Env) (s : State) : Host.Outcome State Fault Refusal :=
  onRun s e (fun d => (d.meet e (some (qOwner q))).onPkt [0x30] q tag (fun d p => Dev.conclude p (d.opAlloc p e)))
/-- KV_APPEND (14 R307). -/
def execKvAppend (q : QRef) (tag : BitVec 16) (e : Env) (s : State) : Host.Outcome State Fault Refusal :=
  onRun s e (fun d => (d.meet e (some (qOwner q))).onPkt [0x31] q tag (fun d p => Dev.conclude p (d.opAppend p e none)))
/-- KV_FREE (14 R306). -/
def execKvFree (q : QRef) (tag : BitVec 16) (e : Env) (s : State) : Host.Outcome State Fault Refusal :=
  onRun s e (fun d => (d.meet e (some (qOwner q))).onPkt [0x32] q tag (fun d p => Dev.conclude p (d.opFree p e)))
/-- KV_COMMIT (14 R308). -/
def execKvCommit (q : QRef) (tag : BitVec 16) (e : Env) (s : State) : Host.Outcome State Fault Refusal :=
  onRun s e (fun d => (d.meet e (some (qOwner q))).onPkt [0x33] q tag (fun d p => Dev.conclude p (d.opCommit p e)))
/-- KV_ROLLBACK (14 R308). -/
def execKvRollback (q : QRef) (tag : BitVec 16) (e : Env) (s : State) : Host.Outcome State Fault Refusal :=
  onRun s e (fun d => (d.meet e (some (qOwner q))).onPkt [0x34] q tag (fun d p => Dev.conclude p (d.opRollback p e)))
/-- ARBOR_MATCH (14 R312). -/
def execArborMatch (q : QRef) (tag : BitVec 16) (e : Env) (s : State) : Host.Outcome State Fault Refusal :=
  onRun s e (fun d => (d.meet e (some (qOwner q))).onPkt [0x35] q tag (fun d p => Dev.conclude p (d.opMatch p e)))
/-- ARBOR_INSERT (14 R313). -/
def execArborInsert (q : QRef) (tag : BitVec 16) (c : Contend) (e : Env) (s : State) : Host.Outcome State Fault Refusal :=
  onRun s e (fun d => (d.meet e (some (qOwner q))).onPkt [0x36] q tag (fun d p => d.arborCmd p c e (fun d => d.opInsert p e)))
/-- ARBOR_REMOVE (14 R314). -/
def execArborRemove (q : QRef) (tag : BitVec 16) (c : Contend) (e : Env) (s : State) : Host.Outcome State Fault Refusal :=
  onRun s e (fun d => (d.meet e (some (qOwner q))).onPkt [0x37] q tag (fun d p => d.arborCmd p c e (fun d => d.opRemove p e)))
/-- RESERVATION_EXPIRY (10 R234). -/
def execReservationExpiry (site : Fin 6) (slot : Fin 8) (s : State) : Host.Outcome State Fault Refusal :=
  onRun s {} (fun d => d.expireRsv (8 * site.val + slot.val))
/-- EXCLUSIVE_HOLD_EXPIRY (10 R235). -/
def execExclusiveHoldExpiry (site : Fin 6) (slot : Fin 8) (e : Env) (s : State) : Host.Outcome State Fault Refusal :=
  onRun s e (fun d => (d.applyEnv e).expireHold e (8 * site.val + slot.val))
/-- KPM_POOL_ENABLE (14 R295): a write of KPM_POOL_CTL. -/
def execKpmPoolEnable (fn : Fn) (site : Fin 6) (pool : Fin 64) (v : BitVec 32) (s : State) : Host.Outcome State Fault Refusal :=
  onHost s fn {} (fun d => d.wrPool fn site.val (poolKey site.val pool.val) 0 (v.toNat ||| 1))
/-- KPM_POOL_READY (14 R295). -/
def execKpmPoolReady (site : Fin 6) (pool : Fin 64) (e : Env) (s : State) : Host.Outcome State Fault Refusal :=
  onRun s e (fun d => (d.applyEnv e).poolReady site.val (poolKey site.val pool.val))
/-- KPM_POOL_DISABLE (14 R296): a write of KPM_POOL_CTL with ENABLE 0. -/
def execKpmPoolDisable (fn : Fn) (site : Fin 6) (pool : Fin 64) (v : BitVec 32) (s : State) : Host.Outcome State Fault Refusal :=
  onHost s fn {} (fun d => d.wrPool fn site.val (poolKey site.val pool.val) 0 (v.toNat / 2 * 2))
/-- KPM_PIN_LO_WRITE (14 R316). -/
def execKpmPinLoWrite (fn : Fn) (v : BitVec 32) (e : Env) (s : State) : Host.Outcome State Fault Refusal :=
  onHost s fn e (fun d => (d.applyEnv e).wrPin e fn v.toNat)
/-- ARB_KEY_WRITE (14 R309): the write of the word that makes a key take effect. -/
def execArbKeyWrite (fn : Fn) (p : Fin 9) (v : BitVec 32) (s : State) : Host.Outcome State Fault Refusal :=
  onHost s fn {} (fun d => if fn == .pf || fnOwner fn == p.val then d.wrArbKey p.val 3 v.toNat else d)

/-! ABORT (spec/11_queues_packets.md). -/

/-- ABORT (11 R255): the steps up to the rollback. -/
def execAbort (q : QRef) (tag : BitVec 16) (a : AbortEnv) (e : Env) (s : State) : Host.Outcome State Fault Refusal :=
  onRun s e (fun d => match d.abortOf q tag with
    | some j => (d.applyEnv e).actAbort e a j
    | none => d)
/-- ABORT_RESET_TIMEOUT (11 R255, Table 11-4 step 6). -/
def execAbortResetTimeout (q : QRef) (tag : BitVec 16) (e : Env) (s : State) : Host.Outcome State Fault Refusal :=
  onRun s e (fun d => match d.abortOf q tag with
    | some j => if j.acted then (d.applyEnv e).forceAbort e j else d
    | none => d)
/-- ABORT_COMPLETE (11 R255, Table 11-4 step 8). -/
def execAbortComplete (q : QRef) (tag : BitVec 16) (e : Env) (s : State) : Host.Outcome State Fault Refusal :=
  onRun s e (fun d => match d.abortOf q tag with
    | some j => (d.applyEnv e).endAbort e j
    | none => d)

/-! Cores and stacks that leave service (spec/06_bonded_slices.md). -/

/-- EVAC_EXPIRY (06 R155). -/
def execEvacExpiry (site : Fin 6) (core : Fin 64) (s : State) : Host.Outcome State Fault Refusal :=
  onRun s {} (fun d => match (d.slice site.val core.val).evacAt with
    | some t => if (d.slice site.val core.val).st == 1 then (d.advTo t).fenceCore {} site.val core.val true else d
    | none => d)
/-- SLC_CTL_FENCE_NOW (06 R155). -/
def execSlcCtlFenceNow (fn : Fn) (v : BitVec 32) (s : State) : Host.Outcome State Fault Refusal :=
  onHost s fn {} (fun d => if fn == .pf then d.wrSlcCtl (v.toNat % 2 ^ 31 + 2 ^ 31) else d)
/-- LAYER_RESOURCE_FAIL (06 R157). -/
def execLayerResourceFail (site : Fin 6) (s : State) : Host.Outcome State Fault Refusal := onRun s {} (fun d => d.loseStack {} site.val)

/-! The die fabric (spec/08_die_fabric.md). -/

/-- ZF_PARITY_FAIL (08 R181). -/
def execZfParityFail (j : Fin 7) (hit : List Nat) (s : State) : Host.Outcome State Fault Refusal := onRun s {} (fun d => d.zfParity j.val hit)
/-- ZF_RLC_PURGE_ALL (08 R185): a write of ZF_RLC_CTL with PURGE_ALL set. -/
def execZfRlcPurgeAll (fn : Fn) (v : BitVec 32) (s : State) : Host.Outcome State Fault Refusal :=
  onHost s fn {} (fun d => if fn == .pf then d.wrRlcCtl (v.toNat ||| 1) else d)
/-- PURGE_ALL_DONE (08 R185): no line that was there when the purge began is left. -/
def execPurgeAllDone (s : State) : Host.Outcome State Fault Refusal :=
  onRun s {} (fun d => { d with zf := { d.zf with rlcBusy := false } })
/-- SYS_NODE_WRITE (09 R218). -/
def execSysNodeWrite (fn : Fn) (v : BitVec 32) (s : State) : Host.Outcome State Fault Refusal :=
  onHost s fn {} (fun d => if fn == .pf then d.wrNode v.toNat else d)

/-! Queues (spec/11_queues_packets.md). -/

/-- Q_CTL_ENABLE (11 R240): a write of Q_CTL with ENABLE 1. -/
def execQCtlEnable (fn : Fn) (q : QRef) (v : BitVec 32) (s : State) : Host.Outcome State Fault Refusal :=
  onHost s fn {} (fun d => if d.mayQueue fn q then d.wrQctl {} q (v.toNat ||| 1) else d)
/-- Q_CTL_DISABLE (11 R240): a write of Q_CTL with ENABLE 0. -/
def execQCtlDisable (fn : Fn) (q : QRef) (v : QWrite) (s : State) : Host.Outcome State Fault Refusal :=
  onHost s fn v.e (fun d => if d.mayQueue fn q then (d.applyEnv v.e).wrQctl v.e q (v.v.toNat / 2 * 2) else d)
/-- Q_CTL_ABORT (11 R254): a write of Q_CTL with ABORT 1. -/
def execQCtlAbort (fn : Fn) (q : QRef) (v : QWrite) (s : State) : Host.Outcome State Fault Refusal :=
  onHost s fn v.e (fun d => if d.mayQueue fn q then (d.applyEnv v.e).wrQctl v.e q (v.v.toNat % 2 ^ 31 + 2 ^ 31) else d)
/-- Q_IRQ_WRITE (11 R245). -/
def execQIrqWrite (fn : Fn) (q : QRef) (v : BitVec 32) (s : State) : Host.Outcome State Fault Refusal :=
  onHost s fn {} (fun d => if d.mayQueue fn q then d.wrQirq q v.toNat else d)
/-- SQ_TAIL (11 R242, R255). -/
def execSqTail (fn : Fn) (page : Fin 64) (bits : Nat) (v : BitVec 32) (e : Env) (s : State) : Host.Outcome State Fault Refusal :=
  onHost s fn e (fun d => match doorbellQueue fn page with
    | some q => if d.queueExists q then (d.applyEnv e).ringTail e q bits (v.toNat % 65536) else d
    | none => d)
/-- CQ_HEAD (11 R242, R243). -/
def execCqHead (fn : Fn) (page : Fin 64) (bits : Nat) (v : BitVec 32) (s : State) : Host.Outcome State Fault Refusal :=
  onHost s fn {} (fun d => match doorbellQueue fn page with
    | some q => if d.queueExists q then d.ringHead q bits (v.toNat % 65536) else d
    | none => d)
/-- PACKET_TAKE (11 R243). -/
def execPacketTake (e : Env) (s : State) : Host.Outcome State Fault Refusal := onRun s e (fun d => (d.applyEnv e).takeNext e)
/-- PACKET_START (11 R248). -/
def execPacketStart (q : QRef) (tag : BitVec 16) (s : State) : Host.Outcome State Fault Refusal :=
  onRun s {} (fun d => match d.pkt? q tag with | some p => d.startPkt p | none => d)
/-- PACKET_COMPLETE (11 R249, 10 R237). -/
def execPacketComplete (q : QRef) (tag : BitVec 16) (e : Env) (s : State) : Host.Outcome State Fault Refusal :=
  onRun s e (fun d => (d.applyEnv e).completePkt e q tag)
/-- IRQ_TIME_TRIGGER (11 R245). -/
def execIrqTimeTrigger (q : QRef) (s : State) : Host.Outcome State Fault Refusal := onRun s {} (fun d => d.irqTime q)
/-- RING_READ_ERROR (11 R239, decided case). -/
def execRingReadError (q : QRef) (s : State) : Host.Outcome State Fault Refusal :=
  onRun s {} (fun d => if (d.queue q).enable then d.ringError q else d)

/-! Thermal supervision (spec/17_thermal_escapement.md). -/

/-- THERMAL_SCAN (17 R366-R372, R376). -/
def execThermalScan (r : ScanEnv) (e : Env) (s : State) : Host.Outcome State Fault Refusal := onRun s e (fun d => (d.applyEnv e).scan r e)
/-- STOP_RECORD_WRITE (17 R378). -/
def execStopRecordWrite (n : Fin 6) (e : Env) (s : State) : Host.Outcome State Fault Refusal :=
  onRun s e (fun d => (d.applyEnv e).writeStop e n.val)
/-- ESC_REQ_WRITE (17 R377). -/
def execEscReqWrite (fn : Fn) (n : Fin 6) (v : BitVec 32) (s : State) : Host.Outcome State Fault Refusal :=
  onHost s fn {} (fun d => d.wrEscReq (fnOwner fn) n.val v.toNat)

/-! Resets (spec/03_power_to_ready.md). -/

/-- PCIE_CONFIG_REQUEST (03 R86, R446). -/
def execPcieConfigRequest (fn : Fn) (op : CfgOp) (s : State) : Host.Outcome State Fault Refusal := onDev s (fun d => d.cfgRequest fn op)
/-- PERST_ASSERT (03 R90). -/
def execPerstAssert (s : State) : Host.Outcome State Fault Refusal := onDev s (fun d => d.perstAssert.flushRegs {})
/-- PERST_DEASSERT (03 R86, R90). -/
def execPerstDeassert (s : State) : Host.Outcome State Fault Refusal := onDev s (fun d => d.perstDeassert.flushRegs {})
/-- WARM_RESTART_READY (03 R90). -/
def execWarmRestartReady (s : State) : Host.Outcome State Fault Refusal := onRun s {} Dev.warmReady
/-- VF_FLR (03 R91). -/
def execVfFlr (p : Fin 8) (s : State) : Host.Outcome State Fault Refusal :=
  onRun s {} (fun d => if d.cfgOk (Fn.vf p) then d.vfFlr p.val else d)
/-- PF_FLR (03 R91). -/
def execPfFlr (s : State) : Host.Outcome State Fault Refusal := onRun s {} (fun d => if d.cfgOk Fn.pf then d.pfFlr else d)
/-- BAR4_RESIZE (21 R434): a size in the range of Table 21-1, while Memory Space Enable is clear. -/
def execBar4Resize (fn : Fn) (log2 : Nat) (s : State) : Host.Outcome State Fault Refusal :=
  onUp s (fun d =>
    if d.pcieUp && d.fuseEnded && !tget d.pcie.mse (fnKey fn) false && 30 ≤ log2 && log2 ≤ 39 then
      { d with pcie := { d.pcie with bar4 := tset d.pcie.bar4 (fnKey fn) log2 } }
    else d)

/-! Observation (spec/18_observability.md). -/

/-- LOUPE_WATCH (18 R396, R400). -/
def execLoupeWatch (q : QRef) (tag : BitVec 16) (e : Env) (s : State) : Host.Outcome State Fault Refusal :=
  onRun s e (fun d => (d.meet e (some (qOwner q))).onPkt [0x70] q tag (fun d p => if d.watchReady p then Dev.conclude p (d.opWatch p e) else d))
/-- LOUPE_DIGEST (18 R397): the digest of a slot that a packet's writes triggered. -/
def execLoupeDigest (q : QRef) (tag : BitVec 16) (slot : Fin 32) (e : Env) (s : State) : Host.Outcome State Fault Refusal :=
  onRun s e (fun d =>
    let d := d.meet e (some (qOwner q))
    match d.pkt? q tag with
    | some p => if p.trig.contains slot.val && d.digestReady p then d.takeDigest e p slot.val else d
    | none => d)
/-- CNT_SNAP (18 R393-R395). -/
def execCntSnap (q : QRef) (tag : BitVec 16) (e : Env) (s : State) : Host.Outcome State Fault Refusal :=
  onRun s e (fun d => (d.meet e (some (qOwner q))).onPkt [0x71] q tag (fun d p => Dev.conclude p (d.opCntSnap p e)))
/-- SNAPSHOT (18 R402). -/
def execSnapshot (q : QRef) (tag : BitVec 16) (s : State) : Host.Outcome State Fault Refusal :=
  onRun s {} (fun d => d.onPkt [0x72] q tag Dev.opSnapshot)
/-- CNT_VAL_LO_WRITE (18 R390). -/
def execCntValLoWrite (fn : Fn) (v : BitVec 32) (s : State) : Host.Outcome State Fault Refusal :=
  onHost s fn {} (fun d => d.wrCntVal fn v.toNat)
/-- CNT_VAL_LO_READ (18 R404): VALUE[31:0], and VALUE[47:32] and OVF into the shadow. -/
def execCntValLoRead (fn : Fn) (s : State) : Host.Outcome State Fault Refusal :=
  onHost s fn {} (fun d => let r := regRead d fn 0x500008; r.2.emit (.reg fn 0x500008 r.1))
/-- SNP_CTL_GO (18 R402): a write of SNP_CTL with GO set. -/
def execSnpCtlGo (fn : Fn) (v : BitVec 32) (s : State) : Host.Outcome State Fault Refusal :=
  onHost s fn {} (fun d => d.wrSnpCtl fn (v.toNat ||| 1))
/-- SNAPSHOT_DONE (18 R403). -/
def execSnapshotDone (fn : Fn) (e : Env) (s : State) : Host.Outcome State Fault Refusal :=
  onRun s e (fun d => (d.meet e (some (fnOwner fn))).snpDone fn e)

end Sys2Proof.Machine
end

