-- ==== Sys2Proof/Machine/Dispatch.lean ====
section
/-!
DEFINITION. Machine/Dispatch.lean: the meaning of every command, one arm each.
-/
namespace Sys2Proof.Machine

/-- The effect of a command on the module (everything but the queue). -/
def exec (i : Instr) (s : State) : Host.Outcome State Fault Refusal :=
  match i with
  | .fcHousekeepingUp => Sys2Proof.Machine.execFcHousekeepingUp s
  | .uvRising => Sys2Proof.Machine.execUvRising s
  | .uvFalling => Sys2Proof.Machine.execUvFalling s
  | .ovRising => Sys2Proof.Machine.execOvRising s
  | .ovFalling => Sys2Proof.Machine.execOvFalling s
  | .converterReenableDelay => Sys2Proof.Machine.execConverterReenableDelay s
  | .railPowerGood => Sys2Proof.Machine.execRailPowerGood s
  | .inputBelow44V below => Sys2Proof.Machine.execInputBelow44V below s
  | .derivedCapTick vin => Sys2Proof.Machine.execDerivedCapTick vin s
  | .hostPowerDown => Sys2Proof.Machine.execHostPowerDown s
  | .facStatusPeriod r => Sys2Proof.Machine.execFacStatusPeriod r s
  | .fcStateFramePeriod r => Sys2Proof.Machine.execFcStateFramePeriod r s
  | .hstStatusPeriod power => Sys2Proof.Machine.execHstStatusPeriod power s
  | .canFacShedNow f => Sys2Proof.Machine.execCanFacShedNow f s
  | .canFacIsolateWarn f => Sys2Proof.Machine.execCanFacIsolateWarn f s
  | .canFacPowerCap f => Sys2Proof.Machine.execCanFacPowerCap f s
  | .canFacIdentReq f => Sys2Proof.Machine.execCanFacIdentReq f s
  | .facStatus f => Sys2Proof.Machine.execFacStatus f s
  | .facPowerCap f => Sys2Proof.Machine.execFacPowerCap f s
  | .facShedNow f => Sys2Proof.Machine.execFacShedNow f s
  | .facCoolant f => Sys2Proof.Machine.execFacCoolant f s
  | .facIsolateWarn f => Sys2Proof.Machine.execFacIsolateWarn f s
  | .facIdentReq f => Sys2Proof.Machine.execFacIdentReq f s
  | .facAck f => Sys2Proof.Machine.execFacAck f s
  | .hstStatus f => Sys2Proof.Machine.execHstStatus f s
  | .hstStopRecord f => Sys2Proof.Machine.execHstStopRecord f s
  | .hstTripRecord f => Sys2Proof.Machine.execHstTripRecord f s
  | .hstIdent f => Sys2Proof.Machine.execHstIdent f s
  | .hstPowerReq f => Sys2Proof.Machine.execHstPowerReq f s
  | .hstThermal f => Sys2Proof.Machine.execHstThermal f s
  | .hstAck f => Sys2Proof.Machine.execHstAck f s
  | .barrierRetransmitTimeout side seq => Sys2Proof.Machine.execBarrierRetransmitTimeout side seq s
  | .barrierLostTimeout => Sys2Proof.Machine.execBarrierLostTimeout s
  | .hostSilentTimeout => Sys2Proof.Machine.execHostSilentTimeout s
  | .identAnswerTimeout => Sys2Proof.Machine.execIdentAnswerTimeout s
  | .isolateHalt => Sys2Proof.Machine.execIsolateHalt s
  | .pwrReqGo fn v => Sys2Proof.Machine.execPwrReqGo fn v s
  | .pwrVopWrite fn v => Sys2Proof.Machine.execPwrVopWrite fn v s
  | .vopChangeDone site => Sys2Proof.Machine.execVopChangeDone site s
  | .smbusReady => Sys2Proof.Machine.execSmbusReady s
  | .smbusBlockRead addr code => Sys2Proof.Machine.execSmbusBlockRead addr code s
  | .smbusWrite addr code data => Sys2Proof.Machine.execSmbusWrite addr code data s
  | .clockPhaseEnd => Sys2Proof.Machine.execClockPhaseEnd s
  | .fusePhaseEnd r => Sys2Proof.Machine.execFusePhaseEnd r s
  | .zfPhaseEnd r => Sys2Proof.Machine.execZfPhaseEnd r s
  | .memPhaseEnd r => Sys2Proof.Machine.execMemPhaseEnd r s
  | .assayPhaseEnd r => Sys2Proof.Machine.execAssayPhaseEnd r s
  | .sysReadySet => Sys2Proof.Machine.execSysReadySet s
  | .phaseDeadline r => Sys2Proof.Machine.execPhaseDeadline r s
  | .sessionQuietEnd => Sys2Proof.Machine.execSessionQuietEnd s
  | .pcieConfigRequest fn op => Sys2Proof.Machine.execPcieConfigRequest fn op s
  | .perstAssert => Sys2Proof.Machine.execPerstAssert s
  | .perstDeassert => Sys2Proof.Machine.execPerstDeassert s
  | .warmRestartReady => Sys2Proof.Machine.execWarmRestartReady s
  | .vfFlr p => Sys2Proof.Machine.execVfFlr p s
  | .pfFlr => Sys2Proof.Machine.execPfFlr s
  | .bar4Resize fn log2 => Sys2Proof.Machine.execBar4Resize fn log2 s
  | .refclkLoss => Sys2Proof.Machine.execRefclkLoss s
  | .refclkReturn => Sys2Proof.Machine.execRefclkReturn s
  | .paceWindow counts => Sys2Proof.Machine.execPaceWindow counts s
  | .sysTimeLoRead fn => Sys2Proof.Machine.execSysTimeLoRead fn s
  | .sliceRefresh => Sys2Proof.Machine.execSliceRefresh s
  | .hbmRefresh => Sys2Proof.Machine.execHbmRefresh s
  | .sliceScrubBurst site core e => Sys2Proof.Machine.execSliceScrubBurst site core e s
  | .repairSweepDone site core oct e => Sys2Proof.Machine.execRepairSweepDone site core oct e s
  | .caParityError site core oct c e => Sys2Proof.Machine.execCaParityError site core oct c e s
  | .evacExpiry site core => Sys2Proof.Machine.execEvacExpiry site core s
  | .slcCtlFenceNow fn v => Sys2Proof.Machine.execSlcCtlFenceNow fn v s
  | .layerResourceFail site => Sys2Proof.Machine.execLayerResourceFail site s
  | .hbmScrubBurst h pc e => Sys2Proof.Machine.execHbmScrubBurst h pc e s
  | .hbmCaRetrainDone h pc ok => Sys2Proof.Machine.execHbmCaRetrainDone h pc ok s
  | .hbmTempRead h t => Sys2Proof.Machine.execHbmTempRead h t s
  | .hbmTempReadTimeout h => Sys2Proof.Machine.execHbmTempReadTimeout h s
  | .hbmCtlReform fn v => Sys2Proof.Machine.execHbmCtlReform fn v s
  | .reformDone => Sys2Proof.Machine.execReformDone s
  | .bar4Read fn off len e => Sys2Proof.Machine.execBar4Read fn off len e s
  | .bar4Write fn off data e => Sys2Proof.Machine.execBar4Write fn off data e s
  | .zfParityFail j hit => Sys2Proof.Machine.execZfParityFail j hit s
  | .zfRlcPurgeAll fn v => Sys2Proof.Machine.execZfRlcPurgeAll fn v s
  | .partnerResponse m e => Sys2Proof.Machine.execPartnerResponse m e s
  | .partnerResponseTimeout ptag e => Sys2Proof.Machine.execPartnerResponseTimeout ptag e s
  | .partnerInboundRequest m e => Sys2Proof.Machine.execPartnerInboundRequest m e s
  | .partnerLinkLoss e => Sys2Proof.Machine.execPartnerLinkLoss e s
  | .sysNodeWrite fn v => Sys2Proof.Machine.execSysNodeWrite fn v s
  | .qCtlEnable fn q v => Sys2Proof.Machine.execQCtlEnable fn q v s
  | .qCtlDisable fn q v => Sys2Proof.Machine.execQCtlDisable fn q v s
  | .qCtlAbort fn q v => Sys2Proof.Machine.execQCtlAbort fn q v s
  | .qIrqWrite fn q v => Sys2Proof.Machine.execQIrqWrite fn q v s
  | .sqTail fn page bits v e => Sys2Proof.Machine.execSqTail fn page bits v e s
  | .cqHead fn page bits v => Sys2Proof.Machine.execCqHead fn page bits v s
  | .packetTake e => Sys2Proof.Machine.execPacketTake e s
  | .packetStart q tag => Sys2Proof.Machine.execPacketStart q tag s
  | .packetComplete q tag e => Sys2Proof.Machine.execPacketComplete q tag e s
  | .irqTimeTrigger q => Sys2Proof.Machine.execIrqTimeTrigger q s
  | .ringReadError q => Sys2Proof.Machine.execRingReadError q s
  | .nop q tag => Sys2Proof.Machine.execNop q tag s
  | .barrier q tag e => Sys2Proof.Machine.execBarrier q tag e s
  | .storeBufferIssue site core e => Sys2Proof.Machine.execStoreBufferIssue site core e s
  | .signal q tag e => Sys2Proof.Machine.execSignal q tag e s
  | .wait q tag e => Sys2Proof.Machine.execWait q tag e s
  | .waitPoll q tag e => Sys2Proof.Machine.execWaitPoll q tag e s
  | .waitTimeout q tag => Sys2Proof.Machine.execWaitTimeout q tag s
  | .flush q tag => Sys2Proof.Machine.execFlush q tag s
  | .invalidate q tag e => Sys2Proof.Machine.execInvalidate q tag e s
  | .gemm q tag e => Sys2Proof.Machine.execGemm q tag e s
  | .gemmT q tag e => Sys2Proof.Machine.execGemmT q tag e s
  | .convAsGemm q tag e => Sys2Proof.Machine.execConvAsGemm q tag e s
  | .escapementPauseEnd site core u => Sys2Proof.Machine.execEscapementPauseEnd site core u s
  | .vxuOp q tag e => Sys2Proof.Machine.execVxuOp q tag e s
  | .norm q tag e => Sys2Proof.Machine.execNorm q tag e s
  | .optimStep q tag e => Sys2Proof.Machine.execOptimStep q tag e s
  | .attend q tag e => Sys2Proof.Machine.execAttend q tag e s
  | .attendBuckets q tag e => Sys2Proof.Machine.execAttendBuckets q tag e s
  | .verify q tag e => Sys2Proof.Machine.execVerify q tag e s
  | .verifyStreamPacket q tag e => Sys2Proof.Machine.execVerifyStreamPacket q tag e s
  | .verifyAcceptance q tag e => Sys2Proof.Machine.execVerifyAcceptance q tag e s
  | .kvAlloc q tag e => Sys2Proof.Machine.execKvAlloc q tag e s
  | .kvAppend q tag e => Sys2Proof.Machine.execKvAppend q tag e s
  | .kvFree q tag e => Sys2Proof.Machine.execKvFree q tag e s
  | .kvCommit q tag e => Sys2Proof.Machine.execKvCommit q tag e s
  | .kvRollback q tag e => Sys2Proof.Machine.execKvRollback q tag e s
  | .arborMatch q tag e => Sys2Proof.Machine.execArborMatch q tag e s
  | .arborInsert q tag c e => Sys2Proof.Machine.execArborInsert q tag c e s
  | .arborRemove q tag c e => Sys2Proof.Machine.execArborRemove q tag c e s
  | .reservationExpiry site slot => Sys2Proof.Machine.execReservationExpiry site slot s
  | .exclusiveHoldExpiry site slot e => Sys2Proof.Machine.execExclusiveHoldExpiry site slot e s
  | .kpmPoolEnable fn site pool v => Sys2Proof.Machine.execKpmPoolEnable fn site pool v s
  | .kpmPoolReady site pool e => Sys2Proof.Machine.execKpmPoolReady site pool e s
  | .kpmPoolDisable fn site pool v => Sys2Proof.Machine.execKpmPoolDisable fn site pool v s
  | .kpmPinLoWrite fn v e => Sys2Proof.Machine.execKpmPinLoWrite fn v e s
  | .arbKeyWrite fn p v => Sys2Proof.Machine.execArbKeyWrite fn p v s
  | .dmaRun q tag e => Sys2Proof.Machine.execDmaRun q tag e s
  | .dmaChain q tag e => Sys2Proof.Machine.execDmaChain q tag e s
  | .dmaDescriptorStart n ch e => Sys2Proof.Machine.execDmaDescriptorStart n ch e s
  | .dmaBlockRead n ch e => Sys2Proof.Machine.execDmaBlockRead n ch e s
  | .dmaBlockWrite n ch e => Sys2Proof.Machine.execDmaBlockWrite n ch e s
  | .dmaDescriptorEnd n ch e => Sys2Proof.Machine.execDmaDescriptorEnd n ch e s
  | .send q tag e => Sys2Proof.Machine.execSend q tag e s
  | .remoteAtomic q tag e => Sys2Proof.Machine.execRemoteAtomic q tag e s
  | .routeSet q tag => Sys2Proof.Machine.execRouteSet q tag s
  | .partCreate q tag => Sys2Proof.Machine.execPartCreate q tag s
  | .partResize q tag e => Sys2Proof.Machine.execPartResize q tag e s
  | .partDestroy q tag e => Sys2Proof.Machine.execPartDestroy q tag e s
  | .loupeWatch q tag e => Sys2Proof.Machine.execLoupeWatch q tag e s
  | .loupeDigest q tag slot e => Sys2Proof.Machine.execLoupeDigest q tag slot e s
  | .cntSnap q tag e => Sys2Proof.Machine.execCntSnap q tag e s
  | .snapshot q tag => Sys2Proof.Machine.execSnapshot q tag s
  | .setVop q tag => Sys2Proof.Machine.execSetVop q tag s
  | .escRequest q tag => Sys2Proof.Machine.execEscRequest q tag s
  | .abort q tag a e => Sys2Proof.Machine.execAbort q tag a e s
  | .abortResetTimeout q tag e => Sys2Proof.Machine.execAbortResetTimeout q tag e s
  | .abortComplete q tag e => Sys2Proof.Machine.execAbortComplete q tag e s
  | .linkTrained l node peer => Sys2Proof.Machine.execLinkTrained l node peer s
  | .linkDown l => Sys2Proof.Machine.execLinkDown l s
  | .linkAckTimeout l => Sys2Proof.Machine.execLinkAckTimeout l s
  | .linkHoldExpiry l => Sys2Proof.Machine.execLinkHoldExpiry l s
  | .flitReceive l f fec => Sys2Proof.Machine.execFlitReceive l f fec s
  | .inboundRequest id e => Sys2Proof.Machine.execInboundRequest id e s
  | .inboundResponse id e => Sys2Proof.Machine.execInboundResponse id e s
  | .messageHoldExpiry id => Sys2Proof.Machine.execMessageHoldExpiry id s
  | .transactionTimeout rid e => Sys2Proof.Machine.execTransactionTimeout rid e s
  | .thermalScan r e => Sys2Proof.Machine.execThermalScan r e s
  | .stopRecordWrite d e => Sys2Proof.Machine.execStopRecordWrite d e s
  | .domain5PowerDown waited => Sys2Proof.Machine.execDomain5PowerDown waited s
  | .trip d cls => Sys2Proof.Machine.execTrip d cls s
  | .tripRelease => Sys2Proof.Machine.execTripRelease s
  | .escReqWrite fn d v => Sys2Proof.Machine.execEscReqWrite fn d v s
  | .cntValLoWrite fn v => Sys2Proof.Machine.execCntValLoWrite fn v s
  | .cntValLoRead fn => Sys2Proof.Machine.execCntValLoRead fn s
  | .snpCtlGo fn v => Sys2Proof.Machine.execSnpCtlGo fn v s
  | .snapshotDone fn e => Sys2Proof.Machine.execSnapshotDone fn e s
  | .openObserve src => Sys2Proof.Machine.execOpenObserve src s
  | .reqChal src lvl => Sys2Proof.Machine.execReqChal src lvl s
  | .submitResp src => Sys2Proof.Machine.execSubmitResp src s
  | .setPw src => Sys2Proof.Machine.execSetPw src s
  | .relock src => Sys2Proof.Machine.execRelock src s
  | .lockCommandDone => Sys2Proof.Machine.execLockCommandDone s
  | .challengeExpiry => Sys2Proof.Machine.execChallengeExpiry s
  | .testEnChange level => Sys2Proof.Machine.execTestEnChange level s
  | .lckTapGo fn v => Sys2Proof.Machine.execLckTapGo fn v s
  | .tapShiftDone tdo => Sys2Proof.Machine.execTapShiftDone tdo s
  | .tapInstructionUpdate ir => Sys2Proof.Machine.execTapInstructionUpdate ir s
  | .registerWrite fn off size v e => Sys2Proof.Machine.execRegisterWrite fn off size v e s
  | .registerRead fn off size => Sys2Proof.Machine.execRegisterRead fn off size s
  | .fcHousekeepingDown => Sys2Proof.Machine.execFcHousekeepingDown s
  | .coolantEvent r => Sys2Proof.Machine.execCoolantEvent r s
  | .purgeAllDone => Sys2Proof.Machine.execPurgeAllDone s

end Sys2Proof.Machine
end

