-- ==== Sys2Proof/Safety.lean ====
section
/-!
DEFINITION. Safety.lean: what a safe step is, one that answers a next state; and when a packet's command runs and when its effect is done, in
the terms the statements use.
-/
namespace Sys2Proof

/-- The step answers a next state, neither a fault nor a refusal. -/
def Completes (o : Host.Outcome Machine.State Machine.Fault Machine.Refusal) : Prop := ∃ t, o = .next t

/-- From s, the next step completes. -/
def StepSafe (s : Machine.State) : Prop := Completes (Machine.step s)

/-- The host side has power, and p, the packet of queue q under tag, has started with opcode c and waits for no reset of its unit by an
ABORT, nor for its turn on a page descriptor: when a command on it acts (spec/11_queues_packets.md R248, R255,
spec/14_kv_pages_arbor.md R303). -/
structure Runs (d : Machine.Dev) (q : QRef) (tag : BitVec 16) (c : Nat) (p : Machine.Pkt) : Prop where
  /-- The host side has power. -/
  up : d.supAlive = true
  /-- p is in flight. -/
  here : d.pkt? q tag = some p
  /-- p has started. -/
  started : p.phase = .started
  /-- Its opcode. -/
  opc : p.opc.toNat = c
  /-- No ABORT waits to reset its unit. -/
  free : d.disp.aborts.any (fun j => j.stuck.contains p.ord) = false
  /-- No packet that started before it works on a page descriptor it names (14 R303). -/
  turn : d.descTurn p = true

/-- The effect of the packet of queue q under tag is done, with this STATUS. -/
def DoneWith (d : Machine.Dev) (q : QRef) (tag st : BitVec 16) : Prop :=
  ∃ p, d.pkt? q tag = some p ∧ p.phase = .done ∧ p.status = st

/-- The effect of the packet of queue q under tag is done, with this STATUS and this RESULT. -/
def DoneRes (d : Machine.Dev) (q : QRef) (tag st : BitVec 16) (res : Nat) : Prop :=
  ∃ p, d.pkt? q tag = some p ∧ p.phase = .done ∧ p.status = st ∧ p.result = BitVec.ofNat 64 res

/-- The cap in force at the Facility Controller: the lower of the rack's cap and the derived one (spec/02_module_barrier.md R44). -/
def capInForce (f : Machine.FC) : Nat := match f.derived with | some w => min w f.rackCap.toNat | none => f.rackCap.toNat

/-- From d to x, FAC_POWER_CAP went out with the cap in force and its source exactly if that cap had moved by 25 W or more from the one
sent last (spec/02_module_barrier.md R44, Table 02-11). -/
structure CapFollows (d x : Machine.Dev) : Prop where
  /-- It moved: it is sent. -/
  moved : d.fc.lastSent.toNat + 25 ≤ capInForce x.fc ∨ capInForce x.fc + 25 ≤ d.fc.lastSent.toNat →
    x.fc.lastSent.toNat = capInForce x.fc ∧ x.out = d.out ++ [.barrier .facility (Machine.frameBytes 0x02 d.fc.seq
      (Machine.leBytes 2 (capInForce x.fc) ++ [if capInForce x.fc < x.fc.rackCap.toNat then 1 else 0]))]
  /-- It did not: nothing is sent. -/
  still : d.fc.lastSent.toNat < capInForce x.fc + 25 → capInForce x.fc < d.fc.lastSent.toNat + 25 →
    x.fc.lastSent = d.fc.lastSent ∧ x.out = d.out

/-- What no operation on data reaches: fuses, pins, supplies, both ends of the barrier, the PWR and PCIe state, thermal supervision, the
queues, the snapshot engines and the lock stand in x as in d; but for the counts that a unit's read of a register through space 0xF
clears (spec/21_register_summary.md R436). -/
structure Kept (d x : Machine.Dev) : Prop where
  /-- Fuses. -/
  fuse : x.fuse = d.fuse
  /-- Pins. -/
  pins : x.pins = d.pins
  /-- Facility Controller. -/
  fc : x.fc = d.fc
  /-- Supplies. -/
  rails : x.rails = d.rails
  /-- Supervisor's barrier end. -/
  sup : x.sup = d.sup
  /-- PWR block. -/
  pwr : x.pwr = { d.pwr with crcErr := x.pwr.crcErr, gaps := x.pwr.gaps, unackedN := x.pwr.unackedN }
  /-- PCIe controller. -/
  pcie : x.pcie = d.pcie
  /-- THM and ESC blocks. -/
  thm : x.thm = d.thm
  /-- Queues. -/
  queues : ∀ q : QRef, x.queue q = { d.queue q with badDb := (x.queue q).badDb, replayed := (x.queue q).replayed, aborted := (x.queue q).aborted }
  /-- SNP block. -/
  snp : x.snp = d.snp
  /-- LCK block. -/
  lck : x.lck = d.lck

/-- DESC of p names a descriptor slot of pool k, which serves, and its descriptor reads as x (spec/14_kv_pages_arbor.md R296, R299). -/
structure Names (d : Machine.Dev) (p : Machine.Pkt) (e : Env) (k : Nat) (x : Machine.PDesc) : Prop where
  /-- The slot is one of pool k. -/
  at_ : d.poolAt (d.canon p.descA) = some k
  /-- Pool k serves. -/
  ok : d.poolOk k = true
  /-- The descriptor can be read. -/
  reads : Machine.isExc (d.readDesc (d.kacc p e) (d.canon p.descA)).2.1 = false
  /-- What it reads as. -/
  desc : (d.readDesc (d.kacc p e) (d.canon p.descA)).2.2 = x

end Sys2Proof
end

