-- ==== Sys2Proof/Certificates/Slice0/Obligations.lean ====
section
/-!
DEFINITION. Certificates/Slice0/Obligations.lean: the statements for the provers, from the numbered rules of spec/: first the
queue of commands, then every family of commands: what each command does where its conditions hold, and what it leaves alone.
-/
section Slice0
open Sys2Proof Sys2Proof.Machine

/-! The queue of commands. -/

/-- A step on a queue with c in front is exec of c on the state with the queue's rest. -/
def Obligations.StepRunsFront : Prop :=
  ∀ (s : State) (c : Instr) (rest : List Instr), s.pending = c :: rest → step s = exec c { s with pending := rest }

/-- A step on an empty queue lets one tick of the timebase pass, where it runs, and changes nothing else (the model's choice,
log 4). -/
def Obligations.IdleTicks : Prop :=
  ∀ s : State, s.pending = [] →
    (s.dev.time.running = false → step s = .next s) ∧
    (s.dev.time.running = true →
      step s = .next { s with dev := { s.dev with time := { s.dev.time with base := (s.dev.time.base + 1) % 2 ^ 64 } } })

/-- Every command completes from every state and leaves the queue as it is. n steps carry out the first n commands, in order, and never stop in a fault or a refusal. -/
def Obligations.QueueRunsInOrder : Prop :=
  (∀ (c : Instr) (s : State), ∃ d : Dev, exec c s = .next { s with dev := d }) ∧
  (∀ (n : Nat) (s : State), n ≤ s.pending.length →
    ∃ t : State, Host.Core.run core n s = .next t ∧ t.pending = s.pending.drop n)


/-! Input, rails and power (spec/02_module_barrier.md, spec/03_power_to_ready.md, spec/17_thermal_escapement.md). -/

/-- The housekeeping supply of the Facility Controller: up, the FC starts at its reset values with its slot read and the input in undervoltage
hold (R39, R41, R58); down, the FC is off and the host side has no power. The comparators of the input (R40, R447): undervoltage and overvoltage take the bus converter away; the host side comes back
only when both are clear, and then by 03 R75 at once or once every power-good has been off for 10 ms. -/
def Obligations.FacilitySupplies : Prop :=
  (∀ s : State,
    (s.dev.fc.hk = false →
      exec .fcHousekeepingUp s = .next { s with dev := { s.dev with fc := { slot := s.dev.pins.slot, st := .uvHold, uvHold := true } } }) ∧
    (∃ d : Dev, exec .fcHousekeepingDown s = .next { s with dev := d } ∧ d.fc.hk = false ∧ d.rails.converter = false ∧ d.rails.pg = 0 ∧
      d.fuse = s.dev.fuse ∧ d.pins = s.dev.pins ∧ d.mem = s.dev.mem)) ∧
  (∀ s : State,
    (∃ d : Dev, exec .uvFalling s = .next { s with dev := d } ∧ d.fc.uvHold = true ∧ d.fc.st = .uvHold ∧ d.rails.converter = false ∧ d.rails.pg = 0) ∧
    (∃ d : Dev, exec .ovRising s = .next { s with dev := d } ∧ d.fc.ovHold = true ∧ d.fc.st = .ovHold ∧ d.rails.converter = false ∧ d.rails.pg = 0) ∧
    (s.dev.fc.hk = true → s.dev.fc.uvHold = true → s.dev.fc.ovHold = false →
      ∃ d : Dev, exec .uvRising s = .next { s with dev := d } ∧ d.fc.uvHold = false ∧ d.fc.st = .hostSilent ∧
        (s.dev.rails.offTenMs = true → d.rails.converter = true) ∧
        (s.dev.rails.offTenMs = false → d.rails.converter = s.dev.rails.converter ∧ d.rails.pendingEnable = true)) ∧
    (s.dev.fc.hk = true → s.dev.fc.uvHold = true → s.dev.fc.ovHold = true →
      exec .uvRising s = .next { s with dev := { s.dev with fc := { s.dev.fc with uvHold := false } } }) ∧
    (s.dev.fc.ovHold = true → s.dev.fc.uvHold = true →
      exec .ovFalling s = .next { s with dev := { s.dev with fc := { s.dev.fc with ovHold := false, st := .uvHold } } }) ∧
    (s.dev.fc.ovHold = true → s.dev.fc.uvHold = false →
      ∃ d : Dev, exec .ovFalling s = .next { s with dev := d } ∧ d.fc.ovHold = false ∧ d.fc.st = .hostSilent ∧
        (s.dev.rails.offTenMs = true → d.rails.converter = true) ∧
        (s.dev.rails.offTenMs = false → d.rails.converter = s.dev.rails.converter ∧ d.rails.pendingEnable = true)))


/-- The rails come up one by one (03 R74, R75); the sixth power-good is supplies valid, and every block of the host side then holds
its reset values. Losing the rails: HOST_POWER_DOWN takes all of them (03 R88), TRIP all but the intermediate bus and AUX 3.3 V and latches the first trip
(17 R382, R383), DOMAIN5_POWER_DOWN leaves the intermediate bus and latches the sequencer off (17 R380), and TRIP_RELEASE lets the rails restart. -/
def Obligations.HostSideRails : Prop :=
  (∀ s : State,
    (s.dev.rails.pg = 0 → s.dev.rails.converter = false →
      ∃ d : Dev, exec .converterReenableDelay s = .next { s with dev := d } ∧ d.rails.offTenMs = (!s.dev.rails.pendingEnable) ∧
        d.rails.converter = s.dev.rails.pendingEnable) ∧
    (s.dev.rails.converter = true → s.dev.rails.latchedOff = false → s.dev.rails.tripHold = false → s.dev.rails.pg < 5 →
      exec .railPowerGood s =
        .next { s with dev := { s.dev with rails := { s.dev.rails with pg := s.dev.rails.pg + 1, offTenMs := false } } }) ∧
    (s.dev.rails.converter = true → s.dev.rails.latchedOff = false → s.dev.rails.tripHold = false → s.dev.rails.pg = 5 →
      ∃ d : Dev, exec .railPowerGood s = .next { s with dev := d } ∧ d.supAlive = true ∧ d.sys = {} ∧ d.pwr = {} ∧ d.sup = {} ∧ d.time = {} ∧
        d.queues = [] ∧ d.parts = [] ∧ d.disp = {} ∧ d.kpm = {} ∧ d.lnk = {} ∧ d.cnt = {} ∧ d.lck = {} ∧ d.fuse = s.dev.fuse ∧ d.fc = s.dev.fc)) ∧
  (∀ s : State,
    (∃ d : Dev, exec .hostPowerDown s = .next { s with dev := d } ∧ d.supAlive = false ∧ d.rails.pg = 0 ∧ d.sys = {} ∧ d.queues = [] ∧
      d.fuse = s.dev.fuse ∧ d.fc = s.dev.fc ∧ d.out = s.dev.out) ∧
    (∀ (n : Fin 6) (c : Fin 4), 2 ≤ s.dev.rails.pg → s.dev.rails.latchedOff = false →
      ∃ d : Dev, exec (.trip n c) s = .next { s with dev := d } ∧ d.supAlive = false ∧ d.rails.pg = 2 ∧ d.rails.tripHold = true ∧ d.thm.trip = true ∧
        (s.dev.thm.trip = false → d.thm.tripDom.toNat = n.val ∧ d.thm.tripCls.toNat = c.val) ∧
        (s.dev.thm.trip = true → d.thm.tripDom = s.dev.thm.tripDom ∧ d.thm.tripCls = s.dev.thm.tripCls) ∧
        d.thm.aon = s.dev.thm.aon ∧ d.fc = s.dev.fc) ∧
    (s.dev.rails.tripHold = true →
      exec .tripRelease s = .next { s with dev := { s.dev with rails := { s.dev.rails with tripHold := false } } }) ∧
    (s.dev.supAlive = true → (s.dev.dom 5).stopping = true → (s.dev.dom 5).srec.written = true →
      ∃ d : Dev, exec (.domain5PowerDown true) s = .next { s with dev := d } ∧ d.supAlive = false ∧ d.rails.pg = 1 ∧ d.rails.latchedOff = true ∧
        d.thm.trip = false ∧ d.fc = s.dev.fc))


/-- SMBus (02 R53, R54): the responder answers once AUX 3.3 V is up; a block read of command 0 at its address gives a count of 16, sixteen
bytes and the PEC over the whole transaction; of a write only address and command byte are acknowledged, and nothing changes. -/
def Obligations.SmbusResponder : Prop :=
  ∀ s : State,
    (2 ≤ s.dev.rails.pg → s.dev.rails.latchedOff = false →
      exec .smbusReady s = .next { s with dev := { s.dev with rails := { s.dev.rails with smbReady := true } } }) ∧
    (∀ (a : BitVec 7), s.dev.rails.smbReady = true → a.toNat = 0x58 + s.dev.pins.smbSel.toNat →
      (∃ b : List Byte, b.length = 16 ∧
        exec (.smbusBlockRead a 0) s = .next { s with dev := s.dev.emit (.smbus ([16] ++ b ++
          [BitVec.ofNat 8 (crc8 ([BitVec.ofNat 8 (2 * a.toNat), 0, BitVec.ofNat 8 (2 * a.toNat + 1), 16] ++ b))])) }) ∧
      ∀ (code : BitVec 8) (data : List (BitVec 8)),
        exec (.smbusWrite a code data) s = .next { s with dev := s.dev.emit (.smbusAck 2) })

/-- Voltage operating points (02 R50): a write of PWR_VOP by the management function gives each active site whose domain has not stopped its field, and the rails stay; when a site's change
is done, its rail holds the new point and the site is no longer busy. -/
def Obligations.VopChanges : Prop :=
  ∀ s : State,
    (∀ (v : BitVec 32) (t : Dev), s.dev.hostOk .pf = true → t = s.dev.hostTurn →
      ∃ d : Dev, exec (.pwrVopWrite .pf v) s = .next { s with dev := d } ∧
        (∀ n : Nat, n < 6 → t.csActive n = true → t.dieOut n = false → tget d.pwr.vop n 4 = BitVec.ofNat 3 (bf v.toNat (3 * n + 2) (3 * n))) ∧
        d.pwr.rail = s.dev.pwr.rail) ∧
    (∀ (n : Fin 6) (j : VopJob) (rest : List VopJob), s.dev.supAlive = true → s.dev.pwr.vopQ = j :: rest → j.site = n.val → j.begun = true →
      j.cmd = none → rest.all (fun x => x.site != n.val) = true →
      exec (.vopChangeDone n) s = .next { s with dev := { s.dev with pwr := { s.dev.pwr with
        rail := tset s.dev.pwr.rail n.val j.vop, vopQ := rest, busy := putBit s.dev.pwr.busy n.val false } } })


/-! The isolation barrier (spec/02_module_barrier.md). -/

/-- What the Facility Controller sends on its own (R58, R63): FAC_STATUS, its CAN state frame and its coolant event, each with the readings it was given. -/
def Obligations.FacilitySends : Prop :=
  ∀ (s : State) (r : FacReading), s.dev.fc.hk = true →
    exec (.facStatusPeriod r) s = .next { s with dev := { s.dev with
      out := s.dev.out ++ [.barrier .facility (frameBytes 0x01 s.dev.fc.seq (s.dev.facStatusPayload r))],
      fc := { s.dev.fc with seq := s.dev.fc.seq + 1 } } } ∧
    exec (.fcStateFramePeriod r) s = .next { s with dev := { s.dev with
      out := s.dev.out ++ [.can (0x200 + s.dev.fc.slot.toNat) (padTo 16 ([s.dev.fc.st.code] ++ s.dev.facStatusPayload r))] } } ∧
    exec (.coolantEvent r) s = .next { s with dev := { s.dev with
      out := s.dev.out ++ [.barrier .facility (frameBytes 0x04 s.dev.fc.seq (s.dev.facCoolantPayload r))]
        ++ [.can (0x280 + s.dev.fc.slot.toNat) (padTo 16 (s.dev.facCoolantPayload r))],
      fc := { s.dev.fc with seq := s.dev.fc.seq + 1 } } }

/-- CAN commands from the rack (R57, R58, Table 02-9): a frame of 16 bytes under its identifier becomes the barrier message it stands
for, which waits for its acknowledgement; a frame of another length, identifier or kind changes nothing. The derived cap (R44): below 44.0 V the FC computes I_LIM times the input voltage;
whether the rack's cap or the derived one changes, FAC_POWER_CAP goes out exactly where the cap in force moved by 25 W or more. -/
def Obligations.RackAndCaps : Prop :=
  (∀ (s : State) (f : CanFrame), s.dev.fc.hk = true →
    (f.foreign = false → f.data.length = 16 →
      (f.id = 0x080 → ∃ d : Dev, exec (.canFacShedNow f) s = .next { s with dev := d } ∧
        d.out = s.dev.out ++ [.barrier .facility (frameBytes 0x03 s.dev.fc.seq (f.data.take 12))] ∧
        d.fc.unacked = s.dev.fc.unacked ++ [{ typ := 0x03, seq := s.dev.fc.seq, payload := padTo 12 (f.data.take 12) }]) ∧
      (f.id = 0x0C0 + s.dev.fc.slot.toNat → ∃ d : Dev, exec (.canFacIsolateWarn f) s = .next { s with dev := d } ∧
        d.out = s.dev.out ++ [.barrier .facility (frameBytes 0x05 s.dev.fc.seq (f.data.take 12))] ∧
        d.fc.unacked = s.dev.fc.unacked ++ [{ typ := 0x05, seq := s.dev.fc.seq, payload := padTo 12 (f.data.take 12) }]) ∧
      (f.id = 0x100 + s.dev.fc.slot.toNat → ∃ d : Dev, exec (.canFacPowerCap f) s = .next { s with dev := d } ∧
        d.fc.rackCap = BitVec.ofNat 16 (fieldAt f.data 0 2) ∧ d.fc.derived = s.dev.fc.derived ∧ CapFollows s.dev d) ∧
      (f.id = 0x140 + s.dev.fc.slot.toNat → ∃ d : Dev, exec (.canFacIdentReq f) s = .next { s with dev := d } ∧ d.fc.identWait = s.dev.fc.identWait + 1 ∧
        d.out = s.dev.out ++ [.barrier .facility (frameBytes 0x06 s.dev.fc.seq [])] ∧ d.fc.unacked = s.dev.fc.unacked)) ∧
    (f.data.length ≠ 16 ∨ f.foreign = true →
      exec (.canFacShedNow f) s = .next s ∧ exec (.canFacIsolateWarn f) s = .next s ∧ exec (.canFacPowerCap f) s = .next s ∧
      exec (.canFacIdentReq f) s = .next s)) ∧
  (∀ s : State, s.dev.fc.hk = true →
    exec (.inputBelow44V true) s = .next { s with dev := { s.dev with fc := { s.dev.fc with below44 := true } } } ∧
    (∃ d : Dev, exec (.inputBelow44V false) s = .next { s with dev := d } ∧ d.fc.below44 = false ∧ d.fc.derived = none ∧ CapFollows s.dev d) ∧
    (∀ vin : Nat, s.dev.fc.below44 = true →
      ∃ d : Dev, exec (.derivedCapTick vin) s = .next { s with dev := d } ∧ d.fc.derived = some (iLim s.dev.fuse.variant * vin / 100) ∧
        d.fc.rackCap = s.dev.fc.rackCap ∧ CapFollows s.dev d))


/-- FAC_COOLANT posts PWR_EVENT.COOLANT and updates PWR_COOLANT, and nothing that throttles, sheds or caps changes (R69). -/
def Obligations.CoolantTakesNoAction : Prop :=
  ∀ (s : State) (f : Frame), s.dev.supAlive = true → frSound f = true → f.typ = 0x04#8 → s.dev.sup.rxLast ≠ some f.seq →
    ∃ d : Dev, exec (.facCoolant f) s = .next { s with dev := d } ∧
      d.pwr.evt = s.dev.pwr.evt ||| 4#6 ∧ d.pwr.inlet = BitVec.ofNat 16 (frField f 2 2) ∧ d.pwr.outlet = BitVec.ofNat 16 (frField f 4 2) ∧
      d.pwr.shed = s.dev.pwr.shed ∧ d.pwr.capW = s.dev.pwr.capW ∧ d.pwr.capSrc = s.dev.pwr.capSrc ∧ d.pwr.isoUntil = s.dev.pwr.isoUntil ∧
      d.pwr.isoHalt = s.dev.pwr.isoHalt ∧ d.thm = s.dev.thm ∧ d.disp = s.dev.disp ∧ d.queues = s.dev.queues ∧ d.mem = s.dev.mem ∧ d.fc = s.dev.fc

/-- Every other message of the Facility Controller that the Supervisor accepts (R63, R64, R66-R68): FAC_STATUS gives PWR_INPUT, FAC_POWER_CAP the cap in force,
FAC_SHED_NOW level 15 or HALT, FAC_ISOLATE_WARN the isolate count, FAC_IDENT_REQ its event, FAC_ACK ends the frame it names. -/
def Obligations.FacilityMessagesApply : Prop :=
  ∀ (s : State) (f : Frame), s.dev.supAlive = true → frSound f = true → s.dev.sup.rxLast ≠ some f.seq →
    (f.typ = 0x01#8 → ∃ d : Dev, exec (.facStatus f) s = .next { s with dev := d } ∧
      d.pwr.vIn = BitVec.ofNat 16 (frField f 0 2) ∧ d.pwr.iIn = BitVec.ofNat 16 (frField f 2 2) ∧ d.pwr.lost = false ∧ d.out = s.dev.out) ∧
    (f.typ = 0x02#8 → ∃ d : Dev, exec (.facPowerCap f) s = .next { s with dev := d } ∧
      d.pwr.capW = BitVec.ofNat 16 (frField f 0 2) ∧ (d.pwr.capSrc = 0#1 ↔ frByte f 2 = 0#8) ∧ (frByte f 2 = 0#8 → d.pwr.shed = 0#2) ∧
      d.pwr.evt = s.dev.pwr.evt ||| 1#6) ∧
    (f.typ = 0x03#8 → ∃ d : Dev, exec (.facShedNow f) s = .next { s with dev := d } ∧
      (frByte f 0 = 0#8 → d.thm.facLvl = 15#4 ∧ d.pwr.shed ≠ 0#2 ∧ d.pwr.evt = s.dev.pwr.evt ||| 2#6) ∧
      (frByte f 0 = 1#8 → d.pwr.shed = 2#2 ∧ d.facHalt = true ∧ d.pwr.evt = s.dev.pwr.evt ||| 2#6)) ∧
    (f.typ = 0x05#8 → ∃ d : Dev, exec (.facIsolateWarn f) s = .next { s with dev := d } ∧
      (frField f 0 2 = 0xFFFF → d.pwr.isoUntil = none ∧ d.pwr.isoHalt = false) ∧
      (frField f 0 2 ≠ 0xFFFF → d.pwr.isoUntil = some (s.dev.time.base + frField f 0 2 * 1000000)) ∧ d.pwr.evt = s.dev.pwr.evt ||| 8#6) ∧
    (f.typ = 0x06#8 → s.dev.fuseEnded = false → ∃ d : Dev, exec (.facIdentReq f) s = .next { s with dev := d } ∧
      d.pwr.evt = s.dev.pwr.evt ||| 32#6 ∧ d.sup.unacked = s.dev.sup.unacked) ∧
    (f.typ = 0x07#8 → ∃ d : Dev, exec (.facAck f) s = .next { s with dev := d } ∧
      d.sup.unacked = s.dev.sup.unacked.filter (fun u => !(u.typ == frByte f 0 && u.seq == frByte f 1)) ∧
      (frByte f 0 = 0x85#8 → d.pwr.pending = false) ∧ d.out = s.dev.out)

/-- Frames the Supervisor does not apply (R62, R65): one that arrives damaged or with an unknown TYPE is counted in CRC_ERR and nothing else happens; one
whose SEQ is that of the last one accepted is a duplicate: it is acknowledged again where its TYPE is acknowledged, and not applied. -/
def Obligations.FramesNotApplied : Prop :=
  ∀ (s : State) (f : Frame), s.dev.supAlive = true →
    (frSound f = false ∨ f.typ = 0x00#8 ∨ 0x07#8 < f.typ →
      exec (.facPowerCap f) s = .next { s with dev := { s.dev with pwr := { s.dev.pwr with crcErr := satAdd s.dev.pwr.crcErr 1 } } }) ∧
    (frSound f = true → f.typ = 0x02#8 → s.dev.sup.rxLast = some f.seq →
      ∃ d : Dev, exec (.facPowerCap f) s = .next { s with dev := d } ∧ d.pwr = s.dev.pwr ∧
        d.out = s.dev.out ++ [.barrier .host (frameBytes 0x87 s.dev.sup.seq [f.typ, f.seq])])

/-- Every message of the host side that the Facility Controller accepts (R58, R64, R65, R72): it goes to the rack as a CAN frame, but for HST_ACK, which ends
the frame it names; HST_STATUS is retained and ends HOST_SILENT; HST_IDENT ends the wait for it. -/
def Obligations.HostMessagesReachTheRack : Prop :=
  ∀ (s : State) (f : Frame), s.dev.fc.hk = true → frSound f = true → s.dev.fc.rxLast ≠ some f.seq →
    (f.typ = 0x81#8 → ∃ d : Dev, exec (.hstStatus f) s = .next { s with dev := d } ∧ d.fc.lastStatus = some (frHead f) ∧
      (s.dev.fc.st = .hostSilent → d.fc.st = .hostRunning) ∧ d.out = s.dev.out ++ [.can (0x240 + s.dev.fc.slot.toNat) (padTo 16 (frHead f))]) ∧
    (f.typ = 0x82#8 → ∃ d : Dev, exec (.hstStopRecord f) s = .next { s with dev := d } ∧
      d.out = s.dev.out ++ [.can (0x240 + s.dev.fc.slot.toNat) (padTo 16 (frHead f))]
        ++ [.barrier .facility (frameBytes 0x07 s.dev.fc.seq [f.typ, f.seq])]) ∧
    (f.typ = 0x83#8 → ∃ d : Dev, exec (.hstTripRecord f) s = .next { s with dev := d } ∧
      d.out = s.dev.out ++ [.can (0x240 + s.dev.fc.slot.toNat) (padTo 16 (frHead f))]
        ++ [.barrier .facility (frameBytes 0x07 s.dev.fc.seq [f.typ, f.seq])]) ∧
    (f.typ = 0x84#8 → ∃ d : Dev, exec (.hstIdent f) s = .next { s with dev := d } ∧ d.fc.identWait = s.dev.fc.identWait - 1 ∧
      d.out = s.dev.out ++ [.can (0x240 + s.dev.fc.slot.toNat) (padTo 16 (frHead f))]) ∧
    (f.typ = 0x85#8 → ∃ d : Dev, exec (.hstPowerReq f) s = .next { s with dev := d } ∧
      d.out = s.dev.out ++ [.can (0x240 + s.dev.fc.slot.toNat) (padTo 16 (frHead f))]
        ++ [.barrier .facility (frameBytes 0x07 s.dev.fc.seq [f.typ, f.seq])]) ∧
    (f.typ = 0x86#8 → ∃ d : Dev, exec (.hstThermal f) s = .next { s with dev := d } ∧
      d.out = s.dev.out ++ [.can (0x240 + s.dev.fc.slot.toNat) (padTo 16 (frHead f))] ∧ d.fc.unacked = s.dev.fc.unacked) ∧
    (f.typ = 0x87#8 → ∃ d : Dev, exec (.hstAck f) s = .next { s with dev := d } ∧ d.out = s.dev.out ∧
      d.fc.unacked = s.dev.fc.unacked.filter (fun u => !(u.typ == frByte f 0 && u.seq == frByte f 1)))

/-- Time on the barrier (R64, R68, R70-R72): an acked frame not acknowledged is sent again up to eight times and then abandoned; silence of the facility posts
BARRIER_LOST; silence of the host makes the FC HOST_SILENT; 20 ms before the isolate count ends FAC_HALT is in force; PWR_REQ with GO sends HST_POWER_REQ. -/
def Obligations.BarrierTimeouts : Prop :=
  ∀ s : State,
    (∀ (u : Unacked), s.dev.supAlive = true → s.dev.sup.unacked = [u] →
      (u.sends < 8 → exec (.barrierRetransmitTimeout .host u.seq) s = .next { s with dev := { s.dev with
        sup := { s.dev.sup with unacked := [{ u with sends := u.sends + 1 }] },
        out := s.dev.out ++ [.barrier .host (frameBytes u.typ u.seq u.payload)] } }) ∧
      (8 ≤ u.sends → ∃ d : Dev, exec (.barrierRetransmitTimeout .host u.seq) s = .next { s with dev := d } ∧ d.sup.unacked = [] ∧
        d.pwr.unackedN = satAdd s.dev.pwr.unackedN 1 ∧ d.out = s.dev.out ∧ (u.typ = 0x85#8 → d.pwr.failed = true ∧ d.pwr.pending = false))) ∧
    (s.dev.supAlive = true → ∃ d : Dev, exec .barrierLostTimeout s = .next { s with dev := d } ∧ d.pwr.lost = true ∧
      d.pwr.evt = s.dev.pwr.evt ||| 16#6) ∧
    (s.dev.fc.hk = true → s.dev.fc.st = .hostRunning → ∃ d : Dev, exec .hostSilentTimeout s = .next { s with dev := d } ∧ d.fc.st = .hostSilent ∧
      d.out = s.dev.out ++ (s.dev.fc.lastStatus.toList ++ s.dev.fc.stopRec).map (fun b => Out.can (0x240 + s.dev.fc.slot.toNat) (padTo 16 b))) ∧
    (s.dev.fc.hk = true → 0 < s.dev.fc.identWait → ∃ d : Dev, exec .identAnswerTimeout s = .next { s with dev := d } ∧
      d.fc.identWait + 1 = s.dev.fc.identWait) ∧
    (∀ t : Nat, s.dev.supAlive = true → s.dev.pwr.isoUntil = some t →
      ∃ d : Dev, exec .isolateHalt s = .next { s with dev := d } ∧ d.facHalt = true ∧ (∀ n : Nat, d.halt n = true)) ∧
    (∀ v : BitVec 32, s.dev.hostOk .pf = true → s.dev.pwr.pending = false → v.getLsbD 16 = true →
      ∃ d : Dev, exec (.pwrReqGo .pf v) s = .next { s with dev := d } ∧ d.pwr.pending = true ∧ d.pwr.reqW = v.setWidth 16 ∧
        d.out = s.dev.hostTurn.out ++ [.barrier .host (frameBytes 0x85 s.dev.sup.seq (leBytes 2 (v.setWidth 16).toNat))]) ∧
    (∀ w : BitVec 16, s.dev.supAlive = true → s.dev.fuseEnded = true →
      ∃ d : Dev, exec (.hstStatusPeriod w) s = .next { s with dev := d } ∧ d.thm.aon.length = 12 ∧ d.thm.aonAt = s.dev.time.base ∧
        d.out = s.dev.out ++ [.barrier .host (frameBytes 0x81 s.dev.sup.seq d.thm.aon)])

/-! From power to ready, the timebase and PCIe (spec/03_power_to_ready.md, spec/04_self_timed_fabric.md). -/

/-- The power-up sequence (R49, R74, R76, R77, R445): each phase ends into the next one, with its stamp; after ASSAY an undisturbed module sets SYS_READY once, with every
site at VOP4, a fresh session and its quiet period; a phase deadline ends the phase no earlier than its time; the quiet period's end lets requests out under the same session (16 R356). -/
def Obligations.PowerUpSequence : Prop :=
  ∀ (s : State) (r : PhaseResult), s.dev.supAlive = true →
    (s.dev.sys.phase = 1#4 → s.dev.pins.refclk = true → ∃ d : Dev, exec .clockPhaseEnd s = .next { s with dev := d } ∧ d.sys.phase = 2#4 ∧
      d.time.running = true ∧ d.time.base = 0 ∧ d.time.locked = true) ∧
    (s.dev.sys.phase = 2#4 → s.dev.thm.trip = false →
      (r.fuseFail.contains 5 = false → ∃ d : Dev, exec (.fusePhaseEnd r) s = .next { s with dev := d } ∧ d.sys.phase = 3#4 ∧ d.sys.fuseLoaded = true ∧
        d.sys.stFuse = BitVec.ofNat 32 s.dev.time.base) ∧
      (r.fuseFail.contains 5 = true → ∃ d : Dev, exec (.fusePhaseEnd r) s = .next { s with dev := d } ∧ d.sys.phase = 15#4 ∧ d.sys.failCause = 1#4 ∧
        d.sys.fuseLoaded = false)) ∧
    (s.dev.sys.phase = 3#4 → ∃ d : Dev, exec (.zfPhaseEnd r) s = .next { s with dev := d } ∧ d.sys.phase = 4#4 ∧ d.sys.stZf = BitVec.ofNat 32 s.dev.time.base) ∧
    (s.dev.sys.phase = 4#4 → ∃ d : Dev, exec (.memPhaseEnd r) s = .next { s with dev := d } ∧ d.sys.phase = 5#4) ∧
    (s.dev.sys.phase = 5#4 → ∃ d : Dev, exec (.assayPhaseEnd r) s = .next { s with dev := d } ∧ d.sys.phase = 6#4) ∧
    (s.dev.sys.phase = 6#4 → s.dev.sys.everReady = false → s.dev.lck.disturbed = false →
      ∃ d : Dev, exec .sysReadySet s = .next { s with dev := d } ∧ d.sys.ready = true ∧ d.sys.everReady = true ∧ d.sys.warm = false ∧ d.lnk.quiet = true ∧
        d.lnk.session ≠ s.dev.lnk.session ∧ (∀ n : Nat, tget d.pwr.vop n 4 = 4#3 ∧ tget d.pwr.rail n 4 = 4#3)) ∧
    (s.dev.sys.phase = 3#4 → s.dev.time.running = true → s.dev.time.base < 2 ^ 64 →
      ∃ d : Dev, exec (.phaseDeadline r) s = .next { s with dev := d } ∧ d.sys.phase = 4#4 ∧ 39800000 ≤ d.time.base) ∧
    (s.dev.sys.ready = true →
      (s.dev.lnk.rids = [] → exec .sessionQuietEnd s = .next { s with dev := { s.dev with lnk := { s.dev.lnk with quiet := false } } }) ∧
      ∃ d : Dev, exec .sessionQuietEnd s = .next { s with dev := d } ∧ d.lnk.quiet = false ∧ d.lnk.session = s.dev.lnk.session ∧ d.mem = s.dev.mem)

/-- The reference clock (04 R104): its loss puts a running timebase into holdover, seen until cleared; its return locks it again; the count goes on. Reading the timebase and the pace monitors (04 R98, R103): the lower half is returned and the upper half goes to the function's shadow; a pace window of exactly 1,000,000 ticks latches the
count of every monitor that runs with the next window number, and no other. -/
def Obligations.Timebase : Prop :=
  (∀ s : State, s.dev.time.running = true →
    (s.dev.time.holdover = false → ∃ d : Dev, exec .refclkLoss s = .next { s with dev := d } ∧ d.pins.refclk = false ∧ d.time.holdover = true ∧
      d.time.locked = false ∧ d.time.holdSeen = true ∧ d.time.base = s.dev.time.base) ∧
    (∃ d : Dev, exec .refclkReturn s = .next { s with dev := d } ∧ d.pins.refclk = true ∧ d.time.holdover = false ∧ d.time.locked = true ∧
      d.time.base = s.dev.time.base ∧ d.time.holdSeen = s.dev.time.holdSeen)) ∧
  (∀ s : State,
    (∀ fn : Fn, s.dev.hostOk fn = true →
      ∃ d : Dev, exec (.sysTimeLoRead fn) s = .next { s with dev := d } ∧ d.time.base = s.dev.hostTurn.time.base ∧
        d.out = s.dev.hostTurn.out ++ [.reg fn 0x80 (d.time.base % 2 ^ 32)] ∧
        tget d.time.shadow (fnKey fn) 0 = BitVec.ofNat 32 (d.time.base / 2 ^ 32 % 2 ^ 32) ∧
        (∀ g : Fn, g ≠ fn → tget d.time.shadow (fnKey g) 0 = tget s.dev.hostTurn.time.shadow (fnKey g) 0)) ∧
    (∀ counts : List (Nat × BitVec 24), s.dev.supAlive = true → s.dev.time.running = true →
      ∃ d : Dev, exec (.paceWindow counts) s = .next { s with dev := d } ∧ d.time.paceAt = s.dev.time.paceAt + 1000000 ∧
        (∀ k : Nat, k < 384 → s.dev.paceRuns k = true →
          (tget d.time.pace k {}).win = (tget s.dev.time.pace k {}).win + 1 ∧ (tget d.time.pace k {}).valid = true ∧
          (∀ v : BitVec 24, tget? counts k = some v → (tget d.time.pace k {}).pace = v)) ∧
        (∀ k : Nat, 384 ≤ k ∨ s.dev.paceRuns k = false → tget d.time.pace k {} = tget s.dev.time.pace k {})))


/-- Configuration requests (R86, R446): no answer without a link, Request Retry Status until FUSE has ended, then success. -/
def Obligations.ConfigurationRequests : Prop :=
  ∀ (s : State) (op : CfgOp),
    (s.dev.pcieUp = false → exec (.pcieConfigRequest .pf op) s = .next { s with dev := s.dev.emit (.noAnswer .pf false) }) ∧
    (s.dev.pcieUp = true → s.dev.fuseEnded = false → exec (.pcieConfigRequest .pf op) s = .next { s with dev := s.dev.emit (.cfg .pf false) }) ∧
    (s.dev.pcieUp = true → s.dev.fuseEnded = true →
      ∃ d : Dev, exec (.pcieConfigRequest .pf op) s = .next { s with dev := d } ∧ d.out = s.dev.out ++ [.cfg .pf true] ∧
        (∀ b : Bool, op = .setMse b → tget d.pcie.mse 0 false = b) ∧ (∀ b : Bool, op = .setVfEnable b → d.pcie.vfEnable = b) ∧
        (op = .read → d.pcie = s.dev.pcie))

/-- PERST# and the warm restart (R90): asserted on a module that is not ready, only the PCIe controller resets; asserted on a ready one, SYS_READY clears, no queue is left and a
restart is pending; deasserted, the restart counts from then; at its end SYS_READY is set with WARM, a new session and every site at VOP4. x is the module before the register writes that its units made. Function Level Resets (R91): of a VF, the registers of its partition that it can write return to their reset values; of the physical function, every queue is gone and,
once the module has been ready, a warm restart begins at once. x is the module before the register writes that its units made. -/
def Obligations.Resets : Prop :=
  (∀ s : State,
    (s.dev.sys.ready = false → s.dev.sys.warmPend = false →
      exec .perstAssert s = .next { s with dev := ({ s.dev with pins := { s.dev.pins with perst := true }, pcie := {} } : Dev).flushRegs {} }) ∧
    (s.dev.supAlive = true → s.dev.sys.ready = true →
      ∃ x : Dev, exec .perstAssert s = .next { s with dev := x.flushRegs {} } ∧ x.sys.ready = false ∧ x.sys.warmPend = true ∧ x.sys.warmStart = none ∧ x.queues = []) ∧
    (s.dev.supAlive = true → s.dev.sys.warmPend = true → s.dev.sys.warmStart = none →
      ∃ x : Dev, exec .perstDeassert s = .next { s with dev := x.flushRegs {} } ∧ x.pins.perst = false ∧ x.sys.warmStart = some s.dev.time.base ∧ x.queues = s.dev.queues) ∧
    (s.dev.sys.warmPend = false →
      exec .perstDeassert s = .next { s with dev := ({ s.dev with pins := { s.dev.pins with perst := false } } : Dev).flushRegs {} }) ∧
    (∀ t : Nat, s.dev.supAlive = true → s.dev.sys.warmPend = true → s.dev.sys.warmStart = some t → s.dev.pins.perst = false → s.dev.lck.disturbed = false →
      ∃ x : Dev, exec .warmRestartReady s = .next { s with dev := x.flushRegs {} } ∧ x.sys.ready = true ∧ x.sys.warm = true ∧ x.sys.warmPend = false ∧
        x.sys.stReady = BitVec.ofNat 32 (s.dev.time.base - t) ∧ x.lnk.quiet = true ∧ x.lnk.session ≠ s.dev.lnk.session ∧
        (∀ n : Nat, tget x.pwr.vop n 4 = 4#3 ∧ tget x.pwr.rail n 4 = 4#3))) ∧
  (∀ s : State, s.dev.supAlive = true →
    (∀ p : Fin 8, s.dev.cfgOk (.vf p) = true →
      ∃ x : Dev, exec (.vfFlr p) s = .next { s with dev := x.flushRegs {} } ∧ (x.part p.val).ctx = [] ∧ (x.part p.val).streams = [] ∧
        (x.part p.val).det = true ∧ (x.part p.val).outSat = false) ∧
    (s.dev.cfgOk .pf = true →
      ∃ x : Dev, exec .pfFlr s = .next { s with dev := x.flushRegs {} } ∧ x.queues = [] ∧ x.lpe = [] ∧
        (s.dev.sys.everReady = true → x.sys.warmPend = true ∧ (s.dev.sys.ready = true → x.sys.ready = false ∧ x.sys.warmStart = some s.dev.time.base))))


/-! The memory tiers (spec/06_bonded_slices.md, spec/07_hbm_tier.md). -/

/-- Every stored bit of a word is protected (06 R143, R144, Table 06-4): one flipped data bit is classed DATA at its place and one flipped check bit CHECKBIT, any two flipped data
bits are uncorrectable, and the poison encoding is classed POISON. -/
def Obligations.WordCode : Prop :=
  (∀ j : Nat, j < 256 → eccClass (dataFlipDiff j) = .data j) ∧
  (∀ j : Nat, j < 16 → eccClass (2 ^ j) = .checkbit (256 + j)) ∧
  (∀ i j : Nat, i < 256 → j < 256 → i ≠ j → (eccClass (dataFlipDiff i ^^^ dataFlipDiff j)).bad = true) ∧
  eccClass poisonDiff = .poison ∧ eccClass 0 = .clean

/-- A write of all 32 bytes of a slice word stores the new data with fresh check bits and completes OK whatever the old word was (06 R147); in a read-only slice nothing is written
and it answers E_RO_REGION (R155). -/
def Obligations.FullWordWrite : Prop :=
  ∀ (d : Dev) (acc : Acc) (w n c off : Nat) (b : List Byte), d.mem.wf = true → d.locate w = .slice n c off → b.length = 32 →
    ((d.slice n c).st ≠ 1#2 → d.isHeld w acc.slot = false →
      (d.writeWord acc w 0 b).2 = sOk ∧ (d.writeWord acc w 0 b).1.mem.bytes w 32 = b ∧ (d.writeWord acc w 0 b).1.mem.diff w = 0 ∧
      (∀ a : Nat, ¬(w ≤ a ∧ a < w + 32) → (d.writeWord acc w 0 b).1.mem.byte a = d.mem.byte a) ∧ (d.writeWord acc w 0 b).1.slc = d.slc) ∧
    ((d.slice n c).st = 1#2 → d.writeWord acc w 0 b = (d, sRoRegion))

/-- A read that finds a word with one flipped data bit corrects it where it lies, logs it and answers OK_CORRECTED; one that finds the poison encoding leaves it and answers
E_POISON_READ, though a scrub writes its poison again; any other uncorrectable word is rewritten with the poison encoding, where no exclusive hold keeps that back, and answers
E_UE (06 R146, R150, slices). -/
def Obligations.ReadsClassifyWords : Prop :=
  ∀ (d : Dev) (acc : Acc) (w n c off : Nat), d.mem.wf = true →
    (∀ j : Nat, j < 256 → d.mem.diff w = dataFlipDiff j →
      (d.touchWord acc w (.slice n c off)).2 = sCorrected ∧ (d.touchWord acc w (.slice n c off)).1.mem.diff w = 0 ∧
      (d.touchWord acc w (.slice n c off)).1.mem.byte (w + j / 8) = d.mem.byte (w + j / 8) ^^^ BitVec.ofNat 8 (2 ^ (j % 8)) ∧
      (∀ a : Nat, a ≠ w + j / 8 → (d.touchWord acc w (.slice n c off)).1.mem.byte a = d.mem.byte a)) ∧
    (eccClass (d.mem.diff w) = .poison →
      (d.touchWord acc w (.slice n c off)).2 = sPoison ∧ (acc.src ≠ 2 → (d.touchWord acc w (.slice n c off)).1.mem = d.mem) ∧
      (acc.src = 2 → d.isHeld w acc.slot = false → (d.touchWord acc w (.slice n c off)).1.mem.diff w = poisonDiff)) ∧
    (eccClass (d.mem.diff w) = .ue → d.isHeld w acc.slot = false →
      (d.touchWord acc w (.slice n c off)).2 = sUe ∧ (d.touchWord acc w (.slice n c off)).1.mem.diff w = poisonDiff ∧
      (∀ a : Nat, ¬(w ≤ a ∧ a < w + 32) → (d.touchWord acc w (.slice n c off)).1.mem.byte a = d.mem.byte a)) ∧
    (d.mem.diff w = 0 → d.touchWord acc w (.slice n c off) = (d, sOk))

/-- Work of the slices on their own (06 R141, R150, R152, R153): refresh, a burst of the scrubber, the end of a repair sweep, and a CA parity error, of which fewer than four
within 1 ms are only counted. A slice leaves service (06 R155, R157): at the end of its evacuation time, or at once by FENCE_NOW of the management function, a read-only core is fenced, SLC_EVT.FENCED is set and the
class is broken by CORE; a layer-wide failure loses the whole stack. x is the module before the register writes that its units made. -/
def Obligations.Slices : Prop :=
  (∀ s : State, s.dev.supAlive = true →
    (exec .sliceRefresh s = .next { s with dev := { s.dev with slc := { s.dev.slc with refresh := s.dev.slc.refresh + 1 } } }) ∧
    (∀ (n : Fin 6) (c : Fin 64) (e : Env), s.dev.coreLive n.val c.val = true → (s.dev.slice n.val c.val).burst + 1 ≠ sliceBursts →
      ∃ d : Dev, exec (.sliceScrubBurst n c e) s = .next { s with dev := d } ∧ (d.slice n.val c.val).burst = (s.dev.slice n.val c.val).burst + 1) ∧
    (∀ (n : Fin 6) (c : Fin 64) (o : Fin 8) (e : Env), (s.dev.slice n.val c.val).sweeping.contains o.val = true →
      ∃ d : Dev, exec (.repairSweepDone n c o e) s = .next { s with dev := d } ∧
        (d.slice n.val c.val).sweeping = (s.dev.slice n.val c.val).sweeping.filter (fun x => x != o.val) ∧
        (d.slice n.val c.val).st = (s.dev.slice n.val c.val).st) ∧
    (∀ (n : Fin 6) (c : Fin 64) (o : Fin 8) (f : CaFault), s.dev.coreLive n.val c.val = true → f.again = false →
      (tget (s.dev.slice n.val c.val).caTimes o.val []).length < 3 →
      ∃ d : Dev, exec (.caParityError n c o f {}) s = .next { s with dev := d } ∧
        tget (d.slice n.val c.val).caTimes o.val [] =
          (s.dev.time.base :: tget (s.dev.slice n.val c.val).caTimes o.val []).filter (fun t => s.dev.time.base < t + 1000000) ∧
        (d.slice n.val c.val).st = (s.dev.slice n.val c.val).st ∧ d.slc.evt = s.dev.slc.evt)) ∧
  (∀ s : State,
    (∀ (n : Fin 6) (c : Fin 64) (t : Nat), s.dev.supAlive = true → s.dev.coreLive n.val c.val = true → (s.dev.slice n.val c.val).st = 1#2 →
      (s.dev.slice n.val c.val).evacAt = some t →
      ∃ x : Dev, exec (.evacExpiry n c) s = .next { s with dev := x.flushRegs {} } ∧ (x.slice n.val c.val).st = 2#2 ∧ (x.slice n.val c.val).evacAt = none ∧
        x.slc.evt.getLsbD 6 = true ∧ x.sys.cause.getLsbD 2 = true) ∧
    (∀ (n : Fin 6) (c : Fin 64), s.dev.hostOk .pf = true → s.dev.hostTurn.coreLive n.val c.val = true → (s.dev.hostTurn.slice n.val c.val).st = 1#2 →
      ∃ x : Dev, exec (.slcCtlFenceNow .pf (BitVec.ofNat 32 (c.val + 64 * n.val))) s = .next { s with dev := x.flushRegs {} } ∧
        (x.slice n.val c.val).st = 2#2 ∧ x.slc.evt.getLsbD 6 = true ∧ x.sys.cause.getLsbD 2 = true) ∧
    (∀ n : Fin 6, s.dev.supAlive = true → s.dev.csActive n.val = true → s.dev.slc.lost.getLsbD n.val = false →
      ∃ x : Dev, exec (.layerResourceFail n) s = .next { s with dev := x.flushRegs {} } ∧ x.slc.lost.getLsbD n.val = true ∧ x.slc.evt.getLsbD 7 = true ∧
        x.sys.cause.getLsbD 7 = true))


/-- Work of the HBM stacks on their own (07 R162, R166, R171, R174): refresh, a burst of the patrol, the end of a CA retrain, of which a failed one maps the pseudo-channel out, and
temperature reads, of which one that does not come or lies out of range shows the sensor as failed, and after which a TAP operation that waits at the port has been applied (19 R409). The re-form of the pools (07 R170): refused and shown while a partition holds HBM or one is in progress; otherwise it runs, and at its end the map is formed over the pseudo-channels
active then. -/
def Obligations.HbmStacks : Prop :=
  (∀ s : State, s.dev.supAlive = true →
    (exec .hbmRefresh s = .next { s with dev := { s.dev with hbm := { s.dev.hbm with refresh := s.dev.hbm.refresh + 1 } } }) ∧
    (∀ (h : Fin 12) (p : Fin 32) (e : Env), s.dev.pcActive h.val p.val = true → tget (s.dev.stack h.val).word p.val 0 + 32 < s.dev.pcWords →
      ∃ d : Dev, exec (.hbmScrubBurst h p e) s = .next { s with dev := d } ∧ tget (d.stack h.val).word p.val 0 = tget (s.dev.stack h.val).word p.val 0 + 32) ∧
    (∀ (h : Fin 12) (p : Fin 32), s.dev.pcActive h.val p.val = true →
      (∃ d : Dev, exec (.hbmCaRetrainDone h p true) s = .next { s with dev := d } ∧ d.hbm.evt = s.dev.hbm.evt ||| 64#9 ∧ d.pcActive h.val p.val = true) ∧
      (∃ d : Dev, exec (.hbmCaRetrainDone h p false) s = .next { s with dev := d } ∧ d.pcActive h.val p.val = false ∧ d.hbm.evt.getLsbD 4 = true ∧
        d.sys.cause.getLsbD 6 = true)) ∧
    (∀ (h : Fin 12) (t : Int), s.dev.stackHere h.val = true →
      (-10 ≤ t → t < 103 → exec (.hbmTempRead h t) s =
        .next { s with dev := (s.dev.setStack h.val { s.dev.stack h.val with temp := BitVec.ofInt 8 t, sensorOk := true }).portFree }) ∧
      (103 ≤ t → t ≤ 125 → ∃ d : Dev, exec (.hbmTempRead h t) s = .next { s with dev := d } ∧ d.rails.tripHold = true ∧ d.thm.trip = true ∧ d.supAlive = false) ∧
      (125 < t → ∃ d : Dev, exec (.hbmTempRead h t) s = .next { s with dev := d } ∧ (d.stack h.val).sensorOk = false ∧ d.hbm.evt = s.dev.hbm.evt ||| 128#9 ∧
        d.lck.port1500 = false) ∧
      (∃ d : Dev, exec (.hbmTempReadTimeout h) s = .next { s with dev := d } ∧ (d.stack h.val).sensorOk = false ∧ d.hbm.evt = s.dev.hbm.evt ||| 128#9))) ∧
  (∀ s : State,
    (∀ v : BitVec 32, s.dev.hostOk .pf = true → s.dev.hostTurn.hbm.busy = false → s.dev.hostTurn.livePart = [] →
      ∃ d : Dev, exec (.hbmCtlReform .pf v) s = .next { s with dev := d } ∧ d.hbm.busy = true ∧ d.hbm.form = s.dev.hostTurn.hbm.form) ∧
    (∀ v : BitVec 32, s.dev.hostOk .pf = true → s.dev.hostTurn.hbm.busy = true →
      ∃ d : Dev, exec (.hbmCtlReform .pf v) s = .next { s with dev := d } ∧ d.hbm.refused = true ∧ d.hbm.busy = true) ∧
    (s.dev.supAlive = true → s.dev.hbm.busy = true →
      ∃ d : Dev, exec .reformDone s = .next { s with dev := d } ∧ d.hbm.busy = false ∧ d.hbm.form = s.dev.formList ∧ d.hbm.evt.getLsbD 8 = true))


/-! The die fabric and addressing (spec/08_die_fabric.md, spec/09_addressing.md). -/

/-- ZF ports and the Remote Line Caches (08 R181, R185): a parity failure is counted and its flit sent again until the sixteenth within 1 ms; a purge empties every
cache and shows BUSY until it is done. -/
def Obligations.FabricCommands : Prop :=
  ∀ s : State,
    (∀ (j : Fin 7) (hit : List Nat), s.dev.supAlive = true → (tget s.dev.zf.ports j.val {}).st = 1#2 → (tget s.dev.zf.ports j.val {}).fails.length < 15 →
      ∃ x : Dev, exec (.zfParityFail j hit) s = .next { s with dev := x.flushRegs {} } ∧ (tget x.zf.ports j.val {}).st = 1#2 ∧
        (tget x.zf.ports j.val {}).parityErr = satAdd (tget s.dev.zf.ports j.val {}).parityErr 1 ∧
        (tget x.zf.ports j.val {}).replays = satAdd (tget s.dev.zf.ports j.val {}).replays 1 ∧ x.disp = s.dev.disp) ∧
    (∀ v : BitVec 32, s.dev.hostOk .pf = true →
      exec (.zfRlcPurgeAll .pf v) s = .next { s with dev := ({ s.dev.hostTurn with zf := { s.dev.hostTurn.zf with rlc := [], rlcBusy := true } } : Dev).flushRegs {} }) ∧
    (s.dev.supAlive = true →
      exec .purgeAllDone s = .next { s with dev := ({ s.dev with zf := { s.dev.zf with rlcBusy := false } } : Dev).flushRegs {} })

/-- Messages of the partner die (08 R191-R194): one whose CRC does not hold is counted; a response to a request that was given up counts as late; a request that waits 50 us is given up
and counted; a request outside the aperture is answered with ERROR; the loss of the link makes the site PARTNER_FAILED with CAUSE 7. -/
def Obligations.PartnerPort : Prop :=
  ∀ (s : State), s.dev.supAlive = true → s.dev.partnerReady = true →
    (∀ m : List Byte, prtCrcOk m = false →
      exec (.partnerResponse m {}) s = .next { s with dev := { s.dev with zf := { s.dev.zf with errCrc := satAdd s.dev.zf.errCrc 1 } } }) ∧
    (∀ (m : List Byte) (r : PrtReq), prtCrcOk m = true → fieldAt m 0 1 = 3 → s.dev.zf.reqs = [r] → r.ptag = some (fieldAt m 4 2) →
      (r.dead = true → ∃ d : Dev, exec (.partnerResponse m {}) s = .next { s with dev := d } ∧ d.zf.reqs = [] ∧ d.zf.errLate = satAdd s.dev.zf.errLate 1) ∧
      (r.dead = false → r.sync = false → r.wr = false → fieldAt m 2 1 = 0 → ∃ d : Dev, exec (.partnerResponse m {}) s = .next { s with dev := d } ∧ d.zf.reqs = [] ∧
        d.dmaCh = (s.dev.dmaPiece (chKey r.cplx r.ch) r.q r.tag r.off (padTo r.take (((m.drop 64).drop r.skip).take r.take))).dmaCh)) ∧
    (∀ (r : PrtReq) (t : Nat), s.dev.zf.reqs = [r] → r.ptag = some t → r.dead = false →
      ∃ d : Dev, exec (.partnerResponseTimeout t {}) s = .next { s with dev := d } ∧ d.zf.reqs = [{ r with dead := true }] ∧
        d.zf.errTimeout = satAdd s.dev.zf.errTimeout 1) ∧
    (∀ m : List Byte, prtCrcOk m = true → fieldAt m 0 1 = 1 → fieldAt m 1 1 = 0 → s.dev.zf.prtInit = false →
      exec (.partnerInboundRequest m {}) s = .next { s with dev := { s.dev with
        zf := { s.dev.zf with errRefused := satAdd s.dev.zf.errRefused 1 }
        out := s.dev.out ++ [.partner (prtMsg 3 0 2 (fieldAt m 4 2) 0 [])] } }) ∧
    (∀ m : List Byte, prtCrcOk m = true → fieldAt m 0 1 = 1 → fieldAt m 1 1 = 0 → s.dev.zf.prtInit = true →
      s.dev.canon s.dev.zf.inBase.toNat = mkDpa 0 0 → fieldAt m 8 6 + 64 ≤ s.dev.zf.inSize.toNat * 2 ^ 20 → fieldAt m 8 6 + 64 ≤ 2 ^ 44 →
      (s.dev.inKvPages (mkDpa 0 0 + fieldAt m 8 6) 64 = true →
        exec (.partnerInboundRequest m {}) s = .next { s with dev := { s.dev with
          zf := { s.dev.zf with errRefused := satAdd s.dev.zf.errRefused 1 }
          out := s.dev.out ++ [.partner (prtMsg 3 0 2 (fieldAt m 4 2) 0 [])] } }) ∧
      (s.dev.inKvPages (mkDpa 0 0 + fieldAt m 8 6) 64 = false →
        ∃ (r : RdR) (st : Nat), r = s.dev.readBytes {} (mkDpa 0 0 + fieldAt m 8 6) 64 ∧
          exec (.partnerInboundRequest m {}) s = .next { s with dev := r.d.emit (.partner (prtMsg 3 0 st (fieldAt m 4 2) 0 (if st = 0 then r.bytes else []))) } ∧
          (st = 0 ↔ isExc r.st = false) ∧ (st = 1 ↔ r.st = sPoison))) ∧
    (s.dev.zf.reqs = [] → ∃ d : Dev, exec (.partnerLinkLoss {}) s = .next { s with dev := d } ∧ d.siteSt 4 = 4#4 ∧ d.zf.prtSt = 3#3 ∧ d.zf.prtCause = 7#4 ∧
      d.sys.cause.getLsbD 1 = true)

/-- BAR4 (09 R209, R210): the physical function reads what it wrote. With no earlier BAR4 write kept back by an exclusive hold, a write of a whole HBM word in the formed extent, then a read of it, answers the data
written, with EP clear, and every byte of memory outside the word is as it was; an offset beyond the formed extent reads zero. A write whose granule is held exclusively is kept back, and changes no memory (10 R235); a read lets the
writes kept back be performed before it (10 R223). -/
def Obligations.Bar4ReadsWhatItWrote : Prop :=
  ∀ (s : State) (off : Nat) (b : List Byte), s.dev.hostOk .pf = true → s.dev.mem.wf = true → b.length = 32 → off % 32 = 0 →
    (∀ len : Nat, ∃ d : Dev, exec (.bar4Read .pf off len {}) s = .next { s with dev := d } ∧ ∃ r : Dev × List Byte × Bool, r = s.dev.hostTurn.bar4Read .pf {} off len ∧ d = r.1.emit (.bar4 .pf r.2.1 r.2.2)) ∧
    ((∀ x ∈ s.dev.kpm.held, x.bar4 = false) →
    (∀ h p w : Nat, off + 32 ≤ s.dev.formedGranules * 4096 → off < 2 ^ 44 → s.dev.locate (mkDpa 0 off) = .hbm h p w false → s.dev.isHeld (mkDpa 0 off) none = false →
      ∃ d : Dev, exec (.bar4Write .pf off b {}) s = .next { s with dev := d } ∧
        (∀ a : Nat, ¬(mkDpa 0 off ≤ a ∧ a < mkDpa 0 off + 32) → d.mem.byte a = s.dev.mem.byte a) ∧
        ∃ d' : Dev, exec (.bar4Read .pf off 32 {}) { s with dev := d } = .next { s with dev := d' } ∧ d'.mem = d.mem ∧
          ∃ l : List Out, d'.out = d.out ++ l ++ [.bar4 .pf b false]) ∧
    (∀ h p w : Nat, off + 32 ≤ s.dev.formedGranules * 4096 → off < 2 ^ 44 → s.dev.locate (mkDpa 0 off) = .hbm h p w false → s.dev.isHeld (mkDpa 0 off) none = true →
      ∃ (d : Dev) (x : HeldW), exec (.bar4Write .pf off b {}) s = .next { s with dev := d } ∧ d.mem = s.dev.mem ∧ d.kpm.held = s.dev.kpm.held ++ [x] ∧
        x.addr = mkDpa 0 off ∧ x.bytes = b ∧ x.bar4 = true) ∧
    (s.dev.formedGranules * 4096 ≤ off →
      ∃ d : Dev, exec (.bar4Read .pf off 32 {}) s = .next { s with dev := d } ∧ d.mem = s.dev.mem ∧
        ∃ l : List Out, d.out = s.dev.out ++ l ++ [.bar4 .pf (List.replicate 32 0) false]))

/-! Ordering, translation and partitions: commands on packets (spec/09_addressing.md, spec/10_ordering.md, spec/12_command_reference.md). In the statements on packets, x is the module before
the register writes that its units made through space 0xF; with none waiting, that is the next state's module. -/

/-- With no register write waiting, applying them changes nothing (21 R436). -/
def Obligations.NoRegisterWriteWaits : Prop :=
  (∀ (d : Dev) (e : Env), d.disp.regq = [] → d.flushRegs e = d) ∧ (∀ (d : Dev) (e : Env), (d.flushRegs e).disp.regq = [])

/-- NOP completes OK with RESULT zero; BARRIER drains the store buffers that hold writes of its queue, and completes once every packet ahead of it has completed and its writes are performed, and then no slot has a
reservation; FLUSH completes once the packets that had their status entries when it was taken have every write performed; each waits otherwise (10 R226, R229, R230, R234, 12 R268). -/
def Obligations.OrderingPackets : Prop :=
  ∀ (s : State) (q : QRef) (tag : BitVec 16) (p : Pkt) (e : Env),
    (Runs s.dev q tag 0x00 p →
      ∃ x : Dev, exec (.nop q tag) s = .next { s with dev := x.flushRegs {} } ∧ DoneRes x q tag (thenSt sOk p.status) 0 ∧ x.mem = s.dev.mem ∧
        x.queues = s.dev.queues ∧ x.parts = s.dev.parts ∧ x.kpm = s.dev.kpm ∧ x.out = s.dev.out) ∧
    (Runs s.dev q tag 0x01 p →
      ∀ (d : Dev) (y : Pkt), d = (s.dev.applyEnv e).drainQueue e p.q → d.pkt? q tag = some y → y.ord = p.ord →
        (d.aheadDone p = true →
          ∃ x : Dev, exec (.barrier q tag e) s = .next { s with dev := x.flushRegs e } ∧ DoneRes x q tag (thenSt sOk y.status) 0 ∧ x.mem = d.mem ∧
            (∀ k : Nat, (x.kslot k).gran = none)) ∧
        (d.aheadDone p = false → exec (.barrier q tag e) s = .next { s with dev := d.flushRegs e })) ∧
    (Runs s.dev q tag 0x04 p →
      (s.dev.writesPend (fun _ o => p.flush.contains o) = false →
        ∃ x : Dev, exec (.flush q tag) s = .next { s with dev := x.flushRegs {} } ∧ DoneWith x q tag (thenSt sOk p.status) ∧ x.mem = s.dev.mem) ∧
      (s.dev.writesPend (fun _ o => p.flush.contains o) = true →
        exec (.flush q tag) s = .next { s with dev := s.dev.flushRegs {} }))

/-- Atomic operations (10 R232, 12 Table 12-3, 16 R362): on a word of core SRAM or a slice that holds no error, is in no exclusive hold and is not read-only, ADD stores the sum modulo 2^64, SET the operand,
and the old value is answered; every other byte is as it was. -/
def Obligations.AtomicWords : Prop :=
  ∀ (d : Dev) (acc : Acc) (w o n c off operand : Nat), d.mem.wf = true → d.mem.diff w = 0 → d.canon (w + o) = w + o → w % 32 = 0 → o % 8 = 0 → o < 32 →
    d.locate w = .sram n c off → d.locate (w + o) = .sram n c (off + o) → d.isHeld w acc.slot = false → acc.site = none → operand < 2 ^ 64 →
    ∃ old : Nat, old = leNat (d.mem.bytes (w + o) 8) ∧
      (d.atomicAt acc (w + o) 0 true operand 0).2 = (sOk, old) ∧
      (d.atomicAt acc (w + o) 0 true operand 0).1.mem.bytes (w + o) 8 = leBytes 8 ((old + operand) % 2 ^ 64) ∧
      (d.atomicAt acc (w + o) 1 true operand 0).2 = (sOk, old) ∧
      (d.atomicAt acc (w + o) 1 true operand 0).1.mem.bytes (w + o) 8 = leBytes 8 operand ∧
      (∀ a : Nat, ¬(w + o ≤ a ∧ a < w + o + 8) → (d.atomicAt acc (w + o) 0 true operand 0).1.mem.byte a = d.mem.byte a)

/-- SIGNAL on a word of this module (10 R232): the store buffers that hold its queue's writes drain first; once no write of a packet ahead of it waits, the word is set or added to in one indivisible access, and
every WAIT on that word reads it again; until then it waits. WAIT (12 R269): it reads its word and completes with the value read where COND holds, and waits where it does not; WAIT_POLL reads it again; WAIT_TIMEOUT completes it with E_TIMEOUT and the last value
read, no earlier than its deadline. -/
def Obligations.SignalAndWait : Prop :=
  (∀ (s : State) (q : QRef) (tag : BitVec 16) (p : Pkt) (e : Env) (a0 a : Nat) (l : Leaf) (d : Dev), Runs s.dev q tag 0x02 p →
    leafDpa p.leaves (p.f 1 47 0) = some (a0, l) → s.dev.canon a0 = a → isLocal a = true → dpaSpace a ≤ 2 → p.waitRid = 0 →
    d = (s.dev.meet e (some (qOwner q))).drainQueue e p.q →
    (d.writesPend (fun r o => r == p.q && o < p.ord) = true → exec (.signal q tag e) s = .next { s with dev := d.flushRegs e }) ∧
    (d.writesPend (fun r o => r == p.q && o < p.ord) = false →
    ∀ r : Dev × BitVec 16 × Nat, r = d.atomicAt (p.acc e) a (if bit (p.word 3) 0 then 0 else 1) true (p.word 2) 0 →
      (isExc r.2.1 = false → exec (.signal q tag e) s =
        .next { s with dev := ((Dev.conclude p { d := r.1, res := r.2.2, wrote := [(a, 8)] }).wakeWaits e a).flushRegs e }) ∧
      (isExc r.2.1 = true → exec (.signal q tag e) s = .next { s with dev := (r.1.close p r.2.1 0).flushRegs e }))) ∧
  (∀ (s : State) (q : QRef) (tag : BitVec 16) (p : Pkt) (e : Env), Runs s.dev q tag 0x03 p →
    (∀ (a : Nat) (l : Leaf) (r : RdR), leafDpa p.leaves (p.f 1 47 0) = some (a, l) → isLocal ((s.dev.meet e (some (qOwner q))).canon a) = true →
      r = (s.dev.meet e (some (qOwner q))).readBytes { p.acc e with imm := l.imm } ((s.dev.meet e (some (qOwner q))).canon a) 8 →
      isExc r.st = false → r.d.disp = s.dev.disp →
      (waitMet (p.f 3 1 0) (leNat r.bytes) (p.word 2) = true →
        (∃ x : Dev, exec (.wait q tag e) s = .next { s with dev := x.flushRegs e } ∧ DoneRes x q tag (thenSt sOk p.status) (leNat r.bytes)) ∧
        (p.waitRid ≠ 0 →
          ∃ x : Dev, exec (.waitPoll q tag e) s = .next { s with dev := x.flushRegs e } ∧ DoneRes x q tag (thenSt sOk p.status) (leNat r.bytes))) ∧
      (waitMet (p.f 3 1 0) (leNat r.bytes) (p.word 2) = false →
        ∃ (x : Dev) (p' : Pkt), exec (.wait q tag e) s = .next { s with dev := x.flushRegs e } ∧ x.pkt? q tag = some p' ∧ p'.phase = .started ∧
          p'.wanted = BitVec.ofNat 64 (leNat r.bytes))) ∧
    (∀ t : Nat, p.deadline = some t → p.waitRid ≠ 0 →
      ∃ x : Dev, exec (.waitTimeout q tag) s = .next { s with dev := x.flushRegs {} } ∧ DoneRes x q tag (thenSt sTimeout p.status) p.wanted.toNat ∧
        (s.dev.time.running = true → s.dev.time.base < 2 ^ 64 → t < 2 ^ 64 → t ≤ x.time.base)))


/-- INVALIDATE (09 R207): where no other packet of the owner is in flight, it completes OK, and no cached translation of the context overlaps the range any more; those of other contexts and owners stay. -/
def Obligations.InvalidateDropsTranslations : Prop :=
  ∀ (s : State) (q : QRef) (tag : BitVec 16) (p : Pkt) (e : Env) (o : Nat), Runs s.dev q tag 0x05 p → p.deadline = none →
    o = (if bit (p.word 1) 7 then p.f 1 6 4 else p.owner) → (∀ y ∈ s.dev.disp.pkts, y.ord ≠ p.ord → y.owner ≠ o) →
    ∃ x : Dev, exec (.invalidate q tag e) s = .next { s with dev := x.flushRegs e } ∧ DoneWith x q tag (thenSt sOk p.status) ∧
      (∀ t ∈ x.disp.tlb, t.owner = o → t.ctx = p.f 1 3 0 → t.dva < p.f 2 47 0 + p.f 3 47 0 → ¬(p.f 2 47 0 < t.dva + t.size)) ∧
      (∀ t ∈ s.dev.disp.tlb, t.owner ≠ o ∨ t.ctx ≠ p.f 1 3 0 → t ∈ x.disp.tlb) ∧ x.mem = (s.dev.applyEnv e).mem

/-- PART_CREATE (09 R214, R215): an absent partition whose set is present and free, with a core group, takes the set, and every byte of its memory but the partner window reads zero; otherwise it answers E_BAD_PARAM and
no partition changes. PART_RESIZE and PART_DESTROY (09 R216, R217): a resize with no packet of the partition in flight gives it exactly the new set; a destroy with none in flight leaves it absent, with nothing held and no queue; both
answer E_BAD_PARAM for an absent partition. Each of the three waits while an earlier one of them runs on the partition (12 R275). -/
def Obligations.Partitions : Prop :=
  (∀ (s : State) (q : QRef) (tag : BitVec 16) (p : Pkt) (e : Env), s.dev.partBusy p (p.f 1 2 0) = true →
    (Runs s.dev q tag 0x60 p → exec (.partCreate q tag) s = .next { s with dev := s.dev.flushRegs {} }) ∧
    (Runs s.dev q tag 0x61 p → p.waitRid = 0 → exec (.partResize q tag e) s = .next { s with dev := (s.dev.applyEnv e).flushRegs e }) ∧
    (Runs s.dev q tag 0x62 p → s.dev.abortOf q tag = none → exec (.partDestroy q tag e) s = .next { s with dev := (s.dev.applyEnv e).flushRegs e })) ∧
  (∀ (s : State) (q : QRef) (tag : BitVec 16) (p : Pkt), Runs s.dev q tag 0x60 p → s.dev.partBusy p (p.f 1 2 0) = false →
    ((s.dev.part (p.f 1 2 0)).st = 0#2 → s.dev.setFree (p.f 1 2 0) p.partSet = true → s.dev.setPresent p.partSet = true → p.partSet.groups ≠ 0 →
      ∃ x : Dev, exec (.partCreate q tag) s = .next { s with dev := x.flushRegs {} } ∧ DoneWith x q tag (thenSt sOk p.status) ∧
        (x.part (p.f 1 2 0)).st = 1#2 ∧ (x.part (p.f 1 2 0)).held = p.partSet ∧
        (∀ r ∈ ({ p.partSet with partner := false } : PartSet).memory, ∀ a : Nat, r.1 ≤ a → a < r.1 + r.2 → x.mem.byte a = 0)) ∧
    ((s.dev.part (p.f 1 2 0)).st = 1#2 →
      ∃ x : Dev, exec (.partCreate q tag) s = .next { s with dev := x.flushRegs {} } ∧ DoneWith x q tag (thenSt sBadParam p.status) ∧ x.parts = s.dev.parts ∧ x.mem = s.dev.mem)) ∧
  (∀ (s : State) (q : QRef) (tag : BitVec 16) (p : Pkt) (e : Env), s.dev.partBusy p (p.f 1 2 0) = false →
    (Runs s.dev q tag 0x61 p → p.waitRid = 0 →
      ((s.dev.part (p.f 1 2 0)).st = 1#2 → p.partSet.groups ≠ 0 → s.dev.setPresent (p.partSet.minus (s.dev.part (p.f 1 2 0)).held) = true →
        s.dev.setFree (p.f 1 2 0) (p.partSet.minus (s.dev.part (p.f 1 2 0)).held) = true → (∀ y ∈ s.dev.disp.pkts, y.owner ≠ p.f 1 2 0) →
        ∃ x : Dev, exec (.partResize q tag e) s = .next { s with dev := x.flushRegs e } ∧ (x.part (p.f 1 2 0)).st = 1#2 ∧ (x.part (p.f 1 2 0)).held = p.partSet) ∧
      ((s.dev.part (p.f 1 2 0)).st = 0#2 →
        ∃ x : Dev, exec (.partResize q tag e) s = .next { s with dev := x.flushRegs e } ∧ DoneWith x q tag (thenSt sBadParam p.status) ∧ x.parts = s.dev.parts)) ∧
    (Runs s.dev q tag 0x62 p → s.dev.abortOf q tag = none →
      ((s.dev.part (p.f 1 2 0)).st = 1#2 → (∀ y ∈ s.dev.disp.pkts, y.owner ≠ p.f 1 2 0) → s.dev.disp.aborts = [] →
        ∃ x : Dev, exec (.partDestroy q tag e) s = .next { s with dev := x.flushRegs e } ∧ (x.part (p.f 1 2 0)).st = 0#2 ∧
          (x.part (p.f 1 2 0)).held = (⟨0, 0, 0, 0, false⟩ : PartSet) ∧ (∀ k : Nat, k / 64 = p.f 1 2 0 → tget? x.queues k = none)) ∧
      ((s.dev.part (p.f 1 2 0)).st = 0#2 →
        ∃ x : Dev, exec (.partDestroy q tag e) s = .next { s with dev := x.flushRegs e } ∧ DoneWith x q tag (thenSt sBadParam p.status) ∧ x.parts = s.dev.parts)))


/-- SET_VOP asks for its change and waits; the end of that change completes it with the VOP before it (02 R50, 12 R276). ESC_REQUEST sets the host source of its domain, with the sender as owner, and answers the effective
level and HALT (17 R377). -/
def Obligations.VopAndEscapementPackets : Prop :=
  ∀ (s : State) (q : QRef) (tag : BitVec 16) (p : Pkt),
    (Runs s.dev q tag 0x80 p → p.waitRid = 0 →
      ∃ (x : Dev) (j : VopJob), exec (.setVop q tag) s = .next { s with dev := x.flushRegs {} } ∧ x.pwr.vopQ = s.dev.pwr.vopQ ++ [j] ∧ j.site = p.f 1 2 0 ∧
        j.vop = BitVec.ofNat 3 (p.f 1 10 8) ∧ j.cmd = some (p.q, p.tag) ∧ tget x.pwr.vop (p.f 1 2 0) 4 = BitVec.ofNat 3 (p.f 1 10 8) ∧ x.pwr.rail = s.dev.pwr.rail) ∧
    (∀ (n : Fin 6) (j : VopJob), Runs s.dev q tag 0x80 p → s.dev.pwr.vopQ = [j] → j.site = n.val → j.begun = true → j.cmd = some (q, tag) →
      ∃ d : Dev, exec (.vopChangeDone n) s = .next { s with dev := d } ∧ DoneRes d q tag (thenSt sOk p.status) j.before.toNat ∧ d.pwr.vopQ = [] ∧
        tget d.pwr.rail n.val 4 = j.vop) ∧
    (Runs s.dev q tag 0x81 p →
      ∃ x : Dev, exec (.escRequest q tag) s = .next { s with dev := x.flushRegs {} } ∧ DoneRes x q tag (thenSt sOk p.status) (x.level (p.f 1 3 0) + 16 * b2n (x.halt (p.f 1 3 0))) ∧
        (x.dom (p.f 1 3 0)).hostLvl = BitVec.ofNat 4 (p.f 1 11 8) ∧ (x.dom (p.f 1 3 0)).hostHalt = bit (p.word 1) 12 ∧
        (x.dom (p.f 1 3 0)).hostOwner = BitVec.ofNat 4 p.owner ∧ (∀ n : Nat, n ≠ p.f 1 3 0 → x.dom n = s.dev.dom n) ∧ x.mem = s.dev.mem)

/-! Queues, the Dispatcher and ABORT (spec/11_queues_packets.md). -/

/-- Q_CTL and Q_IRQ (R239, R240, R245): ENABLE of a queue whose registers pass the checks starts it; of one that fails them it stays disabled and shows the CAUSE; ENABLE written 0 leaves it with head, tails and window cleared; a
vector beyond the function's makes a write of Q_IRQ ignored. t is the module once the function's earlier BAR4 writes are performed; with none kept back it is the module itself. -/
def Obligations.QueueControl : Prop :=
  ∀ (s : State) (fn : Fn) (q : QRef) (v : BitVec 32) (t : Dev), s.dev.hostOk fn = true → t = s.dev.hostTurn → t.mayQueue fn q = true →
    (v.getLsbD 31 = false → (t.queue q).enable = false →
      (t.enableCause q (t.queue q) = 0 →
        ∃ x : Dev, exec (.qCtlEnable fn q v) s = .next { s with dev := x.flushRegs {} } ∧ (x.queue q).enable = true ∧ (x.queue q).st = 1#2 ∧ (x.queue q).cause = 0#3 ∧
          (x.queue q).sqBase = (t.queue q).sqBase ∧ x.mem = t.mem ∧ (∀ r : QRef, qKey r ≠ qKey q → x.queue r = t.queue r)) ∧
      (t.enableCause q (t.queue q) ≠ 0 →
        ∃ x : Dev, exec (.qCtlEnable fn q v) s = .next { s with dev := x.flushRegs {} } ∧ (x.queue q).enable = false ∧
          (x.queue q).cause = BitVec.ofNat 3 (t.enableCause q (t.queue q)))) ∧
    (∀ e : Env, v.getLsbD 31 = false → (t.queue q).enable = true →
      ∃ x : Dev, exec (.qCtlDisable fn q ⟨v, e⟩) s = .next { s with dev := x.flushRegs e } ∧ (x.queue q).enable = false ∧ (x.queue q).st = 0#2 ∧ (x.queue q).sqHead = 0#16 ∧
        (x.queue q).sqTail = 0#16 ∧ (x.queue q).cqTail = 0#16 ∧ (x.queue q).cqHead = 0#16 ∧ (x.queue q).window = []) ∧
    (v.toNat / 2 % 128 ≤ (if qOwner q = 8 then 16 else 64) →
      ∃ x : Dev, exec (.qIrqWrite fn q v) s = .next { s with dev := x.flushRegs {} } ∧ (x.queue q).irqEn = v.getLsbD 0 ∧ (x.queue q).irqVec.toNat = v.toNat / 2 % 128 ∧
        (x.queue q).irqCount.toNat = v.toNat / 256 % 256 ∧ (x.queue q).irqTime.toNat = v.toNat / 65536) ∧
    ((if qOwner q = 8 then 16 else 64) < v.toNat / 2 % 128 → exec (.qIrqWrite fn q v) s = .next { s with dev := t.flushRegs {} })

/-- Doorbells (R242, R255, 10 R236): one that is no 32-bit write, lies outside the ring or meets a disabled queue is ignored and counted; CQ_HEAD frees completion entries; SQ_TAIL shows new packets, or is held while an ABORT
covers the queue. t and u are the module once the BAR4 writes made before the doorbell are performed. -/
def Obligations.Doorbells : Prop :=
  ∀ (s : State) (fn : Fn) (page : Fin 64) (q : QRef) (bits : Nat) (v : BitVec 32) (e : Env) (t u : Dev), s.dev.hostOk fn = true → doorbellQueue fn page = some q →
    t = s.dev.hostTurn → u = (t.applyEnv e).awaitHeld e (fun h => h.bar4 && h.owner == some (qOwner q)) → t.queueExists q = true →
    (bits ≠ 32 ∨ (t.queue q).enable = false ∨ (t.queue q).cqSize ≤ v.toNat % 65536 →
      ∃ x : Dev, exec (.cqHead fn page bits v) s = .next { s with dev := x.flushRegs {} } ∧ x.queue q = { t.queue q with badDb := satAdd (t.queue q).badDb 1 } ∧ x.disp = t.disp) ∧
    (bits ≠ 32 ∨ (u.queue q).enable = false ∨ (u.queue q).sqSize ≤ v.toNat % 65536 →
      ∃ x : Dev, exec (.sqTail fn page bits v e) s = .next { s with dev := x.flushRegs e } ∧ x.queue q = { u.queue q with badDb := satAdd (u.queue q).badDb 1 } ∧ x.disp = u.disp) ∧
    ((t.queue q).enable = true → v.toNat % 65536 < (t.queue q).cqSize →
      ∃ x : Dev, exec (.cqHead fn page 32 v) s = .next { s with dev := x.flushRegs {} } ∧ x.queue q = { t.queue q with cqHead := v.setWidth 16 } ∧ x.disp = t.disp) ∧
    ((u.queue q).enable = true → v.toNat % 65536 < (u.queue q).sqSize → u.aborting q = true →
      ∃ x : Dev, exec (.sqTail fn page 32 v e) s = .next { s with dev := x.flushRegs e } ∧ x.queue q = { u.queue q with heldTail := some (v.setWidth 16) } ∧ x.disp = u.disp) ∧
    ((u.queue q).enable = true → v.toNat % 65536 < (u.queue q).sqSize → u.aborting q = false →
      exec (.sqTail fn page 32 v e) s = .next { s with dev :=
        ((u.setQueue q { u.queue q with sqTail := v.setWidth 16, heldTail := none }).findAborts q).flushRegs e })

/-- The Dispatcher takes the packet at the head of the queue it selects (R243, R244, R246-R248): where the ring reads whole and the checks of the header fail, it is in flight and done with that status, and the head is past it; a
ring that cannot be read stops its queue with CAUSE 5. A taken packet starts (R244, R248): not while a packet ahead of it in its queue holds it back or its dependency is not met; with E_ABORTED in place of running where the packet it depends on failed and CHAIN_ON_ERROR is clear; a
management packet that needs no unit starts at once otherwise. -/
def Obligations.PacketsTakenAndStarted : Prop :=
  (∀ (s : State) (e : Env) (q : QRef) (h : Header), s.dev.supAlive = true → (s.dev.applyEnv e).selectQueue = some (q, h) →
    ∀ r : Dev × List (BitVec 64) × BitVec 16, r = (s.dev.applyEnv e).readPacket e q ((s.dev.applyEnv e).queue q).sqHead.toNat h.len →
    (isExc r.2.2 = true →
      ∃ x : Dev, exec (.packetTake e) s = .next { s with dev := x.flushRegs e } ∧ (x.queue q).st = 3#2 ∧ (x.queue q).cause = 5#3) ∧
    (isExc r.2.2 = false → isExc ((r.1.takeTurn q h).headerStatus q h) = true →
      ∃ (x : Dev) (p : Pkt), exec (.packetTake e) s = .next { s with dev := x.flushRegs e } ∧ x.disp.pkts = r.1.disp.pkts ++ [p] ∧ p.q = q ∧ p.tag = BitVec.ofNat 16 h.tag ∧
        p.phase = .done ∧ p.status = (r.1.takeTurn q h).headerStatus q h ∧ (x.queue q).lastTaken = BitVec.ofNat 16 h.tag)) ∧
  (∀ (s : State) (q : QRef) (tag : BitVec 16) (p : Pkt), s.dev.supAlive = true → s.dev.pkt? q tag = some p → p.phase = .taken →
    (s.dev.heldBack p = true ∨ p.depMet = false → exec (.packetStart q tag) s = .next { s with dev := s.dev.flushRegs {} }) ∧
    (s.dev.heldBack p = false → p.depMet = true → isExc p.depSt = true → bit p.flg.toNat 3 = false →
      ∃ x : Dev, exec (.packetStart q tag) s = .next { s with dev := x.flushRegs {} } ∧
        DoneRes x q tag (thenSt sAborted p.status) (p.dep.toNat + 65536 * p.depSt.toNat)) ∧
    (s.dev.heldBack p = false → p.depMet = true → isExc p.depSt = false → p.opc = 0x00#8 → s.dev.haltedFor p = false → s.dev.pktCores p = [] → p.coreMask = none →
      ∃ (x : Dev) (p' : Pkt), exec (.packetStart q tag) s = .next { s with dev := x.flushRegs {} } ∧ x.pkt? q tag = some p' ∧ p'.phase = .started ∧ x.queues = s.dev.queues))


/-- A packet whose effect is done, with no digest due and room in its completion ring, leaves once its writes are performed (R249, R252, 10 R221, R226, R237, 18 R397): its cores' buffers drain, an exclusive hold that keeps one of its
writes, or its entry, back ends first, it is in flight no more, the completion tail has moved one entry and its tag is the newest of the window. A DMA packet with FLG.FENCE waits for the responses to its writes (10 R231). -/
def Obligations.PacketCompletes : Prop :=
  ∀ (s : State) (q : QRef) (tag : BitVec 16) (e : Env) (p : Pkt), s.dev.supAlive = true → s.dev.pkt? q tag = some p → p.phase = .done → p.trig = [] →
    (s.dev.queue q).cqFree ≠ 0 →
    (bit p.flg.toNat 0 = true → s.dev.sentWrites p.ord = true → exec (.packetComplete q tag e) s = .next { s with dev := (s.dev.applyEnv e).flushRegs e }) ∧
    (∀ (d : Dev) (y : Pkt) (w : WrR), bit p.flg.toNat 0 = false ∨ s.dev.sentWrites p.ord = false → d = (s.dev.applyEnv e).settle e p → d.pkt? q tag = some y → y.hit = false →
      w = d.writeBytes { owner := some (qOwner q), env := e } ((s.dev.queue q).cqBase.toNat + 16 * (s.dev.queue q).cqTail.toNat)
        (statusEntry y.tag y.status (d.stampOn e y.die) y.result) →
      ∃ x : Dev, exec (.packetComplete q tag e) s = .next { s with dev := x.flushRegs e } ∧ (∀ z ∈ x.disp.pkts, z.ord ≠ y.ord) ∧
        (x.queue q).cqTail = BitVec.ofNat 16 (((s.dev.queue q).cqTail.toNat + 1) % (s.dev.queue q).cqSize) ∧
        (x.queue q).window = ({ tag := y.tag, opc := y.opc, status := y.status, result := y.result } :: (s.dev.queue q).window).take 256 ∧
        x.mem = (w.d.awaitHeld e (fun h => overlaps h.addr h.bytes.length (w.d.canon ((s.dev.queue q).cqBase.toNat + 16 * (s.dev.queue q).cqTail.toNat)) 16)).mem)

/-- The time trigger of a queue posts its vector once its oldest entry is old enough (R245); a ring that cannot be read stops its queue (R239, decided case). -/
def Obligations.QueueEvents : Prop :=
  ∀ (s : State) (q : QRef), s.dev.supAlive = true →
    (∀ t : Nat, (s.dev.queue q).oldest = some t → (s.dev.queue q).irqEn = true → (s.dev.queue q).irqVec ≠ 0#7 → (s.dev.queue q).irqTime ≠ 0#16 → (s.dev.queue q).unsig ≠ 0 →
      ∃ x : Dev, exec (.irqTimeTrigger q) s = .next { s with dev := x.flushRegs {} } ∧ x.out = s.dev.out ++ [.msix (ownerFn (qOwner q)) (s.dev.queue q).irqVec.toNat] ∧
        (x.queue q).unsig = 0 ∧ (x.queue q).oldest = none) ∧
    ((s.dev.queue q).enable = true →
      ∃ x : Dev, exec (.ringReadError q) s = .next { s with dev := x.flushRegs {} } ∧ (x.queue q).st = 3#2 ∧ (x.queue q).cause = 5#3 ∧ (x.queue q).enable = true)

/-- ABORT (R254-R256, Table 11-4): acted on, its job counts what it cancelled and keeps the units that did not come to rest; at 300 us those are reset and their packets end; when every packet it covers has its entry, the ABORT ends. -/
def Obligations.AbortSteps : Prop :=
  ∀ (s : State) (q : QRef) (tag : BitVec 16) (e : Env) (a : AbortEnv) (j : AbortJob), s.dev.supAlive = true → s.dev.abortOf q tag = some j →
    (j.acted = false → ∀ (lim : Option (QRef × Nat)) (r : Dev × Nat × List Nat), lim = (if j.reg then none else some (q, j.slot)) →
      r = (s.dev.applyEnv e).cancelScope e a sAborted j.target lim →
      exec (.abort q tag a e) s = .next { s with dev := (r.1.setAbort { j with acted := true, cancelled := r.2.1, stuck := r.2.2 }).flushRegs e }) ∧
    (j.acted = true → j.stuck = [] →
      ∃ x : Dev, exec (.abortResetTimeout q tag e) s = .next { s with dev := x.flushRegs e } ∧ x.disp.pkts = s.dev.disp.pkts ∧ x.queues = s.dev.queues ∧
        x.disp.aborts = s.dev.disp.aborts.map (fun y => if y.q == j.q && y.tag == j.tag && y.reg == j.reg then j else y)) ∧
    (∀ p : Pkt, j.acted = true → s.dev.disp.pkts = [p] → j.stuck = [p.ord] → p.phase = .started → p.opc = 0x10#8 → p.on = [] → p.core = none → e.ab.mix = [] →
      s.dev.slotFor p.q p.tag = none → s.dev.lnk.rids = [] →
      ∃ x : Dev, exec (.abortResetTimeout q tag e) s = .next { s with dev := x.flushRegs e } ∧ DoneWith x p.q p.tag sAbortForced ∧
        (x.queue p.q).aborted = satAdd (s.dev.queue p.q).aborted 1 ∧ (s.dev.time.running = true → s.dev.time.base < 2 ^ 63 → j.start < 2 ^ 63 → j.start + 300000 ≤ x.time.base) ∧
        x.disp.aborts = s.dev.disp.aborts.map (fun y => if y.q == j.q && y.tag == j.tag && y.reg == j.reg then
          { j with stuck := [], cancelled := j.cancelled + 1, resets := j.resets + 1 } else y)) ∧
    (j.acted = true → j.reg = true → j.kind ≠ .destroy → (∀ y ∈ s.dev.disp.pkts, y.q ≠ q) → j.target = [q] → (s.dev.queue q).heldTail = none →
      ∃ x : Dev, exec (.abortComplete q tag e) s = .next { s with dev := x.flushRegs e } ∧ (x.queue q).lastAbort = (if j.resets = 0 then 1#2 else 2#2) ∧
        (∀ y ∈ x.disp.aborts, ¬(y.q = some q ∧ y.tag = tag ∧ y.reg = true)))

/-- Q_CTL.ABORT of an enabled queue (R254): LAST_ABORT shows an abort in progress, the queue aborts, and an ABORT job covers just that queue and has been acted on; with no packet in flight nothing is cancelled and no unit has to be
reset. On a disabled queue it ends at once. -/
def Obligations.RegisterAbort : Prop :=
  ∀ (s : State) (fn : Fn) (q : QRef) (v : QWrite) (t : Dev), s.dev.hostOk fn = true → t = s.dev.hostTurn → t.mayQueue fn q = true → v.v.getLsbD 0 = true → v.v.getLsbD 31 = true →
    ((t.queue q).enable = true → (t.queue q).st = 1#2 → (t.queue q).sqHead = (t.queue q).sqTail → t.disp.pkts = [] → t.abortOf q 0#16 = none →
      ∃ (x : Dev) (j : AbortJob), exec (.qCtlAbort fn q v) s = .next { s with dev := x.flushRegs v.e } ∧ (x.queue q).lastAbort = 3#2 ∧ (x.queue q).st = 2#2 ∧
        (x.queue q).enable = true ∧ x.abortOf q 0#16 = some j ∧ j.target = [q] ∧ j.acted = true ∧ j.cancelled = 0 ∧ j.stuck = [] ∧ j.reg = true ∧ j.start = t.time.base) ∧
    ((t.queue q).enable = false → t.enableCause q (t.queue q) ≠ 0 →
      ∃ x : Dev, exec (.qCtlAbort fn q v) s = .next { s with dev := x.flushRegs v.e } ∧ (x.queue q).lastAbort = 1#2 ∧ x.disp.aborts = t.disp.aborts)

/-! The arrays, the vector unit and attention (spec/05_cores_arrays.md, spec/12_command_reference.md, spec/15_attention_verify.md). -/

/-- Operations of the arrays and the vector unit run where HALT does not hold their units (05 R115-R127, 12 R270): the effect is done, its
RESULT where nothing failed is the one of Tables 12-4 and 12-5, and nothing but data changes; where HALT holds a unit, nothing runs; a pause that
ends leaves the unit idle (17 R373); an entry of a store buffer is issued in order (10 R225). -/
def Obligations.TensorCommands : Prop :=
  ∀ (s : State) (q : QRef) (tag : BitVec 16) (e : Env) (p : Pkt) (d : Dev), d = s.dev.meet e (some (qOwner q)) →
    (∀ (c : Instr) (op : Nat), (c, op) ∈ [(Instr.gemm q tag e, 0x10), (Instr.gemmT q tag e, 0x11), (Instr.convAsGemm q tag e, 0x12)] → Runs s.dev q tag op p →
      (d.unitsHeld p = true → exec c s = .next { s with dev := d.flushRegs e }) ∧
      (d.unitsHeld p = false →
        ∃ (x : Dev) (p' : Pkt), exec c s = .next { s with dev := x.flushRegs e } ∧ x = Dev.conclude p (d.opGemm p e) ∧ Kept s.dev x ∧
          x.pkt? q tag = some p' ∧ p'.phase = .done ∧
          (isExc p'.status = false → p'.result = BitVec.ofNat 64
            (((if op = 0x12 then p.conv.batch * p.conv.oh * p.conv.ow else p.shape.m) + 63) / 64 * (((if op = 0x12 then (p.td 0 1).cols else p.shape.n) + 63) / 64)
              % 2 ^ 32 + 2 ^ 32 * b2n p.det)))) ∧
    (∀ (c : Instr) (op res : Nat) (f : Dev → OpR), (c, op, res) ∈ [(Instr.vxuOp q tag e, 0x13, (p.td 1 1).rows * (p.td 1 1).cols),
        (Instr.norm q tag e, 0x14, (p.td 0 0).rows % 2 ^ 32), (Instr.optimStep q tag e, 0x15, p.f 1 39 0)] → Runs s.dev q tag op p →
        f = (if op = 0x13 then fun d => d.opVxu p e else if op = 0x14 then fun d => d.opNorm p e else fun d => d.opOptim p e) →
      (d.unitsHeld p = true → exec c s = .next { s with dev := d.flushRegs e }) ∧
      (d.unitsHeld p = false →
        ∃ (x : Dev) (p' : Pkt), exec c s = .next { s with dev := x.flushRegs e } ∧ x = Dev.conclude p (f d) ∧ Kept s.dev x ∧
          x.pkt? q tag = some p' ∧ p'.phase = .done ∧ (isExc p'.status = false → p'.result = BitVec.ofNat 64 res))) ∧
    (∀ (site : Fin 6) (core : Fin 64) (u : Fin 6), s.dev.supAlive = true →
      (s.dev.halt site.val = false → exec (.escapementPauseEnd site core u) s = .next { s with dev :=
        (Dev.flushRegs { s.dev with units := tdel s.dev.units (6 * coreKey site.val core.val + u.val) } {}) }) ∧
      (s.dev.halt site.val = true → exec (.escapementPauseEnd site core u) s = .next { s with dev := s.dev.flushRegs {} })) ∧
    (∀ (site : Fin 6) (core : Fin 64) (x : SbEntry) (l : List SbEntry), s.dev.supAlive = true → s.dev.sbOf (coreKey site.val core.val) = x :: l →
      exec (.storeBufferIssue site core e) s = .next { s with dev :=
        ((((s.dev.applyEnv e).setSb (coreKey site.val core.val) l).issueEntry e (coreKey site.val core.val) x)).flushRegs e })

/-- Attention and VERIFY (15 R328-R340): ATTEND and ATTEND_BUCKETS write their rows and count them in RESULT; VERIFY keeps its tree, if it reads and
has the shape of R332, and runs its stream packet by packet; acceptance waits for the end of the stream and then either cancels or commits: a
VERIFY that ends is kept no longer. -/
def Obligations.AttentionCommands : Prop :=
  ∀ (s : State) (q : QRef) (tag : BitVec 16) (e : Env) (p : Pkt) (d : Dev), d = s.dev.meet e (some (qOwner q)) →
    (∀ (c : Instr) (op : Nat), (c, op) ∈ [(Instr.attend q tag e, 0x20), (Instr.attendBuckets q tag e, 0x21)] → Runs s.dev q tag op p → d.unitsHeld p = false →
      ∃ (x : Dev) (p' : Pkt), exec c s = .next { s with dev := x.flushRegs e } ∧ x = Dev.conclude p (d.opAttend p e none 0) ∧ Kept s.dev x ∧
        x.pkt? q tag = some p' ∧ p'.phase = .done ∧
        (isExc p'.status = false → p'.result.toNat % 2 ^ 32 = (p.seqs.foldl (fun n y => n + y.qLen) 0) % 2 ^ 32)) ∧
    (Runs s.dev q tag 0x22 p → d.unitsHeld p = false → d.verify? p = none →
      ∀ r : RdR, r = d.readP p e (p.f 2 47 0) (16 * p.f 6 6 0) →
      (isExc r.st = false → treeShape (treeOf r.bytes) (p.f 6 12 8) = true → (p.f 6 17 16 = 0 ∨ draftsOk (treeOf r.bytes) = true) →
        ∃ (x : Dev) (v : RunVerify), exec (.verify q tag e) s = .next { s with dev := x.flushRegs e } ∧ Kept s.dev x ∧ x.disp.verifies = r.d.disp.verifies ++ [v] ∧
          v.q = p.q ∧ v.tag = p.tag ∧ v.tree = treeOf r.bytes ∧ v.ended = false ∧ v.pages = [] ∧ x.disp.pkts = r.d.disp.pkts) ∧
      (isExc r.st = false → treeShape (treeOf r.bytes) (p.f 6 12 8) = false →
        ∃ x : Dev, exec (.verify q tag e) s = .next { s with dev := x.flushRegs e } ∧ Kept s.dev x ∧ DoneWith x q tag sBadParam ∧ x.disp.verifies = r.d.disp.verifies)) ∧
    (∀ v : RunVerify, Runs s.dev q tag 0x22 p → d.verify? p = some v →
      (v.ended = true → exec (.verifyStreamPacket q tag e) s = .next { s with dev := d.flushRegs e }) ∧
      (v.ended = false → exec (.verifyStreamPacket q tag e) s = .next { s with dev := (d.stepStream p e).flushRegs e } ∧
        (isExc (d.readStream p e v.off 64).st = true →
          ∃ x : Dev, exec (.verifyStreamPacket q tag e) s = .next { s with dev := x.flushRegs e } ∧
            (∃ st : BitVec 16, isExc st = true ∧ DoneWith x q tag st) ∧ x.verify? p = none)) ∧
      (v.ended = false → d.unitsHeld p = false → exec (.verifyAcceptance q tag e) s = .next { s with dev := d.flushRegs e }) ∧
      (v.ended = true → d.unitsHeld p = false →
        ∃ (x : Dev) (p' : Pkt), exec (.verifyAcceptance q tag e) s = .next { s with dev := x.flushRegs e } ∧ x.verify? p = none ∧
          x.pkt? q tag = some p' ∧ p'.phase = .done))

/-! KV pages and the Arbor (spec/14_kv_pages_arbor.md, spec/10_ordering.md). -/

/-- KV pages (14 R298, R305-R308): KV_ALLOC takes the units it needs and returns the first descriptor and the count, or E_POOL_EMPTY with nothing taken;
KV_FREE, KV_COMMIT and KV_ROLLBACK of a page the packet owns end with the references, the rows kept and discarded; a page the packet does not own is
E_NOT_OWNER, which KV_FREE logs, a free one E_DOUBLE_FREE. KV_APPEND refuses rows that do not fit, and returns the descriptor it wrote. -/
def Obligations.KvPages : Prop :=
  ∀ (s : State) (q : QRef) (tag : BitVec 16) (e : Env) (p : Pkt) (d : Dev), d = s.dev.meet e (some (qOwner q)) → p.q = q →
    (∀ (k : Nat) (po : Pool), Runs s.dev q tag 0x30 p → k = poolKey (p.f 1 2 0) (p.f 1 13 8) → po = d.pool k → p.f 1 2 0 < 6 → d.poolOk k = true →
      1 ≤ p.f 1 23 16 → p.f 1 23 16 ≤ 64 → (if po.kind then p.f 1 27 24 ≤ 8 else p.f 1 27 24 = 0) → (p.owner = 8 ∨ po.owner.toNat = p.owner) →
      (allocMany k (po.unitsOf (p.f 1 27 24 + 4)) (p.f 1 23 16) d [] = none →
        ∃ x : Dev, exec (.kvAlloc q tag e) s = .next { s with dev := x.flushRegs e } ∧ Kept s.dev x ∧ DoneWith x q tag sPoolEmpty ∧ (x.pool k).alloc = po.alloc ∧ x.mem = d.mem) ∧
      (∀ (d2 : Dev) (l : List Nat), allocMany k (po.unitsOf (p.f 1 27 24 + 4)) (p.f 1 23 16) d [] = some (d2, l) →
        (∀ i ∈ l, d.dpaOk p.owner (d.descOf k i) 32 = true ∧
          d.dpaOk p.owner (d.canon po.base.toNat + i * po.unitBytes) (po.pageBytes (if po.kind then p.f 1 27 24 + 4 else 8)) = true) →
        ∃ (x : Dev) (p' : Pkt), exec (.kvAlloc q tag e) s = .next { s with dev := x.flushRegs e } ∧ Kept s.dev x ∧
          (x.pool k).alloc = po.alloc ++ l.map (fun i => (i, po.unitsOf (p.f 1 27 24 + 4))) ∧ x.pkt? q tag = some p' ∧ p'.phase = .done ∧
          (isExc p'.status = false → p'.result = BitVec.ofNat 64 (d.descOf k (l.headD 0) + 2 ^ 56 * p.f 1 23 16)))) ∧
    (∀ (k : Nat) (y : PDesc), Names d p e k y →
      (Runs s.dev q tag 0x32 p → y.ref = 0 →
        ∃ x : Dev, exec (.kvFree q tag e) s = .next { s with dev := x.flushRegs e } ∧ Kept s.dev x ∧ DoneWith x q tag sDoubleFree ∧
          x.kpm.last = BitVec.ofNat 56 (d.canon p.descA) ∧ x.kpm.evt.getLsbD 0 = true) ∧
      (∀ (c : Instr) (op : Nat), (c, op) ∈ [(Instr.kvAppend q tag e, 0x31), (Instr.kvFree q tag e, 0x32), (Instr.kvCommit q tag e, 0x33), (Instr.kvRollback q tag e, 0x34)] →
        Runs s.dev q tag op p → y.ref ≠ 0 → (op = 0x31 → p.f 3 15 0 ≠ 0 ∧ (p.f 3 19 16 = 6 ∨ p.f 3 19 16 = 7 ∨ p.f 3 19 16 = 8)) → d.ownsPage q y = false →
        ∃ x : Dev, exec c s = .next { s with dev := x.flushRegs e } ∧ Kept s.dev x ∧ DoneWith x q tag sNotOwner ∧
          (op = 0x32 → x.kpm.last = BitVec.ofNat 56 (d.canon p.descA) ∧ x.kpm.evt.getLsbD 1 = true)) ∧
      (Runs s.dev q tag 0x32 p → y.ref ≠ 0 → d.ownsPage q y = true → (2 ≤ y.ref ∨ (y.shared = false ∧ y.pinned = false)) → p.status = sOk →
        ∃ x : Dev, exec (.kvFree q tag e) s = .next { s with dev := x.flushRegs e } ∧ Kept s.dev x ∧ DoneRes x q tag sOk (y.ref - 1)) ∧
      (Runs s.dev q tag 0x34 p → y.ref ≠ 0 → d.ownsPage q y = true → p.status = sOk →
        ∃ x : Dev, exec (.kvRollback q tag e) s = .next { s with dev := x.flushRegs e } ∧ Kept s.dev x ∧ DoneRes x q tag sOk (2 ^ 16 * y.tlen)) ∧
      (Runs s.dev q tag 0x33 p → y.ref ≠ 0 → d.ownsPage q y = true → p.f 3 6 0 = 0 → p.status = sOk →
        (d.readDesc (d.kacc p e) (d.canon p.descA)).1.dpaOk p.owner y.base ((d.pool k).pageBytes y.log2) = true →
        ∃ x : Dev, exec (.kvCommit q tag e) s = .next { s with dev := x.flushRegs e } ∧ Kept s.dev x ∧ DoneRes x q tag sOk (2 ^ 16 * y.tlen) ∧
          ∀ v ∈ x.disp.verifies, d.canon p.descA ∉ v.pages) ∧
      (Runs s.dev q tag 0x31 p → y.ref ≠ 0 → d.ownsPage q y = true → p.f 3 15 0 ≠ 0 → p.f 3 19 16 = 6 → 2 ^ y.log2 < y.len + y.tlen + p.f 3 15 0 →
        ∃ x : Dev, exec (.kvAppend q tag e) s = .next { s with dev := x.flushRegs e } ∧ Kept s.dev x ∧ DoneWith x q tag sBadParam) ∧
      (Runs s.dev q tag 0x31 p → y.ref = 1 → y.tlen = 0 → y.shared = false → bit (p.word 3) 20 = false → d.ownsPage q y = true → p.f 3 15 0 ≠ 0 →
        (p.f 3 19 16 = 6 ∨ p.f 3 19 16 = 7 ∨ p.f 3 19 16 = 8) → y.len + p.f 3 15 0 ≤ 2 ^ y.log2 →
        ∃ (x : Dev) (p' : Pkt), exec (.kvAppend q tag e) s = .next { s with dev := x.flushRegs e } ∧ Kept s.dev x ∧ x.pkt? q tag = some p' ∧ p'.phase = .done ∧
          (isExc p'.status = false → p'.result = BitVec.ofNat 64 (d.canon p.descA % 2 ^ 56))))

/-- The Arbor (14 R309-R314) and the agents of a KPM (10 R233-R235): ARBOR_MATCH returns how many blocks of its tokens it found; ARBOR_INSERT waits while its KPM has no idle slot, reserves the granule of its first node, and gives its slot back when it
ends; its sixteenth failed store in a row takes the granule exclusively; of no tokens it returns 0; ARBOR_REMOVE refuses a page that is in no tree, is pinned, or whose node has children, and else takes its node out; a reservation that expires is lost
and counted, an exclusive hold that expires lets go of its granule and of the writes it kept. -/
def Obligations.ArborAndHolds : Prop :=
  ∀ (s : State) (q : QRef) (tag : BitVec 16) (e : Env) (p : Pkt) (d : Dev), d = s.dev.meet e (some (qOwner q)) → p.q = q →
    (∀ k : Nat, Runs s.dev q tag 0x35 p → k = poolKey (p.f 4 2 0) (p.f 4 13 8) → p.f 4 2 0 < 6 → d.poolOk k = true → (p.owner = 8 ∨ (d.pool k).owner.toNat = p.owner) →
      ∃ (x : Dev) (p' : Pkt), exec (.arborMatch q tag e) s = .next { s with dev := x.flushRegs e } ∧ Kept s.dev x ∧ x.pkt? q tag = some p' ∧ p'.phase = .done ∧
        (isExc p'.status = false → ∃ m : Nat, m ≤ p.f 2 31 0 / (d.pool k).arborB ∧
          p'.result = BitVec.ofNat 64 ((d.pool k).arborB * m % 2 ^ 32 + 2 ^ 32 * m))) ∧
    (∀ c : Contend, Runs s.dev q tag 0x36 p → d.slotFor q p.tag = none →
      (d.arborGranule p e = none → c.hold = false →
        exec (.arborInsert q tag c e) s = .next { s with dev := (Dev.conclude p (d.opInsert p e)).flushRegs e }) ∧
      (∀ k a g : Nat, d.arborGranule p e = some (k, a, g) →
        (d.idleSlot (k / 64) = none → exec (.arborInsert q tag c e) s = .next { s with dev := d.flushRegs e }) ∧
        (∀ i : Nat, d.idleSlot (k / 64) = some i → d.kslot i = {} →
          (c.hold = true →
            ∃ x : Dev, exec (.arborInsert q tag c e) s = .next { s with dev := x.flushRegs e } ∧ Kept s.dev x ∧ x.mem = d.mem ∧ (x.kslot i).gran = some g ∧
              (x.kslot i).fails = min c.fails 16 ∧ (x.kslot i).q = q ∧ (x.kslot i).tag = p.tag ∧
              (16 ≤ c.fails → (x.kslot i).excl = some g ∧ (x.kslot i).st = 3#2 ∧ (x.kslot i).exclAt = s.dev.time.base) ∧
              (c.fails < 16 → (x.kslot i).excl = none ∧ (x.kslot i).st = (if c.fails = 0 then 1#2 else 2#2))) ∧
          (c.hold = false →
            ∃ (x : Dev) (p' : Pkt), exec (.arborInsert q tag c e) s = .next { s with dev := x.flushRegs e } ∧ Kept s.dev x ∧ x.pkt? q tag = some p' ∧ p'.phase = .done ∧
              x.kslot i = {}) ∧
          (c.hold = false → p.f 2 31 0 = 0 → p.status = sOk → d.kpm.held = [] →
            ∃ x : Dev, exec (.arborInsert q tag c e) s = .next { s with dev := x.flushRegs e } ∧ DoneRes x q tag sOk 0 ∧ x.mem = d.mem)))) ∧
    (∀ (k i : Nat) (y : PDesc), Runs s.dev q tag 0x37 p → d.slotFor q p.tag = none → Names d p e k y → d.kpm.held = [] → (∀ z ∈ d.kpm.slots, z.2.excl = none) →
      d.idleSlot (k / 64) = some i → d.kslot i = {} →
      (y.node = 0 ∨ y.pinned = true →
        ∃ x : Dev, exec (.arborRemove q tag {} e) s = .next { s with dev := x.flushRegs e } ∧ Kept s.dev x ∧ DoneWith x q tag sBadParam ∧ (x.pool k).alloc = (d.pool k).alloc ∧ (x.pool k).live = (d.pool k).live) ∧
      (∀ r : Dev × BitVec 16 × ANode, y.node ≠ 0 → y.pinned = false → dpaSpace (d.canon y.node) ≠ 15 → d.dpaOk p.owner (d.canon y.node) 32 = true →
        r = (d.readDesc (d.kacc p e) (d.canon p.descA)).1.readNode (d.kacc p e) ((d.readDesc (d.kacc p e) (d.canon p.descA)).1.canon y.node) → isExc r.2.1 = false →
        (r.2.2.children ≠ 0 →
          ∃ x : Dev, exec (.arborRemove q tag {} e) s = .next { s with dev := x.flushRegs e } ∧ Kept s.dev x ∧ DoneWith x q tag sBadParam) ∧
        (r.2.2.children = 0 → r.1.ownsPage q y = true → r.2.2.parent = 0 → p.status = sOk →
          ∃ x : Dev, exec (.arborRemove q tag {} e) s = .next { s with dev := x.flushRegs e } ∧ Kept s.dev x ∧ DoneWith x q tag sOk ∧
            (x.pool k).live = (d.pool k).live - 1))) ∧
    (∀ (site : Fin 6) (i : Fin 8) (g k : Nat), s.dev.supAlive = true → k = 8 * site.val + i.val → (s.dev.kslot k).gran = some g →
      ∃ x : Dev, exec (.reservationExpiry site i) s = .next { s with dev := x.flushRegs {} } ∧ Kept s.dev x ∧ x.kslot k = { s.dev.kslot k with gran := none } ∧ x.mem = s.dev.mem ∧
        (qOwner (s.dev.kslot k).q < 8 →
          (x.part (qOwner (s.dev.kslot k).q)).rsvLost = satAdd (s.dev.part (qOwner (s.dev.kslot k).q)).rsvLost 1)) ∧
    (∀ (site : Fin 6) (i : Fin 8) (g k : Nat), s.dev.supAlive = true → k = 8 * site.val + i.val → (s.dev.kslot k).excl = some g →
      ∃ x : Dev, exec (.exclusiveHoldExpiry site i e) s = .next { s with dev := x.flushRegs e } ∧ Kept s.dev x ∧ (x.kslot k).excl = none ∧ (x.kslot k).st = 2#2 ∧
        (s.dev.kpm.held = [] → x.kslot k = { s.dev.kslot k with st := 2, excl := none } ∧ x.mem = (s.dev.applyEnv e).mem) ∧
        (∀ (h : HeldW) (n c o : Nat), s.dev.kpm.held = [h] → s.dev.kpm.slots = [(k, s.dev.kslot k)] → s.dev.mem.wf = true → h.poison = false → h.ord = none → h.bytes.length = 32 →
          h.addr % 32 = 0 → s.dev.locate h.addr = .sram n c o → x.kpm.held = [] ∧ x.mem.bytes h.addr 32 = h.bytes))

/-- The registers of pools, pins and keys (14 R295, R296, R309, R316): ENABLE written 1 enables a pool whose configuration passes and clears READY, or sets ERR; when
its descriptors and nodes are written READY is set and the node area reads zero; ENABLE written 0 disables a pool no page of which is in use, or sets ERR; a PIN
with both bits is refused, with neither changes nothing; the last word of a key takes effect unless the partition's trees hold live nodes. -/
def Obligations.KpmRegisters : Prop :=
  ∀ (s : State) (fn : Fn) (v : BitVec 32) (t : Dev), t = s.dev.hostTurn →
    (∀ (site : Fin 6) (pool : Fin 64) (k : Nat), s.dev.hostOk fn = true → k = poolKey site.val pool.val → t.dieOut site.val = false → t.mayPool fn k = true →
      ((t.pool k).enable = false →
        ∃ (x : Dev) (y : Pool), exec (.kpmPoolEnable fn site pool v) s = .next { s with dev := x.flushRegs {} } ∧ x = t.setPool k y ∧
          y.kind = v.getLsbD 1 ∧ y.fmt.toNat = bf v.toNat 5 2 ∧ y.heads.toNat = bf v.toNat 12 8 ∧ y.nodesLog2.toNat = bf v.toNat 28 24 ∧
          y.base = (t.pool k).base ∧ y.blocks = (t.pool k).blocks ∧
          y.owner = (if fn = .pf then BitVec.ofNat 4 (bf v.toNat 23 20) else (t.pool k).owner) ∧
          (if t.csActive site.val && !t.kpm.fenced.getLsbD site.val && y.geometryOk && t.regionsOk y then y.enable = true ∧ y.ready = false ∧ y.alloc = []
           else y.enable = false ∧ y.err = true)) ∧
      ((t.pool k).enable = true → (t.pool k).alloc = [] →
        ∃ (x : Dev) (y : Pool), exec (.kpmPoolDisable fn site pool v) s = .next { s with dev := x.flushRegs {} } ∧ x = t.setPool k y ∧ y.enable = false ∧ y.ready = false) ∧
      ((t.pool k).enable = true → (t.pool k).alloc ≠ [] →
        ∃ (x : Dev) (y : Pool), exec (.kpmPoolDisable fn site pool v) s = .next { s with dev := x.flushRegs {} } ∧ x = t.setPool k y ∧ y.enable = true ∧
          y.ready = (t.pool k).ready ∧ y.alloc = (t.pool k).alloc ∧ y.err = true)) ∧
    (∀ (site : Fin 6) (pool : Fin 64) (e : Env) (k : Nat), s.dev.supAlive = true → k = poolKey site.val pool.val → (s.dev.pool k).enable = true → (s.dev.pool k).ready = false →
      s.dev.kpmOk site.val = true →
      ∃ x : Dev, exec (.kpmPoolReady site pool e) s = .next { s with dev := x.flushRegs e } ∧ Kept s.dev x ∧ x.pool k = { s.dev.pool k with ready := true } ∧
        (∀ a : Nat, s.dev.canon (s.dev.pool k).arb.toNat ≤ a → a < s.dev.canon (s.dev.pool k).arb.toNat + 256 * 2 ^ (s.dev.pool k).nodesLog2.toNat → x.mem.byte a = 0#8)) ∧
    (∀ e : Env, s.dev.hostOk fn = true →
      (v.getLsbD 0 = false → v.getLsbD 1 = false →
        exec (.kpmPinLoWrite fn v e) s = .next { s with dev := (Dev.flushRegs ({ t.applyEnv e with
          kpm := { t.kpm with pinRef := tset t.kpm.pinRef (fnKey fn) ((tget t.kpm.pinRef (fnKey fn) false) && !v.getLsbD 2) } }) e) }) ∧
      (v.getLsbD 0 = true → v.getLsbD 1 = true →
        ∃ x : Dev, exec (.kpmPinLoWrite fn v e) s = .next { s with dev := x.flushRegs e } ∧ Kept s.dev x ∧ tget x.kpm.pinRef (fnKey fn) false = true ∧ x.mem = (t.applyEnv e).mem) ∧
      (∀ (k : Nat) (r : Dev × BitVec 16 × PDesc) (a : Nat), v.getLsbD 0 ≠ v.getLsbD 1 →
        a = t.canon (2 ^ 32 * (tget t.kpm.pinHi (fnKey fn) 0).toNat + alignDown v.toNat 32) → t.poolAt a = some k → t.poolOk k = true →
        (fn = .pf ∨ (t.pool k).owner.toNat = fnOwner fn) → r = (t.applyEnv e).readDesc { owner := some (fnOwner fn), env := e } a → isExc r.2.1 = false → r.2.2.ref ≠ 0 → r.2.2.log2 ≠ 0 →
        ∃ x : Dev, exec (.kpmPinLoWrite fn v e) s = .next { s with dev := x.flushRegs e } ∧ Kept s.dev x ∧
          (r.1.isHeld a none = false → (∃ n c o : Nat, r.1.locate a = .sram n c o) → a % 32 = 0 → r.1.mem.wf = true → ∀ y : PDesc, y = PDesc.ofBytes (x.mem.bytes a 32) →
            y.pinned = v.getLsbD 0 ∧ y.ref = r.2.2.ref ∧ y.base = r.2.2.base ∧ y.len = r.2.2.len))) ∧
    (∀ p : Fin 9, s.dev.hostOk fn = true → (fn = .pf ∨ fnOwner fn = p.val) →
      (t.kpm.pools.any (fun y => y.2.enable && y.2.owner.toNat == p.val && y.2.live != 0) = true →
        exec (.arbKeyWrite fn p v) s = .next { s with dev := (Dev.flushRegs { t with kpm := { t.kpm with keyRef := true } } {}) }) ∧
      (t.kpm.pools.any (fun y => y.2.enable && y.2.owner.toNat == p.val && y.2.live != 0) = false →
        ∃ x : Dev, exec (.arbKeyWrite fn p v) s = .next { s with dev := x.flushRegs {} } ∧ Kept s.dev x ∧
          (tget x.kpm.keys p.val 0).toNat / 2 ^ 96 = v.toNat ∧ (tget x.kpm.keys p.val 0).toNat % 2 ^ 32 = (tget t.kpm.keyW (4 * p.val) 0).toNat ∧
          (∀ r : Nat, r ≠ p.val → tget x.kpm.keys r 0 = tget t.kpm.keys r 0)))

/-! DMA (spec/13_dma.md). -/

/-- DMA (13 R278-R293): a packet takes its channel where that is free, is refused at a complex that takes no packets or on another owner's channel; a descriptor that is
not its owner's is refused; a block is read up to the next 4 KiB boundary of its destination and written when it is full; HALT of the complex's die holds reads; a descriptor whose data is moved with no check
ends its RUN with the bytes moved; under FENCE it waits until its writes are performed. -/
def Obligations.DmaChannels : Prop :=
  ∀ (s : State) (e : Env),
    (∀ (q : QRef) (tag : BitVec 16) (p : Pkt) (c : Instr) (op : Nat), (c, op) ∈ [(Instr.dmaRun q tag e, 0x40), (Instr.dmaChain q tag e, 0x41)] → Runs s.dev q tag op p →
      ((12 ≤ p.f 2 11 8 ∨ s.dev.cplxOk (p.f 2 11 8) = false) →
        ∃ x : Dev, exec c s = .next { s with dev := x.flushRegs e } ∧ Kept s.dev x ∧ DoneWith x q tag sBadParam ∧ x.dmaCh = s.dev.dmaCh) ∧
      (p.f 2 11 8 < 12 → s.dev.cplxOk (p.f 2 11 8) = true → p.owner ≠ 8 → p.f 2 3 0 / 2 ≠ p.owner →
        ∃ x : Dev, exec c s = .next { s with dev := x.flushRegs e } ∧ Kept s.dev x ∧ DoneWith x q tag sPerm ∧ x.dmaCh = s.dev.dmaCh) ∧
      (p.f 2 11 8 < 12 → s.dev.cplxOk (p.f 2 11 8) = true → (p.owner = 8 ∨ p.f 2 3 0 / 2 = p.owner) → (s.dev.chan (chKey (p.f 2 11 8) (p.f 2 3 0))).job = none →
        (s.dev.chan (chKey (p.f 2 11 8) (p.f 2 3 0))).waiting = [] → p.q = q → p.tag = tag →
        ∃ x : Dev, exec c s = .next { s with dev := x.flushRegs e } ∧ Kept s.dev x ∧ x.disp = s.dev.disp ∧
          x.chan (chKey (p.f 2 11 8) (p.f 2 3 0)) = { s.dev.chan (chKey (p.f 2 11 8) (p.f 2 3 0)) with job := some (dmaJobOf p), waiting := [], st := 1 })) ∧
    (∀ (n : Fin 12) (ch : Fin 16) (j : DmaJob) (d : Dev), s.dev.supAlive = true → (s.dev.chan (chKey n.val ch.val)).job = some j → d = s.dev.meet e (some (qOwner j.q)) →
      (∀ p : Pkt, s.dev.pkt? j.q j.tag = some p → j.active = false → j.aborting = false → d.canon j.desc % 64 ≠ 0 →
        ∃ x : Dev, exec (.dmaDescriptorStart n ch e) s = .next { s with dev := x.flushRegs e } ∧ Kept s.dev x ∧ x = d.refuseDesc n.val ch.val j sBadParam j.desc ∧
          DoneWith x j.q j.tag sBadParam) ∧
      (∀ (r : RdR) (w : Nat → Nat), r = d.readBytes (j.acc n.val e) (d.canon j.desc) 64 → w = (fun i => fieldAt r.bytes (8 * i) 8) →
        j.active = false → j.aborting = false → d.canon j.desc % 64 = 0 → isLocal (d.canon j.desc) = true →
        (dpaSpace (d.canon j.desc) = 0 ∨ dpaSpace (d.canon j.desc) = 1 ∨ dpaSpace (d.canon j.desc) = 12) → d.owns (qOwner j.q) (d.canon j.desc) 64 true = true →
        isExc r.st = false → w 7 = 2 ^ 63 → bf (w 0) 63 56 = 0 → bf (w 1) 63 56 = 0 → bf (w 2) 63 37 = 0 → bf (w 3) 63 56 = 0 → bf (w 4) 63 32 = 0 → w 6 = 0 →
        0 < bf (w 2) 31 0 → (bit (w 2) 36 = true → bit (w 2) 35 = true) → dpaSpace (r.d.canon (bf (w 0) 55 0)) ≠ 15 → dpaSpace (r.d.canon (bf (w 1) 55 0)) ≠ 15 →
        overlaps (r.d.canon (bf (w 0) 55 0)) (bf (w 2) 31 0) (r.d.canon (bf (w 1) 55 0)) (bf (w 2) 31 0) = false →
        ∃ (x : Dev) (j' : DmaJob), exec (.dmaDescriptorStart n ch e) s = .next { s with dev := x.flushRegs e } ∧ Kept s.dev x ∧ (x.chan (chKey n.val ch.val)).job = some j' ∧
          (x.chan (chKey n.val ch.val)).st = 1#2 ∧ j'.active = true ∧ j'.src = bf (w 0) 55 0 ∧ j'.dst = bf (w 1) 55 0 ∧ j'.bytes = bf (w 2) 31 0 ∧ j'.fence = bit (w 2) 32 ∧
          j'.crcGen = bit (w 2) 33 ∧ j'.crcApp = bit (w 2) 34 ∧ j'.crcChk = bit (w 2) 35 ∧ j'.fromSrc = bit (w 2) 36 ∧ j'.next = bf (w 3) 55 0 ∧ j'.rd = 0 ∧ j'.wr = 0 ∧
          j'.blocks = [] ∧ j'.q = j.q ∧ j'.tag = j.tag ∧ j'.moved = j.moved) ∧
      (j.active = true → exec (.dmaDescriptorStart n ch e) s = .next { s with dev := d.flushRegs e }) ∧
      (s.dev.halt (n.val / 2) = true → exec (.dmaBlockRead n ch e) s = .next { s with dev := d.flushRegs e }) ∧
      (s.dev.halt (n.val / 2) = false → d.mayRead n.val ch.val = true → d.myTurn n.val ch.val = true →
        ∃ (x : Dev) (j' : DmaJob), exec (.dmaBlockRead n ch e) s = .next { s with dev := x.flushRegs e } ∧ Kept s.dev x ∧ (x.chan (chKey n.val ch.val)).job = some j' ∧
          j'.rd = j.rd + min (j.bytes - j.rd) (4096 - (j.dst + j.rd) % 4096) ∧ (tget x.dma n.val {}).turn = ch.val ∧ (tget x.dma n.val {}).pause = d.level (n.val / 2)) ∧
      (j.active = true → j.aborting = false → ∀ (b : DmaBlk) (rest : List DmaBlk), j.blocks = b :: rest → b.full = true → isLocal (d.canon (j.dst + b.off)) = true → dpaSpace (d.canon (j.dst + b.off)) ≠ 14 →
        ∃ (x : Dev) (j' : DmaJob), exec (.dmaBlockWrite n ch e) s = .next { s with dev := x.flushRegs e } ∧ Kept s.dev x ∧ (x.chan (chKey n.val ch.val)).job = some j' ∧
          (j'.failDst = false → j'.blocks = rest) ∧ j'.wr = b.off + b.want ∧ j'.rd = j.rd) ∧
      (j.active = true → j.moving = false → j.tail = true → j.fence = true → d.jobPerformed j = false →
        exec (.dmaDescriptorEnd n ch e) s = .next { s with dev := d.flushRegs e }) ∧
      (j.active = true → j.chain = false → j.blocks = [] → j.stop = false → j.wr = j.bytes → j.status = 0#16 → j.fence = false → j.bad = none →
        j.crcGen = false → j.crcApp = false → j.crcChk = false → j.fromSrc = false → j.corr = false → j.corrAny = false → j.moved = 0 →
        ∀ p : Pkt, s.dev.pkt? j.q j.tag = some p → p.status = sOk → p.opc = 0x40#8 → (s.dev.chan (chKey n.val ch.val)).waiting = [] →
        ∃ x : Dev, exec (.dmaDescriptorEnd n ch e) s = .next { s with dev := x.flushRegs e } ∧ Kept s.dev x ∧ DoneRes x j.q j.tag sOk (j.bytes % 2 ^ 48) ∧
          (x.chan (chKey n.val ch.val)).job = none))

/-! Links and messages between modules (spec/16_fidom_links.md). -/

/-- Links (16 R345-R348, 03 R79): a link that trains, also while phase MEM runs, is up with a peer, full credit and empty buffers; one that goes down, by retraining or by 24 us without an acknowledgement, has lost
its buffers and counts it, and the fourth down within 10 s holds it until the hold ends; a link that is not up receives nothing; a flit whose check fails is not taken and
asks for a replay; the next one in sequence is taken. -/
def Obligations.LinkUpkeep : Prop :=
  ∀ (s : State) (l : Fin 72), s.dev.supAlive = true →
    (∀ (node : BitVec 8) (peer : BitVec 7), (s.dev.link l.val).st = 1#3 ∨ (s.dev.link l.val).st = 3#3 ∨
        ((s.dev.link l.val).st = 0#3 ∧ s.dev.sys.phase = 4#4 ∧ s.dev.linkExposed l.val = true ∧ s.dev.iodActive (linkSite l.val) = true) →
      ∃ x : Dev, exec (.linkTrained l node peer) s = .next { s with dev := x } ∧ Kept s.dev x ∧ (x.link l.val).st = 2#3 ∧ (x.link l.val).peerNode = node ∧
        (x.link l.val).peerLink = peer ∧ (x.link l.val).txSeq = 0 ∧ (x.link l.val).rxSeq = 0 ∧ (x.link l.val).crReq = 512 ∧ (x.link l.val).crRsp = 1024 ∧
        (x.link l.val).crStr = 2048 ∧ (x.link l.val).replay = [] ∧ (x.link l.val).txq = [] ∧ x.lnk.evt = s.dev.lnk.evt ||| 1 ∧
        (∀ k : Nat, k ≠ l.val → x.link k = s.dev.link k)) ∧
    (∀ (node : BitVec 8) (peer : BitVec 7), (s.dev.link l.val).st ≠ 1#3 → (s.dev.link l.val).st ≠ 3#3 → ((s.dev.link l.val).st ≠ 0#3 ∨ s.dev.sys.phase ≠ 4#4) → exec (.linkTrained l node peer) s = .next s) ∧
    (∀ c : Instr, (c = .linkDown l ∨ (c = .linkAckTimeout l ∧ (s.dev.link l.val).replay ≠ [])) → (s.dev.link l.val).st = 2#3 →
      ∃ x : Dev, exec c s = .next { s with dev := x } ∧ Kept s.dev x ∧
        (x.link l.val).st = (if 4 ≤ ((s.dev.time.base :: (s.dev.link l.val).downTimes).filter (fun t => s.dev.time.base < t + 10000000000)).length then 4#3 else 3#3) ∧
        (x.link l.val).downs = satAdd (s.dev.link l.val).downs 1 ∧ (x.link l.val).replay = [] ∧ (x.link l.val).txq = [] ∧ x.lnk.evt.getLsbD 1 = true) ∧
    ((s.dev.link l.val).replay = [] → exec (.linkAckTimeout l) s = .next s) ∧
    ((s.dev.link l.val).st = 4#3 →
      ∃ x : Dev, exec (.linkHoldExpiry l) s = .next { s with dev := x } ∧ Kept s.dev x ∧ x.link l.val = { s.dev.link l.val with st := 1 }) ∧
    (∀ (f : List (BitVec 8)) (fec : FecEnv),
      ((s.dev.link l.val).st ≠ 2#3 → exec (.flitReceive l f fec) s = .next s) ∧
      ((s.dev.link l.val).st = 2#3 → (fec.uncorr = true ∨ f.length ≠ 128 ∨ fieldAt f 124 4 ≠ crc32 (f.take 124)) →
        ∃ x : Dev, exec (.flitReceive l f fec) s = .next { s with dev := x } ∧ Kept s.dev x ∧ (x.link l.val).rxSeq = (s.dev.link l.val).rxSeq ∧
          (x.link l.val).nakd = true ∧ x.lnk.held = s.dev.lnk.held) ∧
      ((s.dev.link l.val).st = 2#3 → fec.uncorr = false → f.length = 128 → fieldAt f 124 4 = crc32 (f.take 124) → bit (fieldAt f 2 2) 15 = false →
        fieldAt f 0 2 % 1024 = (s.dev.link l.val).rxSeq.toNat →
        ∃ x : Dev, exec (.flitReceive l f fec) s = .next { s with dev := x } ∧ Kept s.dev x ∧ (x.link l.val).rxSeq = (s.dev.link l.val).rxSeq + 1 ∧
          (x.link l.val).nakd = false ∧ s.dev.lnk.held.length ≤ x.lnk.held.length))

/-- Packets that use the links (16 R349, R362, R363): ROUTE_SET writes one entry of both tables, or is refused where a link of a mask is not exposed; REMOTE_ATOMIC drains the store buffers of its queue
and waits for the writes of the packets ahead of it (10 R226, R232); then on a word of this module it is done and returns the old value, at another node it becomes one tracked request; SEND reads its source and enters one request for each of its segments; while
the session is quiet none of them is sent. -/
def Obligations.LinkPackets : Prop :=
  ∀ (s : State) (q : QRef) (tag : BitVec 16) (e : Env) (p : Pkt) (d : Dev), d = s.dev.meet e (some (qOwner q)) → p.q = q → p.tag = tag →
    (Runs s.dev q tag 0x52 p →
      (s.dev.maskExposed (p.word 2 + 2 ^ 64 * p.f 3 7 0) = true → s.dev.maskExposed (p.word 4 + 2 ^ 64 * p.f 5 7 0) = true → p.status = sOk →
        ∃ x : Dev, exec (.routeSet q tag) s = .next { s with dev := x.flushRegs {} } ∧ Kept s.dev x ∧ DoneWith x q tag sOk ∧
          tget x.lnk.pri (p.f 1 7 0) 0 = BitVec.ofNat 72 (p.word 2 + 2 ^ 64 * p.f 3 7 0) ∧ tget x.lnk.alt (p.f 1 7 0) 0 = BitVec.ofNat 72 (p.word 4 + 2 ^ 64 * p.f 5 7 0) ∧
          (∀ n : Nat, n ≠ p.f 1 7 0 → tget x.lnk.pri n 0 = tget s.dev.lnk.pri n 0 ∧ tget x.lnk.alt n 0 = tget s.dev.lnk.alt n 0)) ∧
      (s.dev.maskExposed (p.word 2 + 2 ^ 64 * p.f 3 7 0) = false ∨ s.dev.maskExposed (p.word 4 + 2 ^ 64 * p.f 5 7 0) = false →
        ∃ x : Dev, exec (.routeSet q tag) s = .next { s with dev := x.flushRegs {} } ∧ Kept s.dev x ∧ DoneWith x q tag sBadParam ∧ x.lnk = s.dev.lnk)) ∧
    (∀ (a : Nat) (lf : Leaf) (d1 : Dev), Runs s.dev q tag 0x51 p → leafDpa p.leaves (p.f 1 47 0) = some (a, lf) → p.waitRid = 0 → dpaSpace (d.canon a) ≤ 2 → d1 = d.drainQueue e q →
      (d1.writesPend (fun r o => r == q && o < p.ord) = true → exec (.remoteAtomic q tag e) s = .next { s with dev := d1.flushRegs e }) ∧
      (isLocal (d.canon a) = true → d1.writesPend (fun r o => r == q && o < p.ord) = false → (∀ y ∈ s.dev.disp.pkts, y.opc ≠ 0x03#8) → ∀ r : Dev × BitVec 16 × Nat,
        r = d1.atomicAt (p.acc e) (d.canon a) (p.f 4 3 0) (bit (p.word 4) 4) (p.word 2) (p.word 3) →
        ∃ (x : Dev) (p' : Pkt), exec (.remoteAtomic q tag e) s = .next { s with dev := x.flushRegs e } ∧ Kept s.dev x ∧ x.pkt? q tag = some p' ∧ p'.phase = .done ∧
          (isExc p'.status = false → p'.result = BitVec.ofNat 64 r.2.2)) ∧
      (isLocal (d.canon a) = false → d1.writesPend (fun r o => r == q && o < p.ord) = false → d.sys.node ≠ 0xFF#8 → d1.lnk.quiet = true →
        ∃ (x : Dev) (p' : Pkt) (r : Rid), exec (.remoteAtomic q tag e) s = .next { s with dev := x.flushRegs e } ∧ Kept s.dev x ∧ x.pkt? q tag = some p' ∧ p'.phase = .started ∧
          p'.waitRid ≠ 0 ∧ x.lnk.rids = d1.lnk.rids ++ [r] ∧ r.op = 3 ∧ r.node = dpaNode (d.canon a) ∧ r.tracked = true ∧ r.sent = false ∧ x.mem = d1.mem)) ∧
    (Runs s.dev q tag 0x50 p → d.sendJob? q tag = none → p.f 4 47 0 = 0 → (∀ g ∈ d.segments p, d.remoteStatus g.1 = sOk) →
      ∀ r : RdR, r = d.readP p e (p.f 1 47 0) (p.f 3 31 0) → isExc r.st = false → r.d.lnk.quiet = true →
      ∃ (x : Dev) (j : SendJob), exec (.send q tag e) s = .next { s with dev := x.flushRegs e } ∧ Kept s.dev x ∧ x.disp.sends = r.d.disp.sends ++ [j] ∧ j.q = q ∧ j.tag = tag ∧
        j.left = (d.segments p).length ∧ j.notify = 0 ∧ x.lnk.rids.length = r.d.lnk.rids.length + (d.segments p).length ∧ x.disp.pkts = r.d.disp.pkts) ∧
    (Runs s.dev q tag 0x50 p → d.sendJob? q tag = none → (∃ g rest, d.segments p = g :: rest ∧ isLocal g.1 = true) →
      ∃ x : Dev, exec (.send q tag e) s = .next { s with dev := x.flushRegs e } ∧ Kept s.dev x ∧ DoneWith x q tag sBadParam ∧ x.disp.sends = s.dev.disp.sends ∧ x.lnk = s.dev.lnk)

/-- Messages held by the module (16 R350, R353-R360): a request waits while an earlier one of its source and channel does (10 R223); in its turn a request at a module that is not ready, or for which no import entry gives an owner, changes no memory and leaves; an
untracked one that is accepted is executed for that owner and answered; a message whose hold expires leaves and is counted as dropped; the response of an atomic
ends its packet with the old value, a response to nothing outstanding is counted as late; a request without a response ends with E_TIMEOUT. -/
def Obligations.HeldMessages : Prop :=
  ∀ (s : State) (id : Nat) (e : Env) (h : Held) (d : Dev), s.dev.supAlive = true → s.dev.heldMsg id = some h → h.id = id → d = s.dev.applyEnv e →
    (1 ≤ h.msg.op → h.msg.op ≤ 4 → s.dev.msgTurn h = false → exec (.inboundRequest id e) s = .next { s with dev := d }) ∧
    (1 ≤ h.msg.op → h.msg.op ≤ 4 → s.dev.msgTurn h = true → h.msg.dst = s.dev.sys.node.toNat →
      (s.dev.sys.ready = false →
        ∃ x : Dev, exec (.inboundRequest id e) s = .next { s with dev := x } ∧ x = (d.freeHeld h none).respond h.msg none 7 [] ∧ Kept s.dev x ∧ x.mem = d.mem ∧ (∀ y ∈ x.lnk.held, y.id ≠ id)) ∧
      (s.dev.sys.ready = true → (d.meetSession h.msg).accepts h.msg = none →
        ∃ x : Dev, exec (.inboundRequest id e) s = .next { s with dev := x } ∧ Kept s.dev x ∧ x.mem = d.mem ∧ (∀ y ∈ x.lnk.held, y.id ≠ id)) ∧
      (∀ (o : Nat) (r : Dev × Nat × List Byte), s.dev.sys.ready = true → (d.meetSession h.msg).accepts h.msg = some o → h.msg.tracked = false →
        r = (((d.meetSession h.msg).freeHeld h (some o)).countZf (some o) e.zf).execRemote e o h.msg →
        ∃ x : Dev, exec (.inboundRequest id e) s = .next { s with dev := x } ∧ x = r.1.respond h.msg (some o) r.2.1 r.2.2 ∧ Kept s.dev x ∧ (∀ y ∈ x.lnk.held, y.id ≠ id))) ∧
    (h.msg.op = 5 → exec (.inboundRequest id e) s = .next { s with dev := d }) ∧
    (h.msg.op ≠ 5 → exec (.inboundResponse id e) s = .next { s with dev := d }) ∧
    (∃ x : Dev, exec (.messageHoldExpiry id) s = .next { s with dev := x } ∧ Kept s.dev x ∧ x.mem = s.dev.mem ∧ x.lnk.dropped = satAdd s.dev.lnk.dropped 1 ∧
      (∀ y ∈ x.lnk.held, y.id ≠ id)) ∧
    (∀ r : Rid, h.msg.op = 5 → h.msg.dst = s.dev.sys.node.toNat → s.dev.lnk.rids.find? (fun y => y.rid.toNat == h.msg.rid && y.sent) = some r → h.msg.status = 0 →
      r.use = .atomic → ∀ p : Pkt, s.dev.pkt? r.q r.tag = some p → p.phase = .started → p.opc = 0x51#8 → p.status = sOk → (∀ y ∈ s.dev.lnk.rids, y.sent = true) →
      ∃ x : Dev, exec (.inboundResponse id e) s = .next { s with dev := x } ∧ Kept s.dev x ∧ DoneRes x r.q r.tag sOk (leNat (h.msg.data.take 8)) ∧ (∀ y ∈ x.lnk.held, y.id ≠ id)) ∧
    (h.msg.op = 5 → h.msg.dst = s.dev.sys.node.toNat → s.dev.lnk.rids.find? (fun y => y.rid.toNat == h.msg.rid && y.sent) = none →
      s.dev.lnk.gone.find? (fun g => g.rid.toNat == h.msg.rid) = none →
      ∃ x : Dev, exec (.inboundResponse id e) s = .next { s with dev := x } ∧ Kept s.dev x ∧ x.lnk.late = satAdd s.dev.lnk.late 1 ∧ x.disp = s.dev.disp ∧ x.mem = d.mem) ∧
    (∀ (rid : BitVec 16) (r : Rid), s.dev.lnk.rids.find? (fun y => y.rid == rid && y.sent) = some r → r.use = .atomic →
      ∀ p : Pkt, s.dev.pkt? r.q r.tag = some p → p.phase = .started → (∀ y ∈ s.dev.lnk.rids, y.sent = true) →
      ∃ x : Dev, exec (.transactionTimeout rid e) s = .next { s with dev := x } ∧ Kept s.dev x ∧ DoneWith x r.q r.tag sTimeout) ∧
    (∀ rid : BitVec 16, s.dev.lnk.rids.find? (fun y => y.rid == rid && y.sent) = none → exec (.transactionTimeout rid e) s = .next { s with dev := d })

/-! Thermal supervision (spec/17_thermal_escapement.md). -/

/-- The scan and the escapement (17 R366, R371-R378): a running scan is timed from the one before it and moves the facility level by at most one step from the estimate and the cap; a class at or
above STOP demands level 15, one below its exit none; a stop record is written once and, but for domain 5, takes its domain's rails; a request of the host source by a function that may make it stands at once. -/
def Obligations.ThermalSupervision : Prop :=
  ∀ (s : State) (e : Env),
    (∀ r : ScanEnv, s.dev.supAlive = true →
      (s.dev.time.running = false → exec (.thermalScan r e) s = .next { s with dev := (s.dev.applyEnv e).flushRegs e }) ∧
      (s.dev.time.running = true →
        ∃ x : Dev, exec (.thermalScan r e) s = .next { s with dev := x.flushRegs e } ∧ x.thm.pEst.toNat = min ((104 * r.power + 50) / 100) 65535 ∧
          x.thm.facLvl.toNat = facNext s.dev.thm.facLvl.toNat (min ((104 * r.power + 50) / 100) 65535) s.dev.pwr.capW.toNat s.dev.pwr.shed0 ∧
          x.time.scanAt = max s.dev.time.base (s.dev.time.scanAt + ms) % 2 ^ 64 ∧ x.fuse = s.dev.fuse ∧ x.fc = s.dev.fc)) ∧
    (∀ (y : Domain) (c : Nat) (t : Int), c < 4 →
      (stopAt c ≤ t → (scanClass y c t).demand = 15 ∧ 0x83 ∈ (scanClass y c t).cross ∧ (scanClass y c t).eng = true ∧ (scanClass y c t).warn = true) ∧
      (t < exitAt c → (scanClass y c t).demand = 0 ∧ (scanClass y c t).eng = false ∧ 0x83 ∉ (scanClass y c t).cross)) ∧
    (∀ n : Fin 6, s.dev.supAlive = true →
      ((s.dev.dom n.val).stopping = true → (s.dev.dom n.val).srec.written = false →
        ∃ x : Dev, exec (.stopRecordWrite n e) s = .next { s with dev := x.flushRegs e } ∧ (x.dom n.val).srec.written = true ∧
          (x.dom n.val).srec.bytes = s.dev.stopRecord n.val ∧ (n.val ≠ 5 → x.stopped n.val = true) ∧ x.thm.evt.getLsbD 2 = true ∧ x.fc = s.dev.fc) ∧
      ((s.dev.dom n.val).stopping = false ∨ (s.dev.dom n.val).srec.written = true →
        exec (.stopRecordWrite n e) s = .next { s with dev := (s.dev.applyEnv e).flushRegs e })) ∧
    (∀ (fn : Fn) (n : Fin 6) (v : BitVec 32) (t : Dev), s.dev.hostOk fn = true → t = s.dev.hostTurn →
      (t.mayRequest (fnOwner fn) n.val = true → t.dieOut n.val = false →
        exec (.escReqWrite fn n v) s = .next { s with dev := (t.setDom n.val { t.dom n.val with
          hostLvl := v.setWidth 4, hostHalt := v.getLsbD 4, hostOwner := BitVec.ofNat 4 (fnOwner fn) }).flushRegs {} }) ∧
      (t.mayRequest (fnOwner fn) n.val = false ∨ t.dieOut n.val = true → exec (.escReqWrite fn n v) s = .next { s with dev := t.flushRegs {} }))

/-! Observation and the field lock (spec/18_observability.md, spec/19_test_access_lock.md). -/

/-- Counters, digests and snapshots (18 R393-R404): reading the low half of the selected counter changes no counter; LOUPE_WATCH arms a slot, disarms it, or writes its last digest of 64 bytes; a digest
that is due is taken once its packet's writes are performed, and leaves the packet; CNT_SNAP returns the bytes of its group's record; a snapshot takes the function's engine, which refuses a second GO and a bad destination, until it is done. -/
def Obligations.Observability : Prop :=
  ∀ (s : State) (fn : Fn) (v : BitVec 32) (e : Env) (t : Dev), t = s.dev.hostTurn →
    (∀ k : Nat, s.dev.hostOk fn = true → t.cntKey fn = some k →
      (∃ x : Dev, exec (.cntValLoRead fn) s = .next { s with dev := x.flushRegs {} } ∧ Kept s.dev x ∧ x.cnt.val = t.cnt.val ∧
        x.out = t.out ++ [.reg fn 0x500008 (tget t.cnt.val k 0 % 2 ^ 32)])) ∧
    (∀ (q : QRef) (tag : BitVec 16) (p : Pkt) (d : Dev), d = s.dev.meet e (some (qOwner q)) →
      (Runs s.dev q tag 0x70 p → (∀ y ∈ s.dev.disp.pkts, y.trig = []) → p.f 1 9 8 ≠ 1 → p.status = sOk →
        ∃ x : Dev, exec (.loupeWatch q tag e) s = .next { s with dev := x.flushRegs e } ∧ Kept s.dev x ∧ DoneWith x q tag sOk ∧
          (p.f 1 9 8 = 0 → x.watch p.owner (p.f 1 4 0) = { bound := true, td := p.tdWords 0 0, leaves := p.leaves }) ∧
          (p.f 1 9 8 ≠ 0 → x.watch p.owner (p.f 1 4 0) = {}) ∧
          (∀ i : Nat, i ≠ 32 * p.owner + p.f 1 4 0 → tget x.lpe i {} = tget s.dev.lpe i {})) ∧
      (Runs s.dev q tag 0x70 p → p.f 1 9 8 = 1 →
        ∃ (x : Dev) (p' : Pkt), exec (.loupeWatch q tag e) s = .next { s with dev := x.flushRegs e } ∧ Kept s.dev x ∧ x.pkt? q tag = some p' ∧ p'.phase = .done ∧
          x.lpe = s.dev.lpe ∧ (isExc p'.status = false → p'.result = 64#64)) ∧
      (∀ (slot : Fin 32) (d1 : Dev) (y : Pkt), s.dev.supAlive = true → s.dev.pkt? q tag = some p → p.trig.contains slot.val = true →
        (d.digestReady p = false → exec (.loupeDigest q tag slot e) s = .next { s with dev := d.flushRegs e }) ∧
        (d.digestReady p = true → d1 = (d.drainPkt e p).awaitHeld e (fun h => h.ord == some p.ord) → d1.pkt? q tag = some y → isExc y.status = false →
          ∃ (x : Dev) (p' : Pkt), exec (.loupeDigest q tag slot e) s = .next { s with dev := x.flushRegs e } ∧ Kept s.dev x ∧ x.pkt? q tag = some p' ∧ slot.val ∉ p'.trig ∧
            ((d1.watch y.owner slot.val).bound = true → (x.watch y.owner slot.val).gen = (d1.watch y.owner slot.val).gen + 1 ∧ (x.watch y.owner slot.val).dig.length = 64))) ∧
      (Runs s.dev q tag 0x71 p →
        ∃ (x : Dev) (p' : Pkt), exec (.cntSnap q tag e) s = .next { s with dev := x.flushRegs e } ∧ Kept s.dev x ∧ x.pkt? q tag = some p' ∧ p'.phase = .done ∧
          (isExc p'.status = false → p'.result = BitVec.ofNat 64 (64 + 8 * cntSize (p.f 1 3 0)))) ∧
      (Runs s.dev q tag 0x72 p → ∀ k : Nat, k = fnKey (ownerFn p.owner) →
        ((s.dev.snpFn k).busy = true → exec (.snapshot q tag) s = .next { s with dev := s.dev.flushRegs {} }) ∧
        ((s.dev.snpFn k).busy = false → exec (.snapshot q tag) s = .next { s with dev := (s.dev.snpStart k (some (p.q, p.tag))).flushRegs {} } ∧
          s.dev.snpStart k (some (p.q, p.tag)) = s.dev.setSnp k ({ s.dev.snpFn k with
            busy := true, cmd := some (p.q, p.tag), start := s.dev.time.base, stAt := BitVec.ofNat 32 s.dev.sysState,
            liveAt := BitVec.ofNat 32 s.dev.sysLive })))) ∧
    (s.dev.hostOk fn = true →
      ((t.snpFn (fnKey fn)).busy = true →
        ∃ (x : Dev) (y : SnpFn), exec (.snpCtlGo fn v) s = .next { s with dev := x.flushRegs {} } ∧ x = t.setSnp (fnKey fn) y ∧ y.refused = true ∧ y.busy = true) ∧
      ((t.snpFn (fnKey fn)).busy = false → t.snpDestOk (fnOwner fn) (t.canon (t.snpFn (fnKey fn)).dest.toNat) = false →
        ∃ (x : Dev) (y : SnpFn), exec (.snpCtlGo fn v) s = .next { s with dev := x.flushRegs {} } ∧ x = t.setSnp (fnKey fn) y ∧ y.err = true ∧ y.cause = 1 ∧ y.busy = false) ∧
      ((t.snpFn (fnKey fn)).busy = false → t.snpDestOk (fnOwner fn) (t.canon (t.snpFn (fnKey fn)).dest.toNat) = true →
        ∃ x : Dev, exec (.snpCtlGo fn v) s = .next { s with dev := x.flushRegs {} } ∧ (x.snpFn (fnKey fn)).busy = true ∧ (x.snpFn (fnKey fn)).cmd = none ∧
          (x.snpFn (fnKey fn)).start = t.time.base ∧ x.mem = t.mem)) ∧
    (s.dev.supAlive = true → (s.dev.snpFn (fnKey fn)).busy = true →
      ∃ x : Dev, exec (.snapshotDone fn e) s = .next { s with dev := x.flushRegs e } ∧ (x.snpFn (fnKey fn)).busy = false ∧ (x.snpFn (fnKey fn)).cmd = none ∧ x.queues = s.dev.queues ∧
        ((s.dev.snpFn (fnKey fn)).cmd = none → (x.snpFn (fnKey fn)).done = true ∨ ((x.snpFn (fnKey fn)).err = true ∧ (x.snpFn (fnKey fn)).cause = 2))) ∧
    (s.dev.supAlive = true → (s.dev.snpFn (fnKey fn)).busy = false → exec (.snapshotDone fn e) s = .next { s with dev := (s.dev.meet e (some (fnOwner fn))).flushRegs e })

/-- The field lock and the test port (19 R407-R420): a command starts where none runs, the fuses are loaded and, to unlock, no lockout holds, and is refused with E_LOCKED otherwise; its outcome appears when it ends: an unlock raises the
level or counts a failure, and eight failures lock out; RELOCK takes the level at once; a challenge expires; TEST_EN resets the test port; the register master shifts up to 32 bits, and under HBM_1500
the first bit a capture puts on TDO is whether the IEEE 1500 port has an operation pending; an instruction above the level is
refused and selects BYPASS. -/
def Obligations.FieldLock : Prop :=
  ∀ (s : State) (src : LockPath) (t : Dev), (src = .host → s.dev.hostOk .pf = true) → (src = .tap → s.dev.supAlive = true ∧ s.dev.lck.ir = 0x10#8) →
    t = (if src = .host then s.dev.hostTurn else s.dev) →
    (∀ (c : Instr) (op : Nat), (c, op) ∈ [(Instr.openObserve src, 1), (Instr.reqChal src 2, 2), (Instr.submitResp src, 3), (Instr.setPw src, 4), (Instr.relock src, 5)] →
      (t.lck.busy.isSome = true ∨ t.sys.fuseLoaded = false ∨ (t.lck.lockout = true ∧ (op = 1 ∨ op = 3)) →
        exec c s = .next { s with dev := { t with lck := { t.lck with stat := sLocked, lastOp := BitVec.ofNat 4 op } } }) ∧
      (t.lck.busy = none → t.sys.fuseLoaded = true → t.lck.lockout = false → op ≠ 5 → (op = 4 → t.fuse.pwBanks.length < 8 ∧ t.lck.level ≠ 0#2) →
        ∃ x : Dev, exec c s = .next { s with dev := x } ∧ x.lck.busy = some (BitVec.ofNat 4 op) ∧ x.lck.cmdAt = t.time.base ∧ x.lck.level = t.lck.level ∧
          x.lck.fails = t.lck.fails ∧ x.fuse = t.fuse ∧ x.mem = t.mem ∧ (op = 2 ∨ op = 4 → x.lck.outcome = sOk ∧ x.free = t.free + 2))) ∧
    (t.lck.busy = none → t.sys.fuseLoaded = true →
      exec (.relock src) s = .next { s with dev := { t with lck := { t.lck with level := 0, stat := sOk, lastOp := 5 } } }) ∧
    (∀ op : BitVec 4, s.dev.supAlive = true → s.dev.lck.busy = some op →
      ∃ x : Dev, exec .lockCommandDone s = .next { s with dev := x } ∧ x.lck.busy = none ∧ x.lck.stat = s.dev.lck.outcome ∧ x.lck.lastOp = op ∧ x.mem = s.dev.mem ∧
        (op = 1#4 ∨ op = 3#4 →
          (s.dev.lck.outcome = sOk → x.lck.fails = 0 ∧ x.lck.level.toNat = max s.dev.lck.level.toNat s.dev.lck.newLvl.toNat) ∧
          (s.dev.lck.outcome ≠ sOk → x.lck.fails = satAdd s.dev.lck.fails 1 ∧ x.lck.level = s.dev.lck.level ∧
            x.lck.lockout = (s.dev.lck.lockout || decide (8 ≤ (satAdd s.dev.lck.fails 1).toNat)))) ∧
        (op = 2#4 → x.lck.chal = some s.dev.lck.newChal ∧ x.lck.chalLvl = s.dev.lck.newLvl ∧ x.lck.chalAt = s.dev.time.base) ∧
        (op = 3#4 → x.lck.chal = none) ∧ (op = 4#4 → x.fuse.pwBanks = s.dev.lck.newBank.toList ++ s.dev.fuse.pwBanks) ∧ (op ≠ 4#4 → x.fuse = s.dev.fuse)) ∧
    (s.dev.supAlive = true → s.dev.lck.chal.isSome = true →
      ∃ x : Dev, exec .challengeExpiry s = .next { s with dev := x } ∧ x.lck = { s.dev.lck with chal := none } ∧ (s.dev.time.running = false → x.time = s.dev.time)) ∧
    (∀ b : Bool, ∃ x : Dev, exec (.testEnChange b) s = .next { s with dev := x } ∧ x.pins = { s.dev.pins with testEn := b } ∧ x.lck.ir = 1#8 ∧ x.lck.tap = .reset ∧
      x.lck.level = s.dev.lck.level ∧ (b = true → x.lck.tapBusy = false) ∧ (b = true → s.dev.lck.tapBusy = true → x.lck.tapAband = true)) ∧
    (∀ v : BitVec 32, src = .host →
      ∃ x : Dev, exec (.lckTapGo .pf v) s = .next { s with dev := x } ∧ x.lck.tapCount = v.setWidth 6 ∧
        x.lck.tapBusy = (t.lck.tapBusy || (!t.pins.testEn && decide (1 ≤ v.toNat % 64 ∧ v.toNat % 64 ≤ 32))) ∧ x.lck.level = t.lck.level) ∧
    (∀ tdo : BitVec 32, s.dev.supAlive = true → s.dev.lck.tapBusy = true →
      exec (.tapShiftDone tdo) s = .next { s with dev := { s.dev with lck := { s.dev.lck with
        tapBusy := false, tapFix := [], tdo := BitVec.ofNat 32 (fixTdo s.dev.lck.tapFix (tdo.toNat % 2 ^ s.dev.lck.tapCount.toNat)) } } }) ∧
    (∀ x : Lck, x.tap = .idle → x.ir = 0x34#8 → x.tms.getLsbD 0 = true → x.tms.getLsbD 1 = false → x.tms.getLsbD 2 = false →
      (x.tapWalk 4).tapFix = x.tapFix ++ [(3, x.port1500)]) ∧
    (∀ ir : BitVec 8, s.dev.supAlive = true →
      (tapInstr ir.toNat = none → exec (.tapInstructionUpdate ir) s = .next { s with dev := { s.dev with lck := { s.dev.lck with ir := 0xFF#8, refusedIr := false } } }) ∧
      (∀ (lvl : Nat) (b : Bool), tapInstr ir.toNat = some (lvl, b) →
        (lvl ≠ 0 → s.dev.lck.level.toNat < lvl →
          exec (.tapInstructionUpdate ir) s = .next { s with dev := { s.dev with lck := { s.dev.lck with ir := 0xFF#8, refusedIr := true, stat := sLocked, lastOp := 6 } } }) ∧
        (lvl ≤ s.dev.lck.level.toNat → s.dev.sys.fuseLoaded = true → b = false →
          exec (.tapInstructionUpdate ir) s = .next { s with dev := { s.dev with lck := { s.dev.lck with ir := ir, refusedIr := false } } }) ∧
        (lvl ≤ s.dev.lck.level.toNat → s.dev.sys.fuseLoaded = true → b = true → s.dev.quietDevice = true →
          ∃ x : Dev, exec (.tapInstructionUpdate ir) s = .next { s with dev := x } ∧ x.lck.ir = ir ∧ x.lck.disturbed = true ∧ x.sys.ready = false)))

/-! Registers (spec/21_register_summary.md, spec/09_addressing.md, spec/18_observability.md). -/

/-- Accesses to BAR0 (R435, R437, R438): a write that does not cover a register's four bytes, or falls on no register the function sees, has no effect; one that covers it writes it; a read of four bytes
gives the register's value with the side effect of the read; event registers clear the bits written 1, and LNK_TIMEOUT keeps to its range. -/
def Obligations.RegisterAccess : Prop :=
  ∀ (s : State) (fn : Fn) (off m : Nat) (v : BitVec 64) (e : Env) (t : Dev), s.dev.hostOk fn = true → t = s.dev.hostTurn →
    (∀ size : Nat, size < 4 → exec (.registerWrite fn off size v e) s = .next { s with dev := (t.applyEnv e).flushRegs e }) ∧
    (off % 8 = 0 → fnMap fn off = none → exec (.registerWrite fn off 4 v e) s = .next { s with dev := (t.applyEnv e).flushRegs e }) ∧
    (off % 8 = 0 → fnMap fn off = some m → fn ≠ .pf → t.regVisible (fnOwner fn) m = false →
      exec (.registerWrite fn off 4 v e) s = .next { s with dev := (t.applyEnv e).flushRegs e } ∧
      exec (.registerRead fn off 4) s = .next { s with dev := ((t.regSide fn m).emit (.reg fn off 0)).flushRegs {} }) ∧
    (off % 8 = 4 → exec (.registerWrite fn off 4 v e) s = .next { s with dev := (t.applyEnv e).flushRegs e }) ∧
    (off % 8 = 0 → fnMap fn off = some m →
      exec (.registerWrite fn off 4 v e) s = .next { s with dev := ((t.applyEnv e).regWrite e fn m (v.toNat % 2 ^ 32)).flushRegs e } ∧
      exec (.registerRead fn off 4) s = .next { s with dev := ((t.regSide fn m).emit (.reg fn off (t.regVal fn m % 2 ^ 32))).flushRegs {} }) ∧
    (fn = .pf →
      (∃ x : Dev, exec (.registerWrite fn 0x20028 4 v {}) s = .next { s with dev := x.flushRegs {} } ∧ x.pwr = { t.pwr with evt := t.pwr.evt &&& ~~~(v.setWidth 6) } ∧
        x.mem = t.mem ∧ x.queues = t.queues) ∧
      (∃ x : Dev, exec (.registerWrite fn 0x480010 4 v {}) s = .next { s with dev := x.flushRegs {} } ∧ x.lnk = { t.lnk with evt := t.lnk.evt &&& ~~~(v.setWidth 5) } ∧
        Kept s.dev x ∧ x.mem = t.mem) ∧
      (∃ x : Dev, exec (.registerWrite fn 0x480000 4 v {}) s = .next { s with dev := x.flushRegs {} } ∧
        x.lnk.timeout.toNat = max 100 (min 1000000 (v.toNat % 2 ^ 20)) ∧ Kept s.dev x ∧ x.mem = t.mem))

/-- A BAR4 size takes effect when it is written, but for a write made while Memory Space Enable is set; it changes the host's window and nothing else (R434). -/
def Obligations.Bar4Size : Prop :=
  ∀ (s : State) (fn : Fn) (k : Nat), s.dev.supAlive = true → s.dev.pcieUp = true → s.dev.fuseEnded = true → 30 ≤ k → k ≤ 39 →
    (tget s.dev.pcie.mse (fnKey fn) false = false →
      ∃ t : Tbl Nat, exec (.bar4Resize fn k) s = .next { s with dev := { s.dev with pcie := { s.dev.pcie with bar4 := t } } } ∧ tget t (fnKey fn) 0 = k ∧
        (∀ g : Fn, g ≠ fn → tget t (fnKey g) 0 = tget s.dev.pcie.bar4 (fnKey g) 0)) ∧
    (tget s.dev.pcie.mse (fnKey fn) false = true → exec (.bar4Resize fn k) s = .next s)

/-- SYS_NODE.ID changes only while no partition exists; a differing ID is refused while one does, an equal one accepted, so that REFUSED can be cleared; while ID is 255, accesses to another node in spaces 0x0-0x3
give E_UNMAPPED, and in another space E_PERM (R218). -/
def Obligations.NodeId : Prop :=
  (∀ (s : State) (v : BitVec 32) (t : Dev), s.dev.hostOk .pf = true → t = s.dev.hostTurn →
    (t.livePart = [] ∨ v.setWidth 8 = t.sys.node →
      exec (.sysNodeWrite .pf v) s = .next { s with dev := (Dev.flushRegs { t with
        sys := { t.sys with node := v.setWidth 8, nodeRef := t.sys.nodeRef && !v.getLsbD 31 } } {}) }) ∧
    (t.livePart ≠ [] → v.setWidth 8 ≠ t.sys.node →
      exec (.sysNodeWrite .pf v) s = .next { s with dev := (Dev.flushRegs { t with sys := { t.sys with nodeRef := true } } {}) })) ∧
  (∀ (d : Dev) (acc : Acc) (a n : Nat) (b : List Byte), d.sys.node = 0xFF#8 → isLocal (d.canon a) = false → 0 < n → d.canon a % 32 + n ≤ 32 → b.length = n →
    (dpaSpace (d.canon a) ≤ 3 → (d.readBytes acc a n).st = sUnmapped ∧ (d.writeBytes acc a b).st = sUnmapped) ∧
    (3 < dpaSpace (d.canon a) → (d.readBytes acc a n).st = sPerm ∧ (d.writeBytes acc a b).st = sPerm))

/-- A write of zero to CNT_VAL_LO clears VALUE and OVF of the selected counter together, any other write is ignored, and an increment that meets the clear leaves the counter at 1 (R390). -/
def Obligations.CounterClear : Prop :=
  ∀ (s : State) (fn : Fn) (v : BitVec 32) (c : CntFn) (t : Dev), s.dev.hostOk fn = true → t = s.dev.hostTurn → c = t.cntFn fn → c.bank.toNat < 10 → c.group.toNat < 5 →
    ∀ k : Nat, k = 8192 * c.bank.toNat + 1024 * c.group.toNat + c.index.toNat →
    (v = 0 →
      ∃ x : Dev, exec (.cntValLoWrite fn v) s = .next { s with dev := x.flushRegs {} } ∧ tget x.cnt.val k 0 = 0 ∧ tget x.cnt.ovf k false = false ∧
        tget (x.bump c.bank.toNat c.group.toNat c.index.toNat 1).cnt.val k 0 = 1 ∧
        (∀ j : Nat, j ≠ k → tget x.cnt.val j 0 = tget t.cnt.val j 0 ∧ tget x.cnt.ovf j false = tget t.cnt.ovf j false) ∧ Kept s.dev x ∧ x.mem = t.mem) ∧
    (v ≠ 0 → exec (.cntValLoWrite fn v) s = .next { s with dev := t.flushRegs {} })

/-! The machine as a whole. -/

/-- The state after reset: supplies valid, phase CLOCK, every register at the reset value its table gives; nothing waits and memory lists nothing in particular (21 R440, and the model's choice of log 2). -/
def Obligations.ResetValues : Prop :=
  State.reset.pending = [] ∧ State.reset.dev.supAlive = true ∧ State.reset.dev.sys.phase = 1#4 ∧ State.reset.dev.sys.ready = false ∧ State.reset.dev.sys.node = 0xFF#8 ∧
  State.reset.dev.pwr.capW = 0xFFFF#16 ∧ State.reset.dev.pwr.lost = true ∧ State.reset.dev.pwr.evt = 0 ∧ State.reset.dev.lnk.timeout.toNat = 2000 ∧
  (∀ n : Nat, n < 6 → (State.reset.dev.dom n).thermal = 15#4) ∧
  (∀ q : QRef, (State.reset.dev.queue q).enable = false ∧ (State.reset.dev.queue q).sqLog2 = 4#5 ∧ (State.reset.dev.queue q).cqLog2 = 4#5 ∧ (State.reset.dev.queue q).st = 0#2) ∧
  State.reset.dev.livePart = [] ∧ State.reset.dev.lck.level = 0#2 ∧ State.reset.dev.slc.evt = 0 ∧ State.reset.dev.hbm.evt = 0 ∧ State.reset.dev.zf.evt = 0 ∧
  State.reset.dev.kpm.evt = 0 ∧ State.reset.dev.thm.evt = 0 ∧ State.reset.dev.lnk.evt = 0 ∧ State.reset.dev.disp.pkts = [] ∧ State.reset.dev.mem.wf = true

/-- Every step keeps the canonical form of memory: the invariant of which ResetValues says that it holds at reset. -/
def Obligations.StepKeepsMemoryForm : Prop :=
  ∀ s t : State, s.dev.mem.wf = true → step s = .next t → t.dev.mem.wf = true

/-- A read or a write of any bytes leaves every other byte of memory as it is, but for the words with flipped bits that it meets, and changes nothing that no operation on data reaches: at every byte whose word holds a
codeword and is not reported uncorrected by its stack, a read changes nothing, and a write changes only the bytes it covers. -/
def Obligations.DataAccessFrame : Prop :=
  ∀ (d : Dev) (acc : Acc) (a x : Nat), d.mem.wf = true → d.mem.diff (x - x % 32) = 0 → acc.severity (x - x % 32) ≠ 2 →
    (∀ n : Nat, (d.readBytes acc a n).d.mem.byte x = d.mem.byte x ∧ Kept d (d.readBytes acc a n).d) ∧
    (∀ b : List Byte, (x < d.canon a ∨ d.canon a + b.length ≤ x) →
      (d.writeBytes acc a b).d.mem.byte x = d.mem.byte x ∧ Kept d (d.writeBytes acc a b).d)

/-- Records come back whole: a message between modules, a page descriptor and an Arbor node decode from their bytes to what was encoded, for every value their fields hold (16 Table 16-2, 14 Tables 14-3, 14-4). -/
def Obligations.RecordsRoundTrip : Prop :=
  (∀ m : Msg, m.op < 256 → m.hops < 256 → m.owner < 16 → m.atom < 16 → m.rid < 65536 → m.xseq < 65536 → m.dst < 256 → m.src < 256 → m.len < 65536 →
    m.session < 65536 → m.status < 65536 → m.addr < 2 ^ 56 → m.data.length = dataLen m.op m.len → Msg.decode m.encode = m) ∧
  (∀ x : PDesc, x.base < 2 ^ 56 → x.log2 < 16 → x.fmt < 16 → x.ref < 65536 → x.part < 8 → x.stream < 8192 → x.pool < 64 → x.len < 8192 → x.tlen < 128 →
    x.node < 2 ^ 56 → x.stamp < 2 ^ 64 → PDesc.ofBytes x.bytes = x) ∧
  (∀ x : ANode, x.hash < 2 ^ 64 → x.parent < 2 ^ 56 → x.page < 2 ^ 56 → x.children < 65536 → x.state < 256 → x.depth < 2 ^ 32 → ANode.ofBytes x.bytes = x)

end Slice0
end

