-- ==== Sys2Proof/Laws/Memory.lean ====
section
/-!
SUPPORT. Laws/Memory.lean: every operation on the stored bytes keeps their canonical form, and what a byte reads after each of them.
-/
namespace Sys2Proof.Machine

/-- The canonical form said without recursion. -/
theorem cellsOk_iff (f : List (Nat × Nat × Fill)) (l : List Host.Cell) :
    cellsOk f l = true ↔ l.Pairwise (fun a b => a.1 < b.1) ∧ ∀ e ∈ l, e.2 ≠ bgByte f e.1 := by
  induction l with
  | nil => simp [cellsOk]
  | cons e r ih =>
    obtain ⟨k, v⟩ := e
    cases r with
    | nil => simp [cellsOk]
    | cons e2 r2 =>
      obtain ⟨k2, v2⟩ := e2
      simp only [cellsOk, Bool.and_eq_true, ih, decide_eq_true_eq, Bool.not_eq_true', beq_eq_false_iff_ne, List.pairwise_cons,
        List.mem_cons, forall_eq_or_imp]
      constructor
      · rintro ⟨⟨h1, h2⟩, ⟨h3, h4⟩, h5, h6⟩
        exact ⟨⟨⟨h2, fun a ha => Nat.lt_trans h2 (h3 a ha)⟩, h3, h4⟩, h1, h5, h6⟩
      · rintro ⟨⟨⟨h2, _⟩, h3, h4⟩, h1, h5, h6⟩
        exact ⟨⟨h1, h2⟩, ⟨h3, h4⟩, h5, h6⟩

theorem cellDel_mem (l : List Host.Cell) (a : Nat) (e : Host.Cell) (h : e ∈ cellDel l a) : e ∈ l := by
  induction l with
  | nil => simp [cellDel] at h
  | cons x r ih =>
    obtain ⟨k, v⟩ := x
    by_cases hk : k = a
    · simp [cellDel, hk] at h; exact List.mem_cons_of_mem _ h
    · simp only [cellDel, hk, if_false, List.mem_cons] at h
      rcases h with h | h
      · simp [h]
      · exact List.mem_cons_of_mem _ (ih h)

theorem cellDel_sorted (l : List Host.Cell) (a : Nat) (h : l.Pairwise (fun x y => x.1 < y.1)) :
    (cellDel l a).Pairwise (fun x y => x.1 < y.1) := by
  induction l with
  | nil => simp [cellDel]
  | cons x r ih =>
    obtain ⟨k, v⟩ := x
    rw [List.pairwise_cons] at h
    by_cases hk : k = a
    · simpa [cellDel, hk] using h.2
    · simp only [cellDel, hk, if_false, List.pairwise_cons]
      exact ⟨fun e he => h.1 e (cellDel_mem _ _ _ he), ih h.2⟩

theorem cellPut_mem (l : List Host.Cell) (a : Nat) (b : Byte) (e : Host.Cell) (h : e ∈ cellPut l a b) : e = (a, b) ∨ e ∈ l := by
  induction l with
  | nil => simp [cellPut] at h; exact Or.inl h
  | cons x r ih =>
    obtain ⟨k, v⟩ := x
    by_cases h1 : a < k
    · simp only [cellPut, h1, if_true, List.mem_cons] at h
      simpa [List.mem_cons] using h
    · by_cases h2 : k = a
      · subst h2
        simp only [cellPut, Nat.lt_irrefl, if_false, if_true, List.mem_cons] at h
        rcases h with h | h
        · exact Or.inl h
        · exact Or.inr (List.mem_cons_of_mem _ h)
      · simp only [cellPut, h1, h2, if_false, List.mem_cons] at h
        rcases h with h | h
        · exact Or.inr (by simp [h])
        · exact (ih h).imp id (List.mem_cons_of_mem _)

theorem cellPut_sorted (l : List Host.Cell) (a : Nat) (b : Byte) (h : l.Pairwise (fun x y => x.1 < y.1)) :
    (cellPut l a b).Pairwise (fun x y => x.1 < y.1) := by
  induction l with
  | nil => simp [cellPut]
  | cons x r ih =>
    obtain ⟨k, v⟩ := x
    have h' := h
    rw [List.pairwise_cons] at h
    by_cases h1 : a < k
    · simp only [cellPut, h1, if_true]
      refine List.pairwise_cons.2 ⟨fun e he => ?_, h'⟩
      rcases List.mem_cons.1 he with he | he
      · simpa [he] using h1
      · exact Nat.lt_trans h1 (h.1 e he)
    · by_cases h2 : k = a
      · subst h2
        simpa [cellPut, h1] using h
      · simp only [cellPut, h1, h2, if_false]
        refine List.pairwise_cons.2 ⟨fun e he => ?_, ih h.2⟩
        rcases cellPut_mem _ _ _ _ he with he | he
        · simp only [he]; omega
        · exact h.1 e he

/-- The byte at the place put. -/
theorem cellAt_put_same (l : List Host.Cell) (a : Nat) (b : Byte) : cellAt (cellPut l a b) a = some b := by
  induction l with
  | nil => simp [cellPut, cellAt]
  | cons x r ih =>
    obtain ⟨k, v⟩ := x
    by_cases h1 : a < k
    · simp [cellPut, h1, cellAt]
    · by_cases h2 : k = a
      · simp [cellPut, h2, cellAt]
      · simp [cellPut, h1, h2, cellAt, ih]

theorem cellAt_put_other (l : List Host.Cell) (a c : Nat) (b : Byte) (h : c ≠ a) : cellAt (cellPut l a b) c = cellAt l c := by
  induction l with
  | nil => simp [cellPut, cellAt, Ne.symm h]
  | cons x r ih =>
    obtain ⟨k, v⟩ := x
    by_cases h1 : a < k
    · simp [cellPut, h1, cellAt, Ne.symm h]
    · by_cases h2 : k = a
      · subst h2; simp [cellPut, cellAt, Ne.symm h]
      · simp [cellPut, h1, h2, cellAt, ih]

theorem cellAt_none_of_lt (l : List Host.Cell) (a : Nat) (h : ∀ e ∈ l, a < e.1) : cellAt l a = none := by
  induction l with
  | nil => rfl
  | cons x r ih =>
    obtain ⟨k, v⟩ := x
    have hk := h (k, v) (by simp)
    simp only [cellAt, show k ≠ a by simp at hk; omega, if_false]
    exact ih (fun e he => h e (List.mem_cons_of_mem _ he))

theorem cellAt_del_same (l : List Host.Cell) (a : Nat) (h : l.Pairwise (fun x y => x.1 < y.1)) : cellAt (cellDel l a) a = none := by
  induction l with
  | nil => rfl
  | cons x r ih =>
    obtain ⟨k, v⟩ := x
    rw [List.pairwise_cons] at h
    by_cases hk : k = a
    · subst hk
      simp only [cellDel, if_true]
      exact cellAt_none_of_lt _ _ h.1
    · simp only [cellDel, hk, if_false, cellAt]
      exact ih h.2

theorem cellAt_del_other (l : List Host.Cell) (a c : Nat) (h : c ≠ a) : cellAt (cellDel l a) c = cellAt l c := by
  induction l with
  | nil => rfl
  | cons x r ih =>
    obtain ⟨k, v⟩ := x
    by_cases hk : k = a
    · subst hk; simp [cellDel, cellAt, Ne.symm h]
    · simp [cellDel, hk, cellAt, ih]

/-- A byte stored keeps the canonical form. -/
theorem Mem.put_wf (m : Mem) (a : Nat) (b : Byte) (h : m.wf = true) : (m.put a b).wf = true := by
  simp only [Mem.wf, cellsOk_iff] at h ⊢
  by_cases hb : b = bgByte m.fills a
  · simp only [Mem.put, hb, if_true]
    exact ⟨cellDel_sorted _ _ h.1, fun e he => h.2 e (cellDel_mem _ _ _ he)⟩
  · simp only [Mem.put, hb, if_false]
    refine ⟨cellPut_sorted _ _ _ h.1, fun e he => ?_⟩
    rcases cellPut_mem _ _ _ _ he with he | he
    · simpa [he] using hb
    · exact h.2 e he

/-- Bytes stored keep the canonical form. -/
theorem Mem.putList_wf (l : List Byte) : ∀ (m : Mem) (a : Nat), m.wf = true → (m.putList a l).wf = true := by
  induction l with
  | nil => intro m a h; simpa [Mem.putList] using h
  | cons b r ih => intro m a h; exact ih _ _ (Mem.put_wf m a b h)

/-- A difference of check bits set keeps the canonical form. -/
@[simp] theorem Mem.setDiff_wf (m : Mem) (w x : Nat) : (m.setDiff w x).wf = m.wf := rfl

theorem Mem.poison_wf (m : Mem) (w : Nat) (h : m.wf = true) : (m.poison w).wf = true := by
  simpa [Mem.poison] using Mem.putList_wf _ m w h

theorem Mem.upset_wf (m : Mem) (w j : Nat) (h : m.wf = true) : (m.upset w j).wf = true := by
  unfold Mem.upset
  split
  · simpa using Mem.put_wf m _ _ h
  · simpa using h

theorem Mem.correct_wf (m : Mem) (w : Nat) (c : EccClass) (h : m.wf = true) : (m.correct w c).wf = true := by
  unfold Mem.correct
  split
  · simpa using Mem.put_wf m _ _ h
  · simpa using h

/-- Outside a new background, the background is the old one. -/
theorem bgByte_filter (lo hi a : Nat) (h : ¬(lo ≤ a ∧ a ≤ hi)) (f : List (Nat × Nat × Fill)) :
    bgByte (f.filter (fun e => !(decide (lo ≤ e.1) && decide (e.2.1 ≤ hi)))) a = bgByte f a := by
  induction f with
  | nil => rfl
  | cons x r ih =>
    obtain ⟨l, u, t⟩ := x
    rw [List.filter_cons]
    by_cases hx : lo ≤ l ∧ u ≤ hi
    · have hin : (l ≤ a && a ≤ u) = false := by
        rw [Bool.and_eq_false_iff, decide_eq_false_iff_not, decide_eq_false_iff_not]; omega
      rw [if_neg (by simp [hx]), ih]
      simp only [bgByte, hin, Bool.false_eq_true, if_false]
    · rw [if_pos (by simp; omega)]
      simp only [bgByte, ih]

/-- A new background keeps the canonical form. -/
theorem Mem.fill_wf (m : Mem) (lo hi : Nat) (f : Fill) (h : m.wf = true) : (m.fill lo hi f).wf = true := by
  simp only [Mem.wf, cellsOk_iff] at h ⊢
  refine ⟨h.1.filter _, fun e he => ?_⟩
  simp only [Mem.fill, List.mem_filter, Bool.not_eq_true', Bool.and_eq_false_iff, decide_eq_false_iff_not] at he
  have hout : ¬(lo ≤ e.1 ∧ e.1 ≤ hi) := by omega
  have hb : (lo ≤ e.1 && e.1 ≤ hi) = false := by simpa using hout
  simp only [Mem.fill, bgByte, hb, Bool.false_eq_true, if_false, bgByte_filter lo hi e.1 hout]
  exact h.2 e he.1

/-- A byte reads as it was stored. -/
theorem Mem.byte_put_same (m : Mem) (a : Nat) (b : Byte) (h : m.wf = true) : (m.put a b).byte a = b := by
  simp only [Mem.wf, cellsOk_iff] at h
  unfold Mem.byte Mem.put
  by_cases hb : b = bgByte m.fills a
  · simp [hb, cellAt_del_same _ _ h.1]
  · simp [hb, cellAt_put_same]

/-- Every other byte reads as before. -/
theorem Mem.byte_put_other (m : Mem) (a c : Nat) (b : Byte) (h : c ≠ a) : (m.put a b).byte c = m.byte c := by
  unfold Mem.byte Mem.put
  by_cases hb : b = bgByte m.fills a
  · simp [hb, cellAt_del_other _ _ _ h]
  · simp [hb, cellAt_put_other _ _ _ _ h]

/-- Bytes outside the ones stored read as before. -/
theorem Mem.byte_putList_other (l : List Byte) : ∀ (m : Mem) (a c : Nat), ¬(a ≤ c ∧ c < a + l.length) →
    (m.putList a l).byte c = m.byte c := by
  induction l with
  | nil => intro m a c _; rfl
  | cons b r ih =>
    intro m a c h
    simp only [List.length_cons] at h
    rw [Mem.putList, ih _ _ _ (by omega), Mem.byte_put_other _ _ _ _ (by omega)]

/-- Check bits of a word do not change its bytes. -/
@[simp] theorem Mem.byte_setDiff (m : Mem) (w x a : Nat) : (m.setDiff w x).byte a = m.byte a := rfl

/-- The memory right after reset is in canonical form. -/
theorem State.reset_mem_wf : State.reset.dev.mem.wf = true := rfl

end Sys2Proof.Machine
end

