-- ==== Sys2Proof/Laws/Table.lean ====
section
/-!
SUPPORT. Laws/Table.lean: what a table reads after one of its entries is set.
-/
namespace Sys2Proof.Machine

/-- The entry that was set. -/
theorem tget?_tset_same {α : Type} (t : Tbl α) (k : Nat) (v : α) : tget? (tset t k v) k = some v := by
  induction t with
  | nil => simp [tset, tget?]
  | cons e r ih =>
    obtain ⟨a, w⟩ := e
    by_cases h1 : k < a
    · simp [tset, h1, tget?]
    · by_cases h2 : a = k
      · simp [tset, h2, tget?]
      · simp [tset, h1, h2, tget?, ih]

/-- Every other entry. -/
theorem tget?_tset_other {α : Type} (t : Tbl α) (k j : Nat) (v : α) (h : j ≠ k) : tget? (tset t k v) j = tget? t j := by
  induction t with
  | nil => simp [tset, tget?, Ne.symm h]
  | cons e r ih =>
    obtain ⟨a, w⟩ := e
    by_cases h1 : k < a
    · simp [tset, h1, tget?, Ne.symm h]
    · by_cases h2 : a = k
      · subst h2; simp [tset, tget?, Ne.symm h]
      · simp [tset, h1, h2, tget?, ih]

@[simp] theorem tget_tset_same {α : Type} (t : Tbl α) (k : Nat) (v d : α) : tget (tset t k v) k d = v := by
  simp [tget, tget?_tset_same]

theorem tget_tset_other {α : Type} (t : Tbl α) (k j : Nat) (v d : α) (h : j ≠ k) : tget (tset t k v) j d = tget t j d := by
  simp [tget, tget?_tset_other t k j v h]

@[simp] theorem tget_tmod_same {α : Type} (t : Tbl α) (k : Nat) (d : α) (f : α → α) : tget (tmod t k d f) k d = f (tget t k d) := by
  simp [tmod]

theorem tget_tmod_other {α : Type} (t : Tbl α) (k j : Nat) (d : α) (f : α → α) (h : j ≠ k) : tget (tmod t k d f) j d = tget t j d := by
  simp [tmod, tget_tset_other _ _ _ _ _ h]

end Sys2Proof.Machine
end

