-- ==== Sys2Proof/Laws/Data.lean ====
section
/-!
SUPPORT. Laws/Data.lean: what every operation on data does to the rest of the module: nothing but what Kept allows, and memory stays in its canonical form. One lemma for
each shared operation, from a touched word up to a packet's outcome.
-/
namespace Sys2Proof
open Sys2Proof.Machine

/-- Kept holds where every field it names is the same. -/
theorem Kept.of_eq {d x : Dev} (h1 : x.fuse = d.fuse) (h2 : x.pins = d.pins) (h3 : x.fc = d.fc) (h4 : x.rails = d.rails) (h5 : x.sup = d.sup)
    (h6 : x.pwr = d.pwr) (h7 : x.pcie = d.pcie) (h8 : x.thm = d.thm) (h9 : x.queues = d.queues) (h10 : x.snp = d.snp) (h11 : x.lck = d.lck) : Kept d x :=
  { fuse := h1, pins := h2, fc := h3, rails := h4, sup := h5, pwr := by rw [h6], pcie := h7, thm := h8,
    queues := fun q => by simp only [Dev.queue, h9], snp := h10, lck := h11 }

theorem Kept.refl (d : Dev) : Kept d d := Kept.of_eq rfl rfl rfl rfl rfl rfl rfl rfl rfl rfl rfl

theorem Kept.trans {d x y : Dev} (h : Kept d x) (g : Kept x y) : Kept d y :=
  { fuse := g.fuse.trans h.fuse, pins := g.pins.trans h.pins, fc := g.fc.trans h.fc, rails := g.rails.trans h.rails, sup := g.sup.trans h.sup,
    pwr := by rw [g.pwr, h.pwr], pcie := g.pcie.trans h.pcie, thm := g.thm.trans h.thm,
    queues := fun q => by rw [g.queues q, h.queues q], snp := g.snp.trans h.snp, lck := g.lck.trans h.lck }

end Sys2Proof

namespace Sys2Proof.Machine

/-- x comes from d by operations on data: Kept holds, and memory keeps its canonical form. -/
structure DataStep (d x : Dev) : Prop where
  /-- What no operation on data reaches. -/
  kept : Kept d x
  /-- The canonical form of memory. -/
  wf : d.mem.wf = true → x.mem.wf = true

theorem DataStep.refl (d : Dev) : DataStep d d := ⟨Kept.refl d, id⟩

theorem DataStep.trans {d x y : Dev} (h : DataStep d x) (g : DataStep x y) : DataStep d y := ⟨h.kept.trans g.kept, fun w => g.wf (h.wf w)⟩

/-- A fold of operations on data. -/
theorem DataStep.foldl {α : Type} (f : Dev → α → Dev) (h : ∀ d a, DataStep d (f d a)) (l : List α) : ∀ d, DataStep d (l.foldl f d) := by
  induction l with
  | nil => exact DataStep.refl
  | cons a r ih => exact fun d => (h d a).trans (ih (f d a))

/-- A fold that carries the module with other results. -/
theorem DataStep.foldlOn {α β : Type} (p : β → Dev) (f : β → α → β) (h : ∀ b a, DataStep (p b) (p (f b a))) (l : List α) :
    ∀ b, DataStep (p b) (p (l.foldl f b)) := by
  induction l with
  | nil => exact fun b => DataStep.refl _
  | cons a r ih => exact fun b => (h b a).trans (ih (f b a))

/-- Memory replaced by one in canonical form. -/
theorem DataStep.setMem (d : Dev) (m : Mem) (h : d.mem.wf = true → m.wf = true) : DataStep d { d with mem := m } :=
  ⟨Kept.of_eq rfl rfl rfl rfl rfl rfl rfl rfl rfl rfl rfl, h⟩

/-- Fields outside Kept and memory replaced. -/
theorem DataStep.of_eq {d x : Dev} (h1 : x.fuse = d.fuse) (h2 : x.pins = d.pins) (h3 : x.fc = d.fc) (h4 : x.rails = d.rails) (h5 : x.sup = d.sup)
    (h6 : x.pwr = d.pwr) (h7 : x.pcie = d.pcie) (h8 : x.thm = d.thm) (h9 : x.queues = d.queues) (h10 : x.snp = d.snp) (h11 : x.lck = d.lck)
    (hm : x.mem = d.mem) : DataStep d x := ⟨Kept.of_eq h1 h2 h3 h4 h5 h6 h7 h8 h9 h10 h11, fun w => by rw [hm]; exact w⟩

/-- Either branch of a choice. -/
theorem DataStep.ite {d a b : Dev} {c : Prop} [Decidable c] (ha : c → DataStep d a) (hb : ¬c → DataStep d b) : DataStep d (if c then a else b) := by
  split
  · next h => exact ha h
  · next h => exact hb h

/-- Either branch of a choice between results that carry the module. -/
theorem DataStep.iteFst {β : Type} {d : Dev} {a b : Dev × β} {c : Prop} [Decidable c] (ha : c → DataStep d a.1) (hb : ¬c → DataStep d b.1) :
    DataStep d (if c then a else b).1 := by
  split
  · next h => exact ha h
  · next h => exact hb h

/-! Events, counters, reservations. -/

theorem Dev.raiseSlc_data (d : Dev) (m : BitVec 8) : DataStep d (d.raiseSlc m) := .of_eq rfl rfl rfl rfl rfl rfl rfl rfl rfl rfl rfl rfl
theorem Dev.raiseHbm_data (d : Dev) (m : BitVec 9) : DataStep d (d.raiseHbm m) := .of_eq rfl rfl rfl rfl rfl rfl rfl rfl rfl rfl rfl rfl
theorem Dev.raiseZf_data (d : Dev) (m : BitVec 3) : DataStep d (d.raiseZf m) := .of_eq rfl rfl rfl rfl rfl rfl rfl rfl rfl rfl rfl rfl
theorem Dev.raiseKpm_data (d : Dev) (m : BitVec 5) : DataStep d (d.raiseKpm m) := .of_eq rfl rfl rfl rfl rfl rfl rfl rfl rfl rfl rfl rfl
theorem Dev.raiseLnk_data (d : Dev) (m : BitVec 5) : DataStep d (d.raiseLnk m) := .of_eq rfl rfl rfl rfl rfl rfl rfl rfl rfl rfl rfl rfl
theorem Dev.breakClass_data (d : Dev) (m : BitVec 8) : DataStep d (d.breakClass m) := .of_eq rfl rfl rfl rfl rfl rfl rfl rfl rfl rfl rfl rfl
theorem Dev.publishLive_data (d : Dev) : DataStep d d.publishLive := by
  unfold Dev.publishLive
  exact .ite (fun _ => .of_eq rfl rfl rfl rfl rfl rfl rfl rfl rfl rfl rfl rfl) (fun _ => .of_eq rfl rfl rfl rfl rfl rfl rfl rfl rfl rfl rfl rfl)
theorem Dev.advTo_data (d : Dev) (t : Nat) : DataStep d (d.advTo t) := .ite (fun _ => .of_eq rfl rfl rfl rfl rfl rfl rfl rfl rfl rfl rfl rfl) (fun _ => .refl d)
theorem Dev.emit_data (d : Dev) (o : Out) : DataStep d (d.emit o) := .of_eq rfl rfl rfl rfl rfl rfl rfl rfl rfl rfl rfl rfl
theorem Dev.draw_data (d : Dev) : DataStep d d.draw := .of_eq rfl rfl rfl rfl rfl rfl rfl rfl rfl rfl rfl rfl
theorem Dev.setSlice_data (d : Dev) (n c : Nat) (x : Slice) : DataStep d (d.setSlice n c x) := .of_eq rfl rfl rfl rfl rfl rfl rfl rfl rfl rfl rfl rfl
theorem Dev.setStack_data (d : Dev) (h : Nat) (x : HbmStat) : DataStep d (d.setStack h x) := .of_eq rfl rfl rfl rfl rfl rfl rfl rfl rfl rfl rfl rfl
theorem Dev.setSb_data (d : Dev) (k : Nat) (l : List SbEntry) : DataStep d (d.setSb k l) := .of_eq rfl rfl rfl rfl rfl rfl rfl rfl rfl rfl rfl rfl
theorem Dev.setPart_data (d : Dev) (o : Nat) (p : Part) : DataStep d (d.setPart o p) := .of_eq rfl rfl rfl rfl rfl rfl rfl rfl rfl rfl rfl rfl
theorem Dev.setPool_data (d : Dev) (k : Nat) (p : Pool) : DataStep d (d.setPool k p) := .of_eq rfl rfl rfl rfl rfl rfl rfl rfl rfl rfl rfl rfl
theorem Dev.setSlot_data (d : Dev) (k : Nat) (x : KSlot) : DataStep d (d.setSlot k x) := .of_eq rfl rfl rfl rfl rfl rfl rfl rfl rfl rfl rfl rfl
theorem Dev.setChan_data (d : Dev) (k : Nat) (x : DmaCh) : DataStep d (d.setChan k x) := .of_eq rfl rfl rfl rfl rfl rfl rfl rfl rfl rfl rfl rfl
theorem Dev.setLink_data (d : Dev) (l : Nat) (x : Link) : DataStep d (d.setLink l x) := .of_eq rfl rfl rfl rfl rfl rfl rfl rfl rfl rfl rfl rfl
theorem Dev.mapPkts_data (d : Dev) (f : Pkt → Pkt) : DataStep d (d.mapPkts f) := .of_eq rfl rfl rfl rfl rfl rfl rfl rfl rfl rfl rfl rfl
theorem Dev.modPkt_data (d : Dev) (o : Nat) (f : Pkt → Pkt) : DataStep d (d.modPkt o f) := d.mapPkts_data _
theorem Dev.setQueues_data (d : Dev) (k : Nat) (x : Queue)
    (h : x = { d.queueK k with badDb := x.badDb, replayed := x.replayed, aborted := x.aborted }) : DataStep d { d with queues := tset d.queues k x } := by
  refine ⟨{ fuse := rfl, pins := rfl, fc := rfl, rails := rfl, sup := rfl, pwr := rfl, pcie := rfl, thm := rfl, snp := rfl, lck := rfl,
            queues := fun q => ?_ }, id⟩
  simp only [Dev.queue]
  by_cases hq : qKey q = k
  · rw [hq, tget_tset_same]; exact h
  · rw [tget_tset_other _ _ _ _ _ hq]

theorem Dev.finish_data (d : Dev) (o : Nat) (st : BitVec 16) (r : Nat) : DataStep d (d.finish o st r) := d.modPkt_data _ _

theorem Dev.bump_data (d : Dev) (bank g i n : Nat) : DataStep d (d.bump bank g i n) := by
  unfold Dev.bump
  dsimp only
  split
  · split
    · split
      · exact .of_eq rfl rfl rfl rfl rfl rfl rfl rfl rfl rfl rfl rfl
      · exact .of_eq rfl rfl rfl rfl rfl rfl rfl rfl rfl rfl rfl rfl
    · exact .of_eq rfl rfl rfl rfl rfl rfl rfl rfl rfl rfl rfl rfl
  · exact .of_eq rfl rfl rfl rfl rfl rfl rfl rfl rfl rfl rfl rfl

theorem Dev.count_data (d : Dev) (o : Option Nat) (g i n : Nat) : DataStep d (d.count o g i n) := by
  unfold Dev.count
  split
  · exact .refl d
  · split
    · exact d.bump_data _ _ _ _
    · exact (d.bump_data _ _ _ _).trans (Dev.bump_data _ _ _ _ _)

theorem Dev.countZf_data (d : Dev) (o : Option Nat) (l : List (Nat × Nat)) : DataStep d (d.countZf o l) :=
  DataStep.foldl _ (fun d _ => d.count_data _ _ _ _) l d

theorem Dev.logSlc_data (d : Dev) (c s b l a : Nat) : DataStep d (d.logSlc c s b l a) := by
  unfold Dev.logSlc
  exact .of_eq rfl rfl rfl rfl rfl rfl rfl rfl rfl rfl rfl rfl

theorem Dev.logHbm_data (d : Dev) (c s b h p a : Nat) : DataStep d (d.logHbm c s b h p a) := by
  unfold Dev.logHbm
  exact .of_eq rfl rfl rfl rfl rfl rfl rfl rfl rfl rfl rfl rfl

theorem Dev.countRsv_data (d : Dev) (o : Nat) (x : Bool) : DataStep d (d.countRsv o x) := by
  unfold Dev.countRsv
  split
  · exact .of_eq rfl rfl rfl rfl rfl rfl rfl rfl rfl rfl rfl rfl
  · exact .refl d

theorem Dev.dropRsv_data (d : Dev) (k : Nat) : DataStep d (d.dropRsv k) := by
  unfold Dev.dropRsv
  dsimp only
  split
  · exact .refl d
  · refine DataStep.trans ?_ (Dev.countRsv_data _ _ _)
    exact .of_eq rfl rfl rfl rfl rfl rfl rfl rfl rfl rfl rfl rfl

theorem Dev.breakRsv_data (d : Dev) (a n : Nat) (o : Option Nat) : DataStep d (d.breakRsv a n o) :=
  DataStep.foldl _ (fun d _ => d.dropRsv_data _) _ d


theorem Dev.hbmPass_data (d : Dev) : DataStep d d.hbmPass := by
  unfold Dev.hbmPass
  refine .ite (fun _ => ?_) (fun _ => .refl d)
  exact (DataStep.foldl _ (fun d _ => d.setStack_data _ _) _ d).trans (.of_eq rfl rfl rfl rfl rfl rfl rfl rfl rfl rfl rfl rfl)

theorem Dev.mapOut_data (d : Dev) (h p src : Nat) (brk : Bool) : DataStep d (d.mapOut h p src brk) := by
  unfold Dev.mapOut
  refine DataStep.ite (fun _ => ?_) (fun _ => .refl d)
  extract_lets ks d1 s d2 d3 b d4 d5 d6
  have h1 : DataStep d d1 := DataStep.foldl _ (fun d _ => d.dropRsv_data _) _ d
  have h2 : DataStep d d2 := h1.trans (d1.setStack_data _ _)
  have h3 : DataStep d d3 := h2.trans (Dev.logHbm_data _ _ _ _ _ _ _)
  clear_value d3
  have h4 : DataStep d d4 := h3.trans (.of_eq rfl rfl rfl rfl rfl rfl rfl rfl rfl rfl rfl rfl)
  have h5 : DataStep d d5 := h4.trans d4.publishLive_data
  clear_value d5
  have h6 : DataStep d d6 := DataStep.trans (.ite (fun _ => h5.trans (Dev.raiseHbm_data _ _)) (fun _ => h5)) (Dev.hbmPass_data _)
  exact .ite (fun _ => h6.trans (Dev.breakClass_data _ _)) (fun _ => h6)

theorem Dev.tallyRow_data (d : Dev) (h p w src : Nat) : DataStep d (d.tallyRow h p w src) := by
  unfold Dev.tallyRow
  dsimp only
  split
  · exact .refl d
  · split
    · exact (d.setStack_data _ _).trans (Dev.mapOut_data _ _ _ _ _)
    · exact d.setStack_data _ _

theorem Dev.goReadOnly_data (d : Dev) (n c : Nat) : DataStep d (d.goReadOnly n c) := by
  unfold Dev.goReadOnly
  dsimp only
  split
  · exact (d.setSlice_data _ _ _).trans (Dev.raiseSlc_data _ _)
  · exact .refl d

theorem Dev.tallyLane_data (d : Dev) (n c off j src a : Nat) : DataStep d (d.tallyLane n c off j src a) := by
  unfold Dev.tallyLane
  dsimp only
  split
  · exact .refl d
  · split
    · split
      · exact (d.setSlice_data _ _ _).trans (Dev.logSlc_data _ _ _ _ _ _)
      · exact (d.setSlice_data _ _ _).trans (Dev.goReadOnly_data _ _ _)
    · exact d.setSlice_data _ _ _

theorem Dev.poisonMem_data (d : Dev) (w : Nat) : DataStep d { d with mem := d.mem.poison w } := .setMem d _ (Mem.poison_wf _ _)
theorem Dev.correctWord_data (d : Dev) (w : Nat) (c : EccClass) : DataStep d { d with mem := d.mem.correct w c } := .setMem d _ (Mem.correct_wf _ _ _)

theorem Dev.keepBack_data (d : Dev) (acc : Acc) (a : Nat) (b : List Byte) (p : Bool) : DataStep d (d.keepBack acc a b p) := .of_eq rfl rfl rfl rfl rfl rfl rfl rfl rfl rfl rfl rfl

/-- A word that becomes poison, at once or once an exclusive hold ends. -/
theorem Dev.poisonWord_data (d : Dev) (acc : Acc) (w : Nat) : DataStep d (d.poisonWord acc w) :=
  .ite (fun _ => d.keepBack_data _ _ _ _) (fun _ => (d.poisonMem_data w).trans (Dev.breakRsv_data _ _ _ _))

theorem Dev.hbmCount_data (d : Dev) (c s b h p a : Nat) (o : Option Nat) (g i : Nat) : DataStep d ((d.logHbm c s b h p a).count o g i 1) :=
  (d.logHbm_data _ _ _ _ _ _).trans (Dev.count_data _ _ _ _ _)

theorem Dev.slcCount_data (d : Dev) (c s b l a : Nat) (o : Option Nat) (g i : Nat) : DataStep d ((d.logSlc c s b l a).count o g i 1) :=
  (d.logSlc_data _ _ _ _ _).trans (Dev.count_data _ _ _ _ _)

/-- A word that is read. -/
theorem Dev.touchWord_data (d : Dev) (acc : Acc) (w : Nat) (loc : Loc) : DataStep d (d.touchWord acc w loc).1 := by
  cases loc
  case hbm h p i a =>
    have bad : ∀ c, DataStep d ((((d.logHbm c acc.src 0 h p w).count acc.owner 4 4 1).poisonWord acc w).tallyRow h p i acc.src) :=
      fun c => ((d.hbmCount_data _ _ _ _ _ _ _ _ _).trans (Dev.poisonWord_data _ _ _)).trans (Dev.tallyRow_data _ _ _ _ _)
    refine DataStep.iteFst (fun _ => bad _) (fun _ => .iteFst (fun _ => .iteFst (fun _ => ?_) (fun _ => .refl d))
      (fun _ => .iteFst (fun _ => ?_) (fun _ => .iteFst (fun _ => ?_) (fun _ => bad _))))
    · have ce : ∀ s, DataStep d ((d.setStack h s).count acc.owner 4 6 1) := fun s => (d.setStack_data h s).trans (Dev.count_data _ _ _ _ _)
      exact ce _
    · exact DataStep.trans (d.correctWord_data w _) (Dev.hbmCount_data _ _ _ _ _ _ _ _ _ _)
    · exact .ite (fun _ => (d.hbmCount_data _ _ _ _ _ _ _ _ _).trans (Dev.poisonWord_data _ _ _)) (fun _ => d.hbmCount_data _ _ _ _ _ _ _ _ _)
  case slice n c off =>
    refine DataStep.iteFst (fun _ => .refl d) (fun _ => .iteFst (fun _ => ?_) (fun _ => .iteFst (fun _ => ?_) (fun _ => ?_)))
    · refine DataStep.trans (DataStep.trans (d.correctWord_data w _) (Dev.slcCount_data _ _ _ _ _ _ _ _ _)) (Dev.tallyLane_data _ _ _ _ _ _ _)
    · exact .ite (fun _ => (d.slcCount_data _ _ _ _ _ _ _ _).trans (Dev.poisonWord_data _ _ _)) (fun _ => d.slcCount_data _ _ _ _ _ _ _ _)
    · exact (d.slcCount_data _ _ _ _ _ _ _ _).trans (Dev.poisonWord_data _ _ _)
  case sram n c off =>
    refine DataStep.iteFst (fun _ => .refl d) (fun _ => .iteFst (fun _ => ?_) (fun _ => .iteFst (fun _ => d.slcCount_data _ _ _ _ _ _ _ _) (fun _ => ?_)))
    · exact DataStep.trans (d.correctWord_data w _) (Dev.slcCount_data _ _ _ _ _ _ _ _ _)
    · exact (d.slcCount_data _ _ _ _ _ _ _ _).trans (Dev.poisonWord_data _ _ _)
  all_goals exact .refl d

/-! Registers read by units (21 R436). -/

theorem Dev.qRc_data (d : Dev) (k o : Nat) : DataStep d (d.qRc k o) :=
  .ite (fun _ => d.setQueues_data _ _ rfl) (fun _ => .ite (fun _ => d.setQueues_data _ _ rfl) (fun _ => .refl d))

theorem Dev.strideRc_data (d : Dev) (p o : Nat) : DataStep d (d.strideRc p o) := by
  unfold Dev.strideRc
  dsimp only
  split
  · exact .refl d
  · split
    · exact .of_eq rfl rfl rfl rfl rfl rfl rfl rfl rfl rfl rfl rfl
    · exact .of_eq rfl rfl rfl rfl rfl rfl rfl rfl rfl rfl rfl rfl
    · exact .of_eq rfl rfl rfl rfl rfl rfl rfl rfl rfl rfl rfl rfl
    · split
      · exact d.qRc_data _ _
      · exact .refl d

/-- The side effects of a register read. -/
theorem Dev.regSide_data (d : Dev) (fn : Fn) (off : Nat) : DataStep d (d.regSide fn off) := by
  have pwr : DataStep d { d with pwr := { d.pwr with crcErr := 0, gaps := 0, unackedN := 0 } } :=
    ⟨{ fuse := rfl, pins := rfl, fc := rfl, rails := rfl, sup := rfl, pwr := rfl, pcie := rfl, thm := rfl, snp := rfl, lck := rfl, queues := fun _ => rfl }, id⟩
  have time : DataStep d (d.latchTime fn) := .of_eq rfl rfl rfl rfl rfl rfl rfl rfl rfl rfl rfl rfl
  have cnt : DataStep d (d.latchCnt fn) := .of_eq rfl rfl rfl rfl rfl rfl rfl rfl rfl rfl rfl rfl
  unfold Dev.regSide
  refine .ite (fun _ => .refl d) (fun _ => .ite (fun _ => time) (fun _ => .ite (fun _ => cnt) (fun _ => .ite (fun _ => pwr) (fun _ =>
    .ite (fun _ => ?_) (fun _ => .ite (fun _ => d.strideRc_data _ _) (fun _ => .ite (fun _ => ?_) (fun _ => .ite (fun _ => ?_) (fun _ =>
    .ite (fun _ => ?_) (fun _ => .ite (fun _ => ?_) (fun _ => .ite (fun _ => ?_) (fun _ => .ite (fun _ => ?_) (fun _ => .refl d))))))))))))
  · split
    · exact d.qRc_data _ _
    · exact .refl d
  · split
    · exact .ite (fun _ => .of_eq rfl rfl rfl rfl rfl rfl rfl rfl rfl rfl rfl rfl) (fun _ => .refl d)
    · exact .refl d
  · split
    · exact .ite (fun _ => .of_eq rfl rfl rfl rfl rfl rfl rfl rfl rfl rfl rfl rfl) (fun _ => .ite (fun _ => .of_eq rfl rfl rfl rfl rfl rfl rfl rfl rfl rfl rfl rfl) (fun _ => .refl d))
    · exact .refl d
  · split
    · exact .ite (fun _ => .of_eq rfl rfl rfl rfl rfl rfl rfl rfl rfl rfl rfl rfl) (fun _ => .ite (fun _ => .of_eq rfl rfl rfl rfl rfl rfl rfl rfl rfl rfl rfl rfl)
        (fun _ => .ite (fun _ => .of_eq rfl rfl rfl rfl rfl rfl rfl rfl rfl rfl rfl rfl) (fun _ => .refl d)))
    · exact .refl d
  · split
    · exact .ite (fun _ => d.setStack_data _ _) (fun _ => .refl d)
    · exact .refl d
  · refine .ite (fun _ => .of_eq rfl rfl rfl rfl rfl rfl rfl rfl rfl rfl rfl rfl) (fun _ => ?_)
    split
    · exact .of_eq rfl rfl rfl rfl rfl rfl rfl rfl rfl rfl rfl rfl
    · exact .refl d
  · refine .ite (fun _ => .of_eq rfl rfl rfl rfl rfl rfl rfl rfl rfl rfl rfl rfl) (fun _ => ?_)
    split
    · exact .of_eq rfl rfl rfl rfl rfl rfl rfl rfl rfl rfl rfl rfl
    · split
      · exact .of_eq rfl rfl rfl rfl rfl rfl rfl rfl rfl rfl rfl rfl
      · exact .refl d

theorem Dev.regBytes_data (d : Dev) (o : Option Nat) (off n : Nat) : DataStep d (d.regBytes o off n).1 := by
  unfold Dev.regBytes
  refine DataStep.foldlOn (fun x : Dev × List Byte => x.1) _ ?_ _ (d, [])
  intro b a
  exact .iteFst (fun _ => .refl _) (fun _ => Dev.regSide_data _ _ _)

/-! Accesses. -/

theorem Dev.rlcFill_data (d : Dev) (l : RlcLine) : DataStep d (d.rlcFill l) := .of_eq rfl rfl rfl rfl rfl rfl rfl rfl rfl rfl rfl rfl

theorem Dev.rlcDrop_data (d : Dev) (s t o : Nat) : DataStep d (d.rlcDrop s t o) := .of_eq rfl rfl rfl rfl rfl rfl rfl rfl rfl rfl rfl rfl

theorem Dev.setZf_data (d : Dev) (z : Zf) : DataStep d { d with zf := z } := .of_eq rfl rfl rfl rfl rfl rfl rfl rfl rfl rfl rfl rfl

theorem Dev.sendFlit_data (d : Dev) (l : Nat) (nak : Bool) : DataStep d (d.sendFlit l nak) := by
  unfold Dev.sendFlit
  generalize (d.link l).plan = pl
  obtain ⟨r, q, s⟩ := pl
  refine DataStep.trans (DataStep.trans ?_ (Dev.setLink_data _ _ _)) (Dev.emit_data _ _)
  exact (DataStep.foldl _ (fun d _ => d.count_data _ _ _ _) _ d).trans (Dev.count_data _ _ _ _ _)

theorem Dev.pump_data (l n : Nat) : ∀ d : Dev, DataStep d (d.pump l n) := by
  induction n with
  | zero => exact DataStep.refl
  | succ n ih => exact fun d => .ite (fun _ => (d.sendFlit_data l false).trans (ih _)) (fun _ => .refl d)

theorem Dev.enqueue_data (d : Dev) (l : Nat) (t : TxMsg) : DataStep d (d.enqueue l t) := (d.setLink_data _ _).trans (Dev.pump_data _ _ _)

/-- What an access outside the module puts out. -/
theorem Dev.askPartner_data (d : Dev) (acc : Acc) (off n : Nat) (wr : Option (List Byte)) : DataStep d (d.askPartner acc off n wr) := by
  unfold Dev.askPartner
  refine DataStep.foldl _ (fun d x => ?_) _ d
  dsimp only
  split
  · exact d.setZf_data _
  · exact .ite (fun _ => (d.emit_data _).trans (Dev.setZf_data _ _)) (fun _ => (d.emit_data _).trans (Dev.setZf_data _ _))

theorem Dev.askRemote_data (d : Dev) (acc : Acc) (node a n : Nat) (wr : Option (List Byte)) : DataStep d (d.askRemote acc node a n wr) := by
  have lnk : ∀ (d : Dev) (x : Lnk), DataStep d { d with lnk := x } := fun d x => .of_eq rfl rfl rfl rfl rfl rfl rfl rfl rfl rfl rfl rfl
  unfold Dev.askRemote
  split
  · exact .refl d
  · exact (lnk d _).trans (DataStep.foldl _ (fun d i => (lnk d _).trans (Dev.enqueue_data _ _ _)) _ _)

theorem Dev.askExt_data (d : Dev) (acc : Acc) (a n : Nat) (wr : Option (List Byte)) : DataStep d (d.askExt acc a n wr) := by
  unfold Dev.askExt
  split
  · exact d.emit_data _
  · exact .ite (fun _ => .refl d) (fun _ => d.askPartner_data _ _ _ _)
  · exact d.askRemote_data _ _ _ _ _
  · exact .refl d

theorem Dev.touchLine_data (d : Dev) (acc : Acc) (tag : Nat) : DataStep d (d.touchLine acc tag).1 :=
  DataStep.foldlOn (fun x : Dev × List (BitVec 16) => x.1) _ (fun b _ => b.1.touchWord_data _ _ _) _ (d, [])

theorem Dev.countRange_data (d : Dev) (o i : Option Nat) (n : Nat) : DataStep d (match i with | some i => d.count o 0 i n | none => d) := by
  cases i
  · exact .refl d
  · exact d.count_data _ _ _ _

/-- A line fetched. -/
theorem Dev.fetchLine_data (d : Dev) (acc : Acc) (site w : Nat) : DataStep d (d.fetchLine acc site w).1 := by
  have h := ((d.touchLine_data acc (w / 256)).trans (Dev.askExt_data _ acc (256 * (w / 256)) 256 none)).trans
    (Dev.countRange_data _ acc.owner ((Dev.askExt (d.touchLine acc (w / 256)).1 acc (256 * (w / 256)) 256 none).locate w).memIdx 256)
  unfold Dev.fetchLine
  exact .ite (fun _ => h) (fun _ => h.trans (Dev.rlcFill_data _ _))

theorem Dev.readWord_data (d : Dev) (acc : Acc) (w : Nat) : DataStep d (d.readWord acc w).1 := by
  unfold Dev.readWord
  dsimp only
  split
  · exact d.touchWord_data _ _ _
  · split
    · exact .iteFst (fun _ => (((d.rlcDrop_data _ _ _).trans (Dev.raiseZf_data _ _)).trans (Dev.count_data _ _ _ _ _)).trans (Dev.fetchLine_data _ _ _ _))
        (fun _ => DataStep.trans (d.rlcFill_data _) (Dev.count_data (d.rlcFill _) acc.owner 0 8 1))
    · exact (d.count_data _ _ _ _).trans (Dev.fetchLine_data _ _ _ _)

/-- A read of bytes. -/
theorem Dev.readBytes_data (d : Dev) (acc : Acc) (a n : Nat) : DataStep d (d.readBytes acc a n).d := by
  unfold Dev.readBytes
  split
  · exact .refl d
  · have h : ∀ l : List Nat, DataStep d (l.foldl (fun (x : RdR) w =>
        let y := x.d.readWord acc w
        { d := y.1, bytes := x.bytes ++ y.2.1, st := thenSt x.st y.2.2,
          fail := if isExc y.2.2 && !isExc x.st then max w (d.canon a) else x.fail }) { d := d }).d :=
      fun l => DataStep.foldlOn RdR.d _ (fun b w => Dev.readWord_data _ _ _) l { d := d }
    dsimp only
    split
    · split
      · exact d.regBytes_data _ _ _
      · exact .refl d
    · have k := fun i m => (h (wordsOf (d.canon a) n)).trans (Dev.countRange_data _ acc.owner i m)
      exact .ite (fun _ => (k _ _).trans (Dev.askExt_data _ _ _ _ _)) (fun _ => k _ _)

theorem Dev.putBytes_data (d : Dev) (a : Nat) (b : List Byte) : DataStep d { d with mem := d.mem.putList a b } := .setMem d _ (Mem.putList_wf _ _ _)

theorem Dev.putFull_data (d : Dev) (w : Nat) (b : List Byte) : DataStep d { d with mem := (d.mem.putList w b).setDiff w 0 } :=
  .setMem d _ (fun h => by simpa using Mem.putList_wf _ _ _ h)

theorem Dev.setRegq_data (d : Dev) (l : List (Nat × Nat × List Byte)) : DataStep d { d with disp := { d.disp with regq := l } } := .of_eq rfl rfl rfl rfl rfl rfl rfl rfl rfl rfl rfl rfl

theorem Dev.storeWord_data (d : Dev) (acc : Acc) (w o : Nat) (b : List Byte) : DataStep d (d.storeWord acc w o b).1 := by
  unfold Dev.storeWord
  refine .iteFst (fun _ => d.keepBack_data _ _ _ _) (fun _ => .iteFst (fun _ => (d.putFull_data w b).trans (Dev.breakRsv_data _ _ _ _)) (fun _ => ?_))
  have t := d.touchWord_data { acc with src := if acc.src == 0 && !acc.bar4 then 1 else acc.src } w (d.locate w)
  generalize d.touchWord { acc with src := if acc.src == 0 && !acc.bar4 then 1 else acc.src } w (d.locate w) = r at t ⊢
  exact .iteFst (fun _ => t.trans (r.1.poisonWord_data _ _)) (fun _ => (t.trans (r.1.putBytes_data (w + o) b)).trans (Dev.breakRsv_data _ _ _ _))

theorem Dev.writeWord_data (d : Dev) (acc : Acc) (w o : Nat) (b : List Byte) : DataStep d (d.writeWord acc w o b).1 := by
  have out : ∀ s, DataStep d (if isExc s then d else { d with mem := d.mem.putList (w + o) b }) := fun s => .ite (fun _ => .refl d) (fun _ => d.putBytes_data _ _)
  unfold Dev.writeWord
  dsimp only
  split
  · exact .refl d
  · exact d.setRegq_data _
  · exact d.storeWord_data _ _ _ _
  · exact .iteFst (fun _ => .refl d) (fun _ => d.storeWord_data _ _ _ _)
  · exact d.storeWord_data _ _ _ _
  · exact .iteFst (fun _ => out _) (fun _ => .refl d)
  · exact out _
  · exact out _

theorem Dev.countRangeW_data (d : Dev) (o i : Option Nat) (n : Nat) : DataStep d (match i with | some i => d.count o 0 (i + 1) n | none => d) := by
  cases i
  · exact .refl d
  · exact d.count_data _ _ _ _

/-- A write of bytes. -/
theorem Dev.writeBytes_data (d : Dev) (acc : Acc) (a : Nat) (b : List Byte) : DataStep d (d.writeBytes acc a b).d := by
  have h : ∀ l : List (Nat × Nat × List Byte), DataStep d (l.foldl (fun (x : WrR) p =>
      let y := x.d.writeWord acc p.1 p.2.1 p.2.2
      { d := y.1, st := thenSt x.st y.2, fail := if isExc y.2 && !isExc x.st then p.1 + p.2.1 else x.fail }) { d := d }).d :=
    fun l => DataStep.foldlOn WrR.d _ (fun b w => Dev.writeWord_data _ _ _ _ _) l { d := d }
  unfold Dev.writeBytes
  dsimp only
  split
  · exact h _
  · exact ((h (cutWords (b.length / 32 + 2) (d.canon a) b)).trans (Dev.countRangeW_data _ acc.owner ((d.locate (d.canon a)).memIdx) b.length)).trans
      (Dev.askExt_data _ _ _ _ _)

theorem Dev.poisonRange_data (d : Dev) (acc : Acc) (a n : Nat) : DataStep d (d.poisonRange acc a n) := by
  unfold Dev.poisonRange
  split
  · exact .refl d
  · have h : DataStep d ((wordsOf (d.canon a) n).foldl (fun d w => match d.locate w with
        | .hbm _ _ _ _ => d.poisonWord acc w
        | .slice s c _ => if (d.slice s c).st == 1 then d else d.poisonWord acc w
        | .sram _ _ _ => d.poisonWord acc w
        | _ => d) d) := by
      refine DataStep.foldl _ (fun d w => ?_) _ d
      split
      · exact d.poisonWord_data _ _
      · exact .ite (fun _ => .refl d) (fun _ => d.poisonWord_data _ _)
      · exact d.poisonWord_data _ _
      · exact .refl d
    dsimp only
    split
    · exact h.trans (Dev.emit_data _ _)
    · exact h

theorem Dev.applyEnv_data (d : Dev) (e : Env) : DataStep d (d.applyEnv e) := by
  refine DataStep.setMem d _ (fun h => ?_)
  have cells : ∀ (l : List (Nat × Byte)) (m : Mem), m.wf = true → (l.foldl (fun m c => m.put (d.canon c.1) c.2) m).wf = true := by
    intro l
    induction l with
    | nil => exact fun m h => h
    | cons c r ih => exact fun m h => ih _ (Mem.put_wf _ _ _ h)
  have ups : ∀ (l : List (Nat × Nat)) (m : Mem), m.wf = true → (l.foldl (fun m u => m.upset u.1 u.2) m).wf = true := by
    intro l
    induction l with
    | nil => exact fun m h => h
    | cons c r ih => exact fun m h => ih _ (Mem.upset_wf _ _ _ h)
  have ca : ∀ (l : List Nat) (m : Mem), m.wf = true → (l.foldl (fun m w => m.setDiff w 3) m).wf = true := by
    intro l
    induction l with
    | nil => exact fun m h => h
    | cons c r ih => exact fun m h => ih _ (by simpa using h)
  exact ca _ _ (ups _ _ (cells _ _ h))

theorem Dev.meet_data (d : Dev) (e : Env) (o : Option Nat) : DataStep d (d.meet e o) := (d.applyEnv_data e).trans (Dev.countZf_data _ _ _)

theorem Dev.zeroFill_data (d : Dev) (lo hi : Nat) : DataStep d (d.zeroFill lo hi) := .setMem d _ (Mem.fill_wf _ _ _ _)

/-! A core's accesses (10 R225-R228). -/

theorem Dev.failPkt_data (d : Dev) (o : Nat) (s : BitVec 16) : DataStep d (d.failPkt o s) := .of_eq rfl rfl rfl rfl rfl rfl rfl rfl rfl rfl rfl rfl

/-- A write that was kept back, made. -/
theorem Dev.makeHeld_data (d : Dev) (e : Env) (h : HeldW) : DataStep d (d.makeHeld e h) := by
  unfold Dev.makeHeld
  refine .ite (fun _ => d.poisonWord_data _ _) (fun _ => ?_)
  split
  · exact .ite (fun _ => d.writeWord_data _ _ _ _) (fun _ => (d.writeWord_data _ _ _ _).trans (Dev.failPkt_data _ _ _))
  · exact d.writeWord_data _ _ _ _

theorem Dev.setKpm_data (d : Dev) (x : Kpm) : DataStep d { d with kpm := x } := .of_eq rfl rfl rfl rfl rfl rfl rfl rfl rfl rfl rfl rfl

theorem Dev.releaseHeld_data (d : Dev) (e : Env) : DataStep d (d.releaseHeld e) :=
  (d.setKpm_data { d.kpm with held := [] }).trans (DataStep.foldl _ (fun d h => d.makeHeld_data e h) d.kpm.held _)

theorem Dev.endHold_data (d : Dev) (e : Env) (k : Nat) : DataStep d (d.endHold e k) := by
  unfold Dev.endHold
  dsimp only
  split
  · exact .refl d
  · exact ((d.advTo_data _).trans (Dev.setSlot_data _ _ _)).trans (Dev.releaseHeld_data _ _)

theorem Dev.awaitHeld_data (d : Dev) (e : Env) (sel : HeldW → Bool) : DataStep d (d.awaitHeld e sel) :=
  DataStep.foldl _ (fun d _ => d.endHold_data _ _) _ d

/-- No write waits for a hold. -/
theorem Dev.awaitHeld_idle (d : Dev) (e : Env) (sel : HeldW → Bool) (h : ∀ x ∈ d.kpm.held, sel x = false) : d.awaitHeld e sel = d := by
  unfold Dev.awaitHeld
  rw [List.filter_eq_nil_iff.2 (fun s _ => ?_)]
  · rfl
  · simp only [Bool.not_eq_true, List.any_eq_false]
    exact fun x hx => by simp [h x hx]

theorem Dev.hostTurn_data (d : Dev) : DataStep d d.hostTurn := d.awaitHeld_data _ _

/-- A request of the host waits for nothing where no write it made through BAR4 is kept back. -/
theorem Dev.hostTurn_idle (d : Dev) (h : ∀ x ∈ d.kpm.held, x.bar4 = false) : d.hostTurn = d := d.awaitHeld_idle _ _ h

theorem Dev.issueEntry_data (d : Dev) (env : Env) (k : Nat) (e : SbEntry) : DataStep d (d.issueEntry env k e) := by
  have h : ∀ (acc : Acc) (l : List (Nat × List Byte)), DataStep d (l.foldl (fun (x : WrR) run =>
      let y := x.d.writeBytes acc (e.blk + run.1) run.2
      { d := y.d, st := thenSt x.st y.st, fail := if isExc x.st then x.fail else y.fail }) { d := d }).d :=
    fun acc l => by
      refine DataStep.foldlOn WrR.d _ ?_ l { d := d }
      exact fun x p => Dev.writeBytes_data _ _ _ _
  exact .ite (fun _ => h _ _) (fun _ => (h _ _).trans (Dev.failPkt_data _ _ _))

theorem Dev.issueN_data (e : Env) (k n : Nat) : ∀ d : Dev, DataStep d (d.issueN e k n) := by
  induction n with
  | zero => exact DataStep.refl
  | succ n ih =>
    intro d
    unfold Dev.issueN
    split
    · exact .refl d
    · exact ((d.setSb_data _ _).trans (Dev.issueEntry_data _ _ _ _)).trans (ih _)

theorem Dev.drain_data (d : Dev) (e : Env) (k : Nat) : DataStep d (d.drain e k) := (Dev.issueN_data e k _ d).trans (Dev.awaitHeld_data _ _ _)

theorem Dev.drainPkt_data (d : Dev) (e : Env) (p : Pkt) : DataStep d (d.drainPkt e p) := DataStep.foldl _ (fun d _ => d.drain_data _ _) _ d

theorem Dev.countSb_data (d : Dev) (o : Nat) (f : Bool) : DataStep d (d.countSb o f) := by
  unfold Dev.countSb
  split
  · exact d.setPart_data _ _
  · exact .refl d

theorem Dev.sbPush_data (d : Dev) (e : Env) (p : Pkt) (k blk i : Nat) (b : List Byte) : DataStep d (d.sbPush e p k blk i b) := by
  unfold Dev.sbPush
  dsimp only
  split
  · split
    · exact d.setSb_data _ _
    · split
      · exact ((d.countSb_data _ _).trans (Dev.issueN_data _ _ _ _)).trans (Dev.setSb_data _ _ _)
      · exact d.setSb_data _ _
  · exact d.setSb_data _ _

theorem Dev.coreWrite_data (d : Dev) (p : Pkt) (acc : Acc) (k a : Nat) (b : List Byte) : DataStep d (d.coreWrite p acc k a b).d := by
  unfold Dev.coreWrite
  dsimp only
  split
  · exact d.writeBytes_data _ _ _
  split
  · exact (d.drain_data _ _).trans (Dev.writeBytes_data _ _ _ _)
  split
  · exact .refl d
  · exact DataStep.foldl _ (fun d _ => d.sbPush_data _ _ _ _ _ _) _ d

theorem Dev.coreLoad_data (d : Dev) (p : Pkt) (acc : Acc) (k a n : Nat) : DataStep d (d.coreLoad p acc k a n).d := by
  unfold Dev.coreLoad
  dsimp only
  split
  · exact d.readBytes_data _ _ _
  · split
    · exact .refl d
    · exact (((d.countSb_data _ _).trans (Dev.issueN_data _ _ _ _)).trans (Dev.awaitHeld_data _ _ _)).trans (Dev.readBytes_data _ _ _ _)

theorem Dev.coreRead_data (d : Dev) (p : Pkt) (acc : Acc) (k a n : Nat) : DataStep d (d.coreRead p acc k a n).d := by
  unfold Dev.coreRead
  dsimp only
  split
  · exact d.readBytes_data _ _ _
  split
  · exact (d.drain_data _ _).trans (Dev.readBytes_data _ _ _ _)
  · have h : ∀ l : List (Nat × Nat), DataStep d (l.foldl (fun x q =>
        let r := x.d.coreLoad p acc k q.1 q.2
        { d := r.d, bytes := x.bytes ++ r.bytes, st := thenSt x.st r.st, fail := if isExc r.st && !isExc x.st then r.fail else x.fail }) ({ d := d } : RdR)).d :=
      fun l => by
        refine DataStep.foldlOn RdR.d _ ?_ l { d := d }
        exact fun x q => Dev.coreLoad_data _ _ _ _ _ _
    exact h _

theorem Dev.readA_data (d : Dev) (p : Pkt) (acc : Acc) (a n : Nat) : DataStep d (d.readA p acc a n).d := by
  unfold Dev.readA
  split
  · exact d.coreRead_data _ _ _ _ _
  · exact d.readBytes_data _ _ _

theorem Dev.writeA_data (d : Dev) (p : Pkt) (acc : Acc) (a : Nat) (b : List Byte) : DataStep d (d.writeA p acc a b).d := by
  unfold Dev.writeA
  split
  · exact d.coreWrite_data _ _ _ _ _
  · exact d.writeBytes_data _ _ _

/-- A packet's read of an operand. -/
theorem Dev.readP_data (d : Dev) (p : Pkt) (e : Env) (a n : Nat) : DataStep d (d.readP p e a n).d := by
  unfold Dev.readP
  refine DataStep.foldlOn RdR.d _ (fun x q => ?_) _ { d := d }
  dsimp only
  split
  · exact .refl _
  · exact Dev.readA_data _ _ _ _ _

/-- A packet's write of an operand. -/
theorem Dev.writeP_data (d : Dev) (p : Pkt) (e : Env) (a : Nat) (b : List Byte) : DataStep d (d.writeP p e a b).d := by
  unfold Dev.writeP
  refine DataStep.foldlOn (fun x : WrR × List Byte => x.1.d) _ (fun x q => ?_) _ ({ d := d }, b)
  dsimp only
  split
  · exact .refl _
  · exact Dev.writeA_data _ _ _ _ _

theorem Dev.poisonP_data (d : Dev) (p : Pkt) (e : Env) (a n : Nat) : DataStep d (d.poisonP p e a n) :=
  (d.drainPkt_data e p).trans (DataStep.foldl _ (fun d _ => d.poisonRange_data _ _ _) _ _)

/-- A read through captured translations. -/
theorem Dev.readDva_data (d : Dev) (acc : Acc) (ls : List Leaf) (a n : Nat) : DataStep d (d.readDva acc ls a n).d := by
  unfold Dev.readDva
  refine DataStep.foldlOn RdR.d _ (fun x q => ?_) _ { d := d }
  dsimp only
  split
  · exact .refl _
  · exact Dev.readBytes_data _ _ _ _

/-! The outcome of a packet's operation (11 R249, 18 R397). -/

theorem Dev.close_data (d : Dev) (p : Pkt) (st : BitVec 16) (r : Nat) : DataStep d (d.close p st r) := by
  unfold Dev.close
  split
  · exact d.finish_data _ _ _
  · exact d.draw_data.trans (Dev.finish_data _ _ _ _)

theorem Dev.conclude_data (p : Pkt) (r : OpR) : DataStep r.d (Dev.conclude p r) := (Dev.close_data _ _ _ _).trans (Dev.modPkt_data _ _ _)

end Sys2Proof.Machine
end

