-- ==== Sys2Proof/Laws/State.lean ====
section
/-!
SUPPORT. Laws/State.lean: what every update of the module leaves in every field: one law per update, with one clause per field, each true by rfl, so that no proof unfolds a
record update. Laws/Exec.lean goes on with the wrappers of commands.
-/
namespace Sys2Proof.Machine

@[simp] theorem State.setDev_dev (s : State) (d : Dev) : (s.setDev d).dev = d := rfl
@[simp] theorem State.setDev_pending (s : State) (d : Dev) : (s.setDev d).pending = s.pending := rfl
@[simp] theorem State.setPending_dev (s : State) (q : List Instr) : (s.setPending q).dev = s.dev := rfl
@[simp] theorem State.setPending_pending (s : State) (q : List Instr) : (s.setPending q).pending = q := rfl

/-- The fields after Dev.setSlice. -/
@[simp] theorem Dev.setSlice_fields (d : Dev) (n c : Nat) (x : Slice) :
    (d.setSlice n c x).fuse = d.fuse ∧ (d.setSlice n c x).pins = d.pins ∧ (d.setSlice n c x).fc = d.fc ∧ (d.setSlice n c x).rails = d.rails ∧
    (d.setSlice n c x).sup = d.sup ∧ (d.setSlice n c x).pwr = d.pwr ∧ (d.setSlice n c x).time = d.time ∧ (d.setSlice n c x).sys = d.sys ∧
    (d.setSlice n c x).pcie = d.pcie ∧ (d.setSlice n c x).thm = d.thm ∧
    (d.setSlice n c x).slc = { d.slc with slices := tset d.slc.slices (coreKey n c) x } ∧ (d.setSlice n c x).hbm = d.hbm ∧
    (d.setSlice n c x).zf = d.zf ∧ (d.setSlice n c x).parts = d.parts ∧ (d.setSlice n c x).queues = d.queues ∧ (d.setSlice n c x).disp = d.disp ∧
    (d.setSlice n c x).sb = d.sb ∧ (d.setSlice n c x).units = d.units ∧ (d.setSlice n c x).kpm = d.kpm ∧ (d.setSlice n c x).dma = d.dma ∧
    (d.setSlice n c x).dmaCh = d.dmaCh ∧ (d.setSlice n c x).lnk = d.lnk ∧ (d.setSlice n c x).cnt = d.cnt ∧ (d.setSlice n c x).lpe = d.lpe ∧
    (d.setSlice n c x).snp = d.snp ∧ (d.setSlice n c x).lck = d.lck ∧ (d.setSlice n c x).mem = d.mem ∧ (d.setSlice n c x).out = d.out ∧
    (d.setSlice n c x).free = d.free :=
  ⟨rfl, rfl, rfl, rfl, rfl, rfl, rfl, rfl, rfl, rfl, rfl, rfl, rfl, rfl, rfl, rfl, rfl, rfl, rfl, rfl, rfl, rfl, rfl, rfl, rfl, rfl, rfl, rfl, rfl⟩

/-- The fields after Dev.setStack. -/
@[simp] theorem Dev.setStack_fields (d : Dev) (h : Nat) (x : HbmStat) :
    (d.setStack h x).fuse = d.fuse ∧ (d.setStack h x).pins = d.pins ∧ (d.setStack h x).fc = d.fc ∧ (d.setStack h x).rails = d.rails ∧
    (d.setStack h x).sup = d.sup ∧ (d.setStack h x).pwr = d.pwr ∧ (d.setStack h x).time = d.time ∧ (d.setStack h x).sys = d.sys ∧
    (d.setStack h x).pcie = d.pcie ∧ (d.setStack h x).thm = d.thm ∧ (d.setStack h x).slc = d.slc ∧
    (d.setStack h x).hbm = { d.hbm with stk := tset d.hbm.stk h x } ∧ (d.setStack h x).zf = d.zf ∧ (d.setStack h x).parts = d.parts ∧
    (d.setStack h x).queues = d.queues ∧ (d.setStack h x).disp = d.disp ∧ (d.setStack h x).sb = d.sb ∧ (d.setStack h x).units = d.units ∧
    (d.setStack h x).kpm = d.kpm ∧ (d.setStack h x).dma = d.dma ∧ (d.setStack h x).dmaCh = d.dmaCh ∧ (d.setStack h x).lnk = d.lnk ∧
    (d.setStack h x).cnt = d.cnt ∧ (d.setStack h x).lpe = d.lpe ∧ (d.setStack h x).snp = d.snp ∧ (d.setStack h x).lck = d.lck ∧
    (d.setStack h x).mem = d.mem ∧ (d.setStack h x).out = d.out ∧ (d.setStack h x).free = d.free :=
  ⟨rfl, rfl, rfl, rfl, rfl, rfl, rfl, rfl, rfl, rfl, rfl, rfl, rfl, rfl, rfl, rfl, rfl, rfl, rfl, rfl, rfl, rfl, rfl, rfl, rfl, rfl, rfl, rfl, rfl⟩

/-- The fields after Dev.setPart. -/
@[simp] theorem Dev.setPart_fields (d : Dev) (o : Nat) (x : Part) :
    (d.setPart o x).fuse = d.fuse ∧ (d.setPart o x).pins = d.pins ∧ (d.setPart o x).fc = d.fc ∧ (d.setPart o x).rails = d.rails ∧
    (d.setPart o x).sup = d.sup ∧ (d.setPart o x).pwr = d.pwr ∧ (d.setPart o x).time = d.time ∧ (d.setPart o x).sys = d.sys ∧
    (d.setPart o x).pcie = d.pcie ∧ (d.setPart o x).thm = d.thm ∧ (d.setPart o x).slc = d.slc ∧ (d.setPart o x).hbm = d.hbm ∧
    (d.setPart o x).zf = d.zf ∧ (d.setPart o x).parts = tset d.parts o x ∧ (d.setPart o x).queues = d.queues ∧ (d.setPart o x).disp = d.disp ∧
    (d.setPart o x).sb = d.sb ∧ (d.setPart o x).units = d.units ∧ (d.setPart o x).kpm = d.kpm ∧ (d.setPart o x).dma = d.dma ∧
    (d.setPart o x).dmaCh = d.dmaCh ∧ (d.setPart o x).lnk = d.lnk ∧ (d.setPart o x).cnt = d.cnt ∧ (d.setPart o x).lpe = d.lpe ∧
    (d.setPart o x).snp = d.snp ∧ (d.setPart o x).lck = d.lck ∧ (d.setPart o x).mem = d.mem ∧ (d.setPart o x).out = d.out ∧
    (d.setPart o x).free = d.free :=
  ⟨rfl, rfl, rfl, rfl, rfl, rfl, rfl, rfl, rfl, rfl, rfl, rfl, rfl, rfl, rfl, rfl, rfl, rfl, rfl, rfl, rfl, rfl, rfl, rfl, rfl, rfl, rfl, rfl, rfl⟩

/-- The fields after Dev.setQueue. -/
@[simp] theorem Dev.setQueue_fields (d : Dev) (q : QRef) (x : Queue) :
    (d.setQueue q x).fuse = d.fuse ∧ (d.setQueue q x).pins = d.pins ∧ (d.setQueue q x).fc = d.fc ∧ (d.setQueue q x).rails = d.rails ∧
    (d.setQueue q x).sup = d.sup ∧ (d.setQueue q x).pwr = d.pwr ∧ (d.setQueue q x).time = d.time ∧ (d.setQueue q x).sys = d.sys ∧
    (d.setQueue q x).pcie = d.pcie ∧ (d.setQueue q x).thm = d.thm ∧ (d.setQueue q x).slc = d.slc ∧ (d.setQueue q x).hbm = d.hbm ∧
    (d.setQueue q x).zf = d.zf ∧ (d.setQueue q x).parts = d.parts ∧ (d.setQueue q x).queues = tset d.queues (qKey q) x ∧
    (d.setQueue q x).disp = d.disp ∧ (d.setQueue q x).sb = d.sb ∧ (d.setQueue q x).units = d.units ∧ (d.setQueue q x).kpm = d.kpm ∧
    (d.setQueue q x).dma = d.dma ∧ (d.setQueue q x).dmaCh = d.dmaCh ∧ (d.setQueue q x).lnk = d.lnk ∧ (d.setQueue q x).cnt = d.cnt ∧
    (d.setQueue q x).lpe = d.lpe ∧ (d.setQueue q x).snp = d.snp ∧ (d.setQueue q x).lck = d.lck ∧ (d.setQueue q x).mem = d.mem ∧
    (d.setQueue q x).out = d.out ∧ (d.setQueue q x).free = d.free :=
  ⟨rfl, rfl, rfl, rfl, rfl, rfl, rfl, rfl, rfl, rfl, rfl, rfl, rfl, rfl, rfl, rfl, rfl, rfl, rfl, rfl, rfl, rfl, rfl, rfl, rfl, rfl, rfl, rfl, rfl⟩

/-- The fields after Dev.setPool. -/
@[simp] theorem Dev.setPool_fields (d : Dev) (k : Nat) (x : Pool) :
    (d.setPool k x).fuse = d.fuse ∧ (d.setPool k x).pins = d.pins ∧ (d.setPool k x).fc = d.fc ∧ (d.setPool k x).rails = d.rails ∧
    (d.setPool k x).sup = d.sup ∧ (d.setPool k x).pwr = d.pwr ∧ (d.setPool k x).time = d.time ∧ (d.setPool k x).sys = d.sys ∧
    (d.setPool k x).pcie = d.pcie ∧ (d.setPool k x).thm = d.thm ∧ (d.setPool k x).slc = d.slc ∧ (d.setPool k x).hbm = d.hbm ∧
    (d.setPool k x).zf = d.zf ∧ (d.setPool k x).parts = d.parts ∧ (d.setPool k x).queues = d.queues ∧ (d.setPool k x).disp = d.disp ∧
    (d.setPool k x).sb = d.sb ∧ (d.setPool k x).units = d.units ∧ (d.setPool k x).kpm = { d.kpm with pools := tset d.kpm.pools k x } ∧
    (d.setPool k x).dma = d.dma ∧ (d.setPool k x).dmaCh = d.dmaCh ∧ (d.setPool k x).lnk = d.lnk ∧ (d.setPool k x).cnt = d.cnt ∧
    (d.setPool k x).lpe = d.lpe ∧ (d.setPool k x).snp = d.snp ∧ (d.setPool k x).lck = d.lck ∧ (d.setPool k x).mem = d.mem ∧
    (d.setPool k x).out = d.out ∧ (d.setPool k x).free = d.free :=
  ⟨rfl, rfl, rfl, rfl, rfl, rfl, rfl, rfl, rfl, rfl, rfl, rfl, rfl, rfl, rfl, rfl, rfl, rfl, rfl, rfl, rfl, rfl, rfl, rfl, rfl, rfl, rfl, rfl, rfl⟩

/-- The fields after Dev.setSlot. -/
@[simp] theorem Dev.setSlot_fields (d : Dev) (k : Nat) (x : KSlot) :
    (d.setSlot k x).fuse = d.fuse ∧ (d.setSlot k x).pins = d.pins ∧ (d.setSlot k x).fc = d.fc ∧ (d.setSlot k x).rails = d.rails ∧
    (d.setSlot k x).sup = d.sup ∧ (d.setSlot k x).pwr = d.pwr ∧ (d.setSlot k x).time = d.time ∧ (d.setSlot k x).sys = d.sys ∧
    (d.setSlot k x).pcie = d.pcie ∧ (d.setSlot k x).thm = d.thm ∧ (d.setSlot k x).slc = d.slc ∧ (d.setSlot k x).hbm = d.hbm ∧
    (d.setSlot k x).zf = d.zf ∧ (d.setSlot k x).parts = d.parts ∧ (d.setSlot k x).queues = d.queues ∧ (d.setSlot k x).disp = d.disp ∧
    (d.setSlot k x).sb = d.sb ∧ (d.setSlot k x).units = d.units ∧ (d.setSlot k x).kpm = { d.kpm with slots := tset d.kpm.slots k x } ∧
    (d.setSlot k x).dma = d.dma ∧ (d.setSlot k x).dmaCh = d.dmaCh ∧ (d.setSlot k x).lnk = d.lnk ∧ (d.setSlot k x).cnt = d.cnt ∧
    (d.setSlot k x).lpe = d.lpe ∧ (d.setSlot k x).snp = d.snp ∧ (d.setSlot k x).lck = d.lck ∧ (d.setSlot k x).mem = d.mem ∧
    (d.setSlot k x).out = d.out ∧ (d.setSlot k x).free = d.free :=
  ⟨rfl, rfl, rfl, rfl, rfl, rfl, rfl, rfl, rfl, rfl, rfl, rfl, rfl, rfl, rfl, rfl, rfl, rfl, rfl, rfl, rfl, rfl, rfl, rfl, rfl, rfl, rfl, rfl, rfl⟩

/-- The fields after Dev.setChan. -/
@[simp] theorem Dev.setChan_fields (d : Dev) (k : Nat) (x : DmaCh) :
    (d.setChan k x).fuse = d.fuse ∧ (d.setChan k x).pins = d.pins ∧ (d.setChan k x).fc = d.fc ∧ (d.setChan k x).rails = d.rails ∧
    (d.setChan k x).sup = d.sup ∧ (d.setChan k x).pwr = d.pwr ∧ (d.setChan k x).time = d.time ∧ (d.setChan k x).sys = d.sys ∧
    (d.setChan k x).pcie = d.pcie ∧ (d.setChan k x).thm = d.thm ∧ (d.setChan k x).slc = d.slc ∧ (d.setChan k x).hbm = d.hbm ∧
    (d.setChan k x).zf = d.zf ∧ (d.setChan k x).parts = d.parts ∧ (d.setChan k x).queues = d.queues ∧ (d.setChan k x).disp = d.disp ∧
    (d.setChan k x).sb = d.sb ∧ (d.setChan k x).units = d.units ∧ (d.setChan k x).kpm = d.kpm ∧ (d.setChan k x).dma = d.dma ∧
    (d.setChan k x).dmaCh = tset d.dmaCh k x ∧ (d.setChan k x).lnk = d.lnk ∧ (d.setChan k x).cnt = d.cnt ∧ (d.setChan k x).lpe = d.lpe ∧
    (d.setChan k x).snp = d.snp ∧ (d.setChan k x).lck = d.lck ∧ (d.setChan k x).mem = d.mem ∧ (d.setChan k x).out = d.out ∧
    (d.setChan k x).free = d.free :=
  ⟨rfl, rfl, rfl, rfl, rfl, rfl, rfl, rfl, rfl, rfl, rfl, rfl, rfl, rfl, rfl, rfl, rfl, rfl, rfl, rfl, rfl, rfl, rfl, rfl, rfl, rfl, rfl, rfl, rfl⟩

/-- The fields after Dev.setLink. -/
@[simp] theorem Dev.setLink_fields (d : Dev) (l : Nat) (x : Link) :
    (d.setLink l x).fuse = d.fuse ∧ (d.setLink l x).pins = d.pins ∧ (d.setLink l x).fc = d.fc ∧ (d.setLink l x).rails = d.rails ∧
    (d.setLink l x).sup = d.sup ∧ (d.setLink l x).pwr = d.pwr ∧ (d.setLink l x).time = d.time ∧ (d.setLink l x).sys = d.sys ∧
    (d.setLink l x).pcie = d.pcie ∧ (d.setLink l x).thm = d.thm ∧ (d.setLink l x).slc = d.slc ∧ (d.setLink l x).hbm = d.hbm ∧
    (d.setLink l x).zf = d.zf ∧ (d.setLink l x).parts = d.parts ∧ (d.setLink l x).queues = d.queues ∧ (d.setLink l x).disp = d.disp ∧
    (d.setLink l x).sb = d.sb ∧ (d.setLink l x).units = d.units ∧ (d.setLink l x).kpm = d.kpm ∧ (d.setLink l x).dma = d.dma ∧
    (d.setLink l x).dmaCh = d.dmaCh ∧ (d.setLink l x).lnk = { d.lnk with links := tset d.lnk.links l x } ∧ (d.setLink l x).cnt = d.cnt ∧
    (d.setLink l x).lpe = d.lpe ∧ (d.setLink l x).snp = d.snp ∧ (d.setLink l x).lck = d.lck ∧ (d.setLink l x).mem = d.mem ∧
    (d.setLink l x).out = d.out ∧ (d.setLink l x).free = d.free :=
  ⟨rfl, rfl, rfl, rfl, rfl, rfl, rfl, rfl, rfl, rfl, rfl, rfl, rfl, rfl, rfl, rfl, rfl, rfl, rfl, rfl, rfl, rfl, rfl, rfl, rfl, rfl, rfl, rfl, rfl⟩

/-- The fields after Dev.setDom. -/
@[simp] theorem Dev.setDom_fields (d : Dev) (n : Nat) (x : Domain) :
    (d.setDom n x).fuse = d.fuse ∧ (d.setDom n x).pins = d.pins ∧ (d.setDom n x).fc = d.fc ∧ (d.setDom n x).rails = d.rails ∧
    (d.setDom n x).sup = d.sup ∧ (d.setDom n x).pwr = d.pwr ∧ (d.setDom n x).time = d.time ∧ (d.setDom n x).sys = d.sys ∧
    (d.setDom n x).pcie = d.pcie ∧ (d.setDom n x).thm = { d.thm with dom := tset d.thm.dom n x } ∧ (d.setDom n x).slc = d.slc ∧
    (d.setDom n x).hbm = d.hbm ∧ (d.setDom n x).zf = d.zf ∧ (d.setDom n x).parts = d.parts ∧ (d.setDom n x).queues = d.queues ∧
    (d.setDom n x).disp = d.disp ∧ (d.setDom n x).sb = d.sb ∧ (d.setDom n x).units = d.units ∧ (d.setDom n x).kpm = d.kpm ∧
    (d.setDom n x).dma = d.dma ∧ (d.setDom n x).dmaCh = d.dmaCh ∧ (d.setDom n x).lnk = d.lnk ∧ (d.setDom n x).cnt = d.cnt ∧
    (d.setDom n x).lpe = d.lpe ∧ (d.setDom n x).snp = d.snp ∧ (d.setDom n x).lck = d.lck ∧ (d.setDom n x).mem = d.mem ∧ (d.setDom n x).out = d.out ∧
    (d.setDom n x).free = d.free :=
  ⟨rfl, rfl, rfl, rfl, rfl, rfl, rfl, rfl, rfl, rfl, rfl, rfl, rfl, rfl, rfl, rfl, rfl, rfl, rfl, rfl, rfl, rfl, rfl, rfl, rfl, rfl, rfl, rfl, rfl⟩

/-- The fields after Dev.setSnp. -/
@[simp] theorem Dev.setSnp_fields (d : Dev) (k : Nat) (x : SnpFn) :
    (d.setSnp k x).fuse = d.fuse ∧ (d.setSnp k x).pins = d.pins ∧ (d.setSnp k x).fc = d.fc ∧ (d.setSnp k x).rails = d.rails ∧
    (d.setSnp k x).sup = d.sup ∧ (d.setSnp k x).pwr = d.pwr ∧ (d.setSnp k x).time = d.time ∧ (d.setSnp k x).sys = d.sys ∧
    (d.setSnp k x).pcie = d.pcie ∧ (d.setSnp k x).thm = d.thm ∧ (d.setSnp k x).slc = d.slc ∧ (d.setSnp k x).hbm = d.hbm ∧ (d.setSnp k x).zf = d.zf ∧
    (d.setSnp k x).parts = d.parts ∧ (d.setSnp k x).queues = d.queues ∧ (d.setSnp k x).disp = d.disp ∧ (d.setSnp k x).sb = d.sb ∧
    (d.setSnp k x).units = d.units ∧ (d.setSnp k x).kpm = d.kpm ∧ (d.setSnp k x).dma = d.dma ∧ (d.setSnp k x).dmaCh = d.dmaCh ∧
    (d.setSnp k x).lnk = d.lnk ∧ (d.setSnp k x).cnt = d.cnt ∧ (d.setSnp k x).lpe = d.lpe ∧ (d.setSnp k x).snp = tset d.snp k x ∧
    (d.setSnp k x).lck = d.lck ∧ (d.setSnp k x).mem = d.mem ∧ (d.setSnp k x).out = d.out ∧ (d.setSnp k x).free = d.free :=
  ⟨rfl, rfl, rfl, rfl, rfl, rfl, rfl, rfl, rfl, rfl, rfl, rfl, rfl, rfl, rfl, rfl, rfl, rfl, rfl, rfl, rfl, rfl, rfl, rfl, rfl, rfl, rfl, rfl, rfl⟩

/-- The fields after Dev.setLck. -/
@[simp] theorem Dev.setLck_fields (d : Dev) (x : Lck) :
    (d.setLck x).fuse = d.fuse ∧ (d.setLck x).pins = d.pins ∧ (d.setLck x).fc = d.fc ∧ (d.setLck x).rails = d.rails ∧ (d.setLck x).sup = d.sup ∧
    (d.setLck x).pwr = d.pwr ∧ (d.setLck x).time = d.time ∧ (d.setLck x).sys = d.sys ∧ (d.setLck x).pcie = d.pcie ∧ (d.setLck x).thm = d.thm ∧
    (d.setLck x).slc = d.slc ∧ (d.setLck x).hbm = d.hbm ∧ (d.setLck x).zf = d.zf ∧ (d.setLck x).parts = d.parts ∧ (d.setLck x).queues = d.queues ∧
    (d.setLck x).disp = d.disp ∧ (d.setLck x).sb = d.sb ∧ (d.setLck x).units = d.units ∧ (d.setLck x).kpm = d.kpm ∧ (d.setLck x).dma = d.dma ∧
    (d.setLck x).dmaCh = d.dmaCh ∧ (d.setLck x).lnk = d.lnk ∧ (d.setLck x).cnt = d.cnt ∧ (d.setLck x).lpe = d.lpe ∧ (d.setLck x).snp = d.snp ∧
    (d.setLck x).lck = x ∧ (d.setLck x).mem = d.mem ∧ (d.setLck x).out = d.out ∧ (d.setLck x).free = d.free :=
  ⟨rfl, rfl, rfl, rfl, rfl, rfl, rfl, rfl, rfl, rfl, rfl, rfl, rfl, rfl, rfl, rfl, rfl, rfl, rfl, rfl, rfl, rfl, rfl, rfl, rfl, rfl, rfl, rfl, rfl⟩

/-- The fields after Dev.setCntFn. -/
@[simp] theorem Dev.setCntFn_fields (d : Dev) (fn : Fn) (x : CntFn) :
    (d.setCntFn fn x).fuse = d.fuse ∧ (d.setCntFn fn x).pins = d.pins ∧ (d.setCntFn fn x).fc = d.fc ∧ (d.setCntFn fn x).rails = d.rails ∧
    (d.setCntFn fn x).sup = d.sup ∧ (d.setCntFn fn x).pwr = d.pwr ∧ (d.setCntFn fn x).time = d.time ∧ (d.setCntFn fn x).sys = d.sys ∧
    (d.setCntFn fn x).pcie = d.pcie ∧ (d.setCntFn fn x).thm = d.thm ∧ (d.setCntFn fn x).slc = d.slc ∧ (d.setCntFn fn x).hbm = d.hbm ∧
    (d.setCntFn fn x).zf = d.zf ∧ (d.setCntFn fn x).parts = d.parts ∧ (d.setCntFn fn x).queues = d.queues ∧ (d.setCntFn fn x).disp = d.disp ∧
    (d.setCntFn fn x).sb = d.sb ∧ (d.setCntFn fn x).units = d.units ∧ (d.setCntFn fn x).kpm = d.kpm ∧ (d.setCntFn fn x).dma = d.dma ∧
    (d.setCntFn fn x).dmaCh = d.dmaCh ∧ (d.setCntFn fn x).lnk = d.lnk ∧ (d.setCntFn fn x).cnt = { d.cnt with fns := tset d.cnt.fns (fnKey fn) x } ∧
    (d.setCntFn fn x).lpe = d.lpe ∧ (d.setCntFn fn x).snp = d.snp ∧ (d.setCntFn fn x).lck = d.lck ∧ (d.setCntFn fn x).mem = d.mem ∧
    (d.setCntFn fn x).out = d.out ∧ (d.setCntFn fn x).free = d.free :=
  ⟨rfl, rfl, rfl, rfl, rfl, rfl, rfl, rfl, rfl, rfl, rfl, rfl, rfl, rfl, rfl, rfl, rfl, rfl, rfl, rfl, rfl, rfl, rfl, rfl, rfl, rfl, rfl, rfl, rfl⟩

/-- The fields after Dev.setSb. -/
@[simp] theorem Dev.setSb_fields (d : Dev) (k : Nat) (l : List SbEntry) :
    (d.setSb k l).fuse = d.fuse ∧ (d.setSb k l).pins = d.pins ∧ (d.setSb k l).fc = d.fc ∧ (d.setSb k l).rails = d.rails ∧ (d.setSb k l).sup = d.sup ∧
    (d.setSb k l).pwr = d.pwr ∧ (d.setSb k l).time = d.time ∧ (d.setSb k l).sys = d.sys ∧ (d.setSb k l).pcie = d.pcie ∧ (d.setSb k l).thm = d.thm ∧
    (d.setSb k l).slc = d.slc ∧ (d.setSb k l).hbm = d.hbm ∧ (d.setSb k l).zf = d.zf ∧ (d.setSb k l).parts = d.parts ∧
    (d.setSb k l).queues = d.queues ∧ (d.setSb k l).disp = d.disp ∧ (d.setSb k l).sb = (if l.isEmpty then tdel d.sb k else tset d.sb k l) ∧
    (d.setSb k l).units = d.units ∧ (d.setSb k l).kpm = d.kpm ∧ (d.setSb k l).dma = d.dma ∧ (d.setSb k l).dmaCh = d.dmaCh ∧
    (d.setSb k l).lnk = d.lnk ∧ (d.setSb k l).cnt = d.cnt ∧ (d.setSb k l).lpe = d.lpe ∧ (d.setSb k l).snp = d.snp ∧ (d.setSb k l).lck = d.lck ∧
    (d.setSb k l).mem = d.mem ∧ (d.setSb k l).out = d.out ∧ (d.setSb k l).free = d.free :=
  ⟨rfl, rfl, rfl, rfl, rfl, rfl, rfl, rfl, rfl, rfl, rfl, rfl, rfl, rfl, rfl, rfl, rfl, rfl, rfl, rfl, rfl, rfl, rfl, rfl, rfl, rfl, rfl, rfl, rfl⟩

/-- The fields after Dev.mapPkts. -/
@[simp] theorem Dev.mapPkts_fields (d : Dev) (f : Pkt → Pkt) :
    (d.mapPkts f).fuse = d.fuse ∧ (d.mapPkts f).pins = d.pins ∧ (d.mapPkts f).fc = d.fc ∧ (d.mapPkts f).rails = d.rails ∧ (d.mapPkts f).sup = d.sup ∧
    (d.mapPkts f).pwr = d.pwr ∧ (d.mapPkts f).time = d.time ∧ (d.mapPkts f).sys = d.sys ∧ (d.mapPkts f).pcie = d.pcie ∧ (d.mapPkts f).thm = d.thm ∧
    (d.mapPkts f).slc = d.slc ∧ (d.mapPkts f).hbm = d.hbm ∧ (d.mapPkts f).zf = d.zf ∧ (d.mapPkts f).parts = d.parts ∧
    (d.mapPkts f).queues = d.queues ∧ (d.mapPkts f).disp = { d.disp with pkts := d.disp.pkts.map f } ∧ (d.mapPkts f).sb = d.sb ∧
    (d.mapPkts f).units = d.units ∧ (d.mapPkts f).kpm = d.kpm ∧ (d.mapPkts f).dma = d.dma ∧ (d.mapPkts f).dmaCh = d.dmaCh ∧
    (d.mapPkts f).lnk = d.lnk ∧ (d.mapPkts f).cnt = d.cnt ∧ (d.mapPkts f).lpe = d.lpe ∧ (d.mapPkts f).snp = d.snp ∧ (d.mapPkts f).lck = d.lck ∧
    (d.mapPkts f).mem = d.mem ∧ (d.mapPkts f).out = d.out ∧ (d.mapPkts f).free = d.free :=
  ⟨rfl, rfl, rfl, rfl, rfl, rfl, rfl, rfl, rfl, rfl, rfl, rfl, rfl, rfl, rfl, rfl, rfl, rfl, rfl, rfl, rfl, rfl, rfl, rfl, rfl, rfl, rfl, rfl, rfl⟩

/-- The fields after Dev.emit. -/
@[simp] theorem Dev.emit_fields (d : Dev) (o : Out) :
    (d.emit o).fuse = d.fuse ∧ (d.emit o).pins = d.pins ∧ (d.emit o).fc = d.fc ∧ (d.emit o).rails = d.rails ∧ (d.emit o).sup = d.sup ∧
    (d.emit o).pwr = d.pwr ∧ (d.emit o).time = d.time ∧ (d.emit o).sys = d.sys ∧ (d.emit o).pcie = d.pcie ∧ (d.emit o).thm = d.thm ∧
    (d.emit o).slc = d.slc ∧ (d.emit o).hbm = d.hbm ∧ (d.emit o).zf = d.zf ∧ (d.emit o).parts = d.parts ∧ (d.emit o).queues = d.queues ∧
    (d.emit o).disp = d.disp ∧ (d.emit o).sb = d.sb ∧ (d.emit o).units = d.units ∧ (d.emit o).kpm = d.kpm ∧ (d.emit o).dma = d.dma ∧
    (d.emit o).dmaCh = d.dmaCh ∧ (d.emit o).lnk = d.lnk ∧ (d.emit o).cnt = d.cnt ∧ (d.emit o).lpe = d.lpe ∧ (d.emit o).snp = d.snp ∧
    (d.emit o).lck = d.lck ∧ (d.emit o).mem = d.mem ∧ (d.emit o).out = d.out ++ [o] ∧ (d.emit o).free = d.free :=
  ⟨rfl, rfl, rfl, rfl, rfl, rfl, rfl, rfl, rfl, rfl, rfl, rfl, rfl, rfl, rfl, rfl, rfl, rfl, rfl, rfl, rfl, rfl, rfl, rfl, rfl, rfl, rfl, rfl, rfl⟩

/-- The fields after Dev.draw. -/
@[simp] theorem Dev.draw_fields (d : Dev) :
    d.draw.fuse = d.fuse ∧ d.draw.pins = d.pins ∧ d.draw.fc = d.fc ∧ d.draw.rails = d.rails ∧ d.draw.sup = d.sup ∧ d.draw.pwr = d.pwr ∧
    d.draw.time = d.time ∧ d.draw.sys = d.sys ∧ d.draw.pcie = d.pcie ∧ d.draw.thm = d.thm ∧ d.draw.slc = d.slc ∧ d.draw.hbm = d.hbm ∧
    d.draw.zf = d.zf ∧ d.draw.parts = d.parts ∧ d.draw.queues = d.queues ∧ d.draw.disp = d.disp ∧ d.draw.sb = d.sb ∧ d.draw.units = d.units ∧
    d.draw.kpm = d.kpm ∧ d.draw.dma = d.dma ∧ d.draw.dmaCh = d.dmaCh ∧ d.draw.lnk = d.lnk ∧ d.draw.cnt = d.cnt ∧ d.draw.lpe = d.lpe ∧
    d.draw.snp = d.snp ∧ d.draw.lck = d.lck ∧ d.draw.mem = d.mem ∧ d.draw.out = d.out ∧ d.draw.free = d.free + 1 :=
  ⟨rfl, rfl, rfl, rfl, rfl, rfl, rfl, rfl, rfl, rfl, rfl, rfl, rfl, rfl, rfl, rfl, rfl, rfl, rfl, rfl, rfl, rfl, rfl, rfl, rfl, rfl, rfl, rfl, rfl⟩

/-- The fields after Dev.zeroFill. -/
@[simp] theorem Dev.zeroFill_fields (d : Dev) (lo hi : Nat) :
    (d.zeroFill lo hi).fuse = d.fuse ∧ (d.zeroFill lo hi).pins = d.pins ∧ (d.zeroFill lo hi).fc = d.fc ∧ (d.zeroFill lo hi).rails = d.rails ∧
    (d.zeroFill lo hi).sup = d.sup ∧ (d.zeroFill lo hi).pwr = d.pwr ∧ (d.zeroFill lo hi).time = d.time ∧ (d.zeroFill lo hi).sys = d.sys ∧
    (d.zeroFill lo hi).pcie = d.pcie ∧ (d.zeroFill lo hi).thm = d.thm ∧ (d.zeroFill lo hi).slc = d.slc ∧ (d.zeroFill lo hi).hbm = d.hbm ∧
    (d.zeroFill lo hi).zf = d.zf ∧ (d.zeroFill lo hi).parts = d.parts ∧ (d.zeroFill lo hi).queues = d.queues ∧ (d.zeroFill lo hi).disp = d.disp ∧
    (d.zeroFill lo hi).sb = d.sb ∧ (d.zeroFill lo hi).units = d.units ∧ (d.zeroFill lo hi).kpm = d.kpm ∧ (d.zeroFill lo hi).dma = d.dma ∧
    (d.zeroFill lo hi).dmaCh = d.dmaCh ∧ (d.zeroFill lo hi).lnk = d.lnk ∧ (d.zeroFill lo hi).cnt = d.cnt ∧ (d.zeroFill lo hi).lpe = d.lpe ∧
    (d.zeroFill lo hi).snp = d.snp ∧ (d.zeroFill lo hi).lck = d.lck ∧ (d.zeroFill lo hi).mem = d.mem.fill lo hi .zero ∧
    (d.zeroFill lo hi).out = d.out ∧ (d.zeroFill lo hi).free = d.free :=
  ⟨rfl, rfl, rfl, rfl, rfl, rfl, rfl, rfl, rfl, rfl, rfl, rfl, rfl, rfl, rfl, rfl, rfl, rfl, rfl, rfl, rfl, rfl, rfl, rfl, rfl, rfl, rfl, rfl, rfl⟩

/-- The fields after Dev.raisePwr. -/
@[simp] theorem Dev.raisePwr_fields (d : Dev) (m : BitVec 6) :
    (d.raisePwr m).fuse = d.fuse ∧ (d.raisePwr m).pins = d.pins ∧ (d.raisePwr m).fc = d.fc ∧ (d.raisePwr m).rails = d.rails ∧
    (d.raisePwr m).sup = d.sup ∧ (d.raisePwr m).pwr = { d.pwr with evt := d.pwr.evt ||| m } ∧ (d.raisePwr m).time = d.time ∧
    (d.raisePwr m).sys = d.sys ∧ (d.raisePwr m).pcie = d.pcie ∧ (d.raisePwr m).thm = d.thm ∧ (d.raisePwr m).slc = d.slc ∧ (d.raisePwr m).hbm = d.hbm ∧
    (d.raisePwr m).zf = d.zf ∧ (d.raisePwr m).parts = d.parts ∧ (d.raisePwr m).queues = d.queues ∧ (d.raisePwr m).disp = d.disp ∧
    (d.raisePwr m).sb = d.sb ∧ (d.raisePwr m).units = d.units ∧ (d.raisePwr m).kpm = d.kpm ∧ (d.raisePwr m).dma = d.dma ∧
    (d.raisePwr m).dmaCh = d.dmaCh ∧ (d.raisePwr m).lnk = d.lnk ∧ (d.raisePwr m).cnt = d.cnt ∧ (d.raisePwr m).lpe = d.lpe ∧
    (d.raisePwr m).snp = d.snp ∧ (d.raisePwr m).lck = d.lck ∧ (d.raisePwr m).mem = d.mem ∧
    (d.raisePwr m).out = d.out ++ posts d.pwr.evt (d.pwr.evt ||| m) ∧ (d.raisePwr m).free = d.free :=
  ⟨rfl, rfl, rfl, rfl, rfl, rfl, rfl, rfl, rfl, rfl, rfl, rfl, rfl, rfl, rfl, rfl, rfl, rfl, rfl, rfl, rfl, rfl, rfl, rfl, rfl, rfl, rfl, rfl, rfl⟩

/-- The fields after Dev.raiseSlc. -/
@[simp] theorem Dev.raiseSlc_fields (d : Dev) (m : BitVec 8) :
    (d.raiseSlc m).fuse = d.fuse ∧ (d.raiseSlc m).pins = d.pins ∧ (d.raiseSlc m).fc = d.fc ∧ (d.raiseSlc m).rails = d.rails ∧
    (d.raiseSlc m).sup = d.sup ∧ (d.raiseSlc m).pwr = d.pwr ∧ (d.raiseSlc m).time = d.time ∧ (d.raiseSlc m).sys = d.sys ∧
    (d.raiseSlc m).pcie = d.pcie ∧ (d.raiseSlc m).thm = d.thm ∧ (d.raiseSlc m).slc = { d.slc with evt := d.slc.evt ||| m } ∧
    (d.raiseSlc m).hbm = d.hbm ∧ (d.raiseSlc m).zf = d.zf ∧ (d.raiseSlc m).parts = d.parts ∧ (d.raiseSlc m).queues = d.queues ∧
    (d.raiseSlc m).disp = d.disp ∧ (d.raiseSlc m).sb = d.sb ∧ (d.raiseSlc m).units = d.units ∧ (d.raiseSlc m).kpm = d.kpm ∧
    (d.raiseSlc m).dma = d.dma ∧ (d.raiseSlc m).dmaCh = d.dmaCh ∧ (d.raiseSlc m).lnk = d.lnk ∧ (d.raiseSlc m).cnt = d.cnt ∧
    (d.raiseSlc m).lpe = d.lpe ∧ (d.raiseSlc m).snp = d.snp ∧ (d.raiseSlc m).lck = d.lck ∧ (d.raiseSlc m).mem = d.mem ∧
    (d.raiseSlc m).out = d.out ++ posts d.slc.evt (d.slc.evt ||| m) ∧ (d.raiseSlc m).free = d.free :=
  ⟨rfl, rfl, rfl, rfl, rfl, rfl, rfl, rfl, rfl, rfl, rfl, rfl, rfl, rfl, rfl, rfl, rfl, rfl, rfl, rfl, rfl, rfl, rfl, rfl, rfl, rfl, rfl, rfl, rfl⟩

/-- The fields after Dev.raiseHbm. -/
@[simp] theorem Dev.raiseHbm_fields (d : Dev) (m : BitVec 9) :
    (d.raiseHbm m).fuse = d.fuse ∧ (d.raiseHbm m).pins = d.pins ∧ (d.raiseHbm m).fc = d.fc ∧ (d.raiseHbm m).rails = d.rails ∧
    (d.raiseHbm m).sup = d.sup ∧ (d.raiseHbm m).pwr = d.pwr ∧ (d.raiseHbm m).time = d.time ∧ (d.raiseHbm m).sys = d.sys ∧
    (d.raiseHbm m).pcie = d.pcie ∧ (d.raiseHbm m).thm = d.thm ∧ (d.raiseHbm m).slc = d.slc ∧
    (d.raiseHbm m).hbm = { d.hbm with evt := d.hbm.evt ||| m } ∧ (d.raiseHbm m).zf = d.zf ∧ (d.raiseHbm m).parts = d.parts ∧
    (d.raiseHbm m).queues = d.queues ∧ (d.raiseHbm m).disp = d.disp ∧ (d.raiseHbm m).sb = d.sb ∧ (d.raiseHbm m).units = d.units ∧
    (d.raiseHbm m).kpm = d.kpm ∧ (d.raiseHbm m).dma = d.dma ∧ (d.raiseHbm m).dmaCh = d.dmaCh ∧ (d.raiseHbm m).lnk = d.lnk ∧
    (d.raiseHbm m).cnt = d.cnt ∧ (d.raiseHbm m).lpe = d.lpe ∧ (d.raiseHbm m).snp = d.snp ∧ (d.raiseHbm m).lck = d.lck ∧ (d.raiseHbm m).mem = d.mem ∧
    (d.raiseHbm m).out = d.out ++ posts d.hbm.evt (d.hbm.evt ||| m) ∧ (d.raiseHbm m).free = d.free :=
  ⟨rfl, rfl, rfl, rfl, rfl, rfl, rfl, rfl, rfl, rfl, rfl, rfl, rfl, rfl, rfl, rfl, rfl, rfl, rfl, rfl, rfl, rfl, rfl, rfl, rfl, rfl, rfl, rfl, rfl⟩

/-- The fields after Dev.raiseZf. -/
@[simp] theorem Dev.raiseZf_fields (d : Dev) (m : BitVec 3) :
    (d.raiseZf m).fuse = d.fuse ∧ (d.raiseZf m).pins = d.pins ∧ (d.raiseZf m).fc = d.fc ∧ (d.raiseZf m).rails = d.rails ∧ (d.raiseZf m).sup = d.sup ∧
    (d.raiseZf m).pwr = d.pwr ∧ (d.raiseZf m).time = d.time ∧ (d.raiseZf m).sys = d.sys ∧ (d.raiseZf m).pcie = d.pcie ∧ (d.raiseZf m).thm = d.thm ∧
    (d.raiseZf m).slc = d.slc ∧ (d.raiseZf m).hbm = d.hbm ∧ (d.raiseZf m).zf = { d.zf with evt := d.zf.evt ||| m } ∧ (d.raiseZf m).parts = d.parts ∧
    (d.raiseZf m).queues = d.queues ∧ (d.raiseZf m).disp = d.disp ∧ (d.raiseZf m).sb = d.sb ∧ (d.raiseZf m).units = d.units ∧
    (d.raiseZf m).kpm = d.kpm ∧ (d.raiseZf m).dma = d.dma ∧ (d.raiseZf m).dmaCh = d.dmaCh ∧ (d.raiseZf m).lnk = d.lnk ∧ (d.raiseZf m).cnt = d.cnt ∧
    (d.raiseZf m).lpe = d.lpe ∧ (d.raiseZf m).snp = d.snp ∧ (d.raiseZf m).lck = d.lck ∧ (d.raiseZf m).mem = d.mem ∧
    (d.raiseZf m).out = d.out ++ posts d.zf.evt (d.zf.evt ||| m) ∧ (d.raiseZf m).free = d.free :=
  ⟨rfl, rfl, rfl, rfl, rfl, rfl, rfl, rfl, rfl, rfl, rfl, rfl, rfl, rfl, rfl, rfl, rfl, rfl, rfl, rfl, rfl, rfl, rfl, rfl, rfl, rfl, rfl, rfl, rfl⟩

/-- The fields after Dev.raiseKpm. -/
@[simp] theorem Dev.raiseKpm_fields (d : Dev) (m : BitVec 5) :
    (d.raiseKpm m).fuse = d.fuse ∧ (d.raiseKpm m).pins = d.pins ∧ (d.raiseKpm m).fc = d.fc ∧ (d.raiseKpm m).rails = d.rails ∧
    (d.raiseKpm m).sup = d.sup ∧ (d.raiseKpm m).pwr = d.pwr ∧ (d.raiseKpm m).time = d.time ∧ (d.raiseKpm m).sys = d.sys ∧
    (d.raiseKpm m).pcie = d.pcie ∧ (d.raiseKpm m).thm = d.thm ∧ (d.raiseKpm m).slc = d.slc ∧ (d.raiseKpm m).hbm = d.hbm ∧ (d.raiseKpm m).zf = d.zf ∧
    (d.raiseKpm m).parts = d.parts ∧ (d.raiseKpm m).queues = d.queues ∧ (d.raiseKpm m).disp = d.disp ∧ (d.raiseKpm m).sb = d.sb ∧
    (d.raiseKpm m).units = d.units ∧ (d.raiseKpm m).kpm = { d.kpm with evt := d.kpm.evt ||| m } ∧ (d.raiseKpm m).dma = d.dma ∧
    (d.raiseKpm m).dmaCh = d.dmaCh ∧ (d.raiseKpm m).lnk = d.lnk ∧ (d.raiseKpm m).cnt = d.cnt ∧ (d.raiseKpm m).lpe = d.lpe ∧
    (d.raiseKpm m).snp = d.snp ∧ (d.raiseKpm m).lck = d.lck ∧ (d.raiseKpm m).mem = d.mem ∧
    (d.raiseKpm m).out = d.out ++ posts d.kpm.evt (d.kpm.evt ||| m) ∧ (d.raiseKpm m).free = d.free :=
  ⟨rfl, rfl, rfl, rfl, rfl, rfl, rfl, rfl, rfl, rfl, rfl, rfl, rfl, rfl, rfl, rfl, rfl, rfl, rfl, rfl, rfl, rfl, rfl, rfl, rfl, rfl, rfl, rfl, rfl⟩

/-- The fields after Dev.raiseLnk. -/
@[simp] theorem Dev.raiseLnk_fields (d : Dev) (m : BitVec 5) :
    (d.raiseLnk m).fuse = d.fuse ∧ (d.raiseLnk m).pins = d.pins ∧ (d.raiseLnk m).fc = d.fc ∧ (d.raiseLnk m).rails = d.rails ∧
    (d.raiseLnk m).sup = d.sup ∧ (d.raiseLnk m).pwr = d.pwr ∧ (d.raiseLnk m).time = d.time ∧ (d.raiseLnk m).sys = d.sys ∧
    (d.raiseLnk m).pcie = d.pcie ∧ (d.raiseLnk m).thm = d.thm ∧ (d.raiseLnk m).slc = d.slc ∧ (d.raiseLnk m).hbm = d.hbm ∧ (d.raiseLnk m).zf = d.zf ∧
    (d.raiseLnk m).parts = d.parts ∧ (d.raiseLnk m).queues = d.queues ∧ (d.raiseLnk m).disp = d.disp ∧ (d.raiseLnk m).sb = d.sb ∧
    (d.raiseLnk m).units = d.units ∧ (d.raiseLnk m).kpm = d.kpm ∧ (d.raiseLnk m).dma = d.dma ∧ (d.raiseLnk m).dmaCh = d.dmaCh ∧
    (d.raiseLnk m).lnk = { d.lnk with evt := d.lnk.evt ||| m } ∧ (d.raiseLnk m).cnt = d.cnt ∧ (d.raiseLnk m).lpe = d.lpe ∧
    (d.raiseLnk m).snp = d.snp ∧ (d.raiseLnk m).lck = d.lck ∧ (d.raiseLnk m).mem = d.mem ∧
    (d.raiseLnk m).out = d.out ++ posts d.lnk.evt (d.lnk.evt ||| m) ∧ (d.raiseLnk m).free = d.free :=
  ⟨rfl, rfl, rfl, rfl, rfl, rfl, rfl, rfl, rfl, rfl, rfl, rfl, rfl, rfl, rfl, rfl, rfl, rfl, rfl, rfl, rfl, rfl, rfl, rfl, rfl, rfl, rfl, rfl, rfl⟩

/-- The fields after Dev.raiseThm. -/
@[simp] theorem Dev.raiseThm_fields (d : Dev) (m : BitVec 6) :
    (d.raiseThm m).fuse = d.fuse ∧ (d.raiseThm m).pins = d.pins ∧ (d.raiseThm m).fc = d.fc ∧ (d.raiseThm m).rails = d.rails ∧
    (d.raiseThm m).sup = d.sup ∧ (d.raiseThm m).pwr = d.pwr ∧ (d.raiseThm m).time = d.time ∧ (d.raiseThm m).sys = d.sys ∧
    (d.raiseThm m).pcie = d.pcie ∧ (d.raiseThm m).thm = { d.thm with evt := d.thm.evt ||| m } ∧ (d.raiseThm m).slc = d.slc ∧
    (d.raiseThm m).hbm = d.hbm ∧ (d.raiseThm m).zf = d.zf ∧ (d.raiseThm m).parts = d.parts ∧ (d.raiseThm m).queues = d.queues ∧
    (d.raiseThm m).disp = d.disp ∧ (d.raiseThm m).sb = d.sb ∧ (d.raiseThm m).units = d.units ∧ (d.raiseThm m).kpm = d.kpm ∧
    (d.raiseThm m).dma = d.dma ∧ (d.raiseThm m).dmaCh = d.dmaCh ∧ (d.raiseThm m).lnk = d.lnk ∧ (d.raiseThm m).cnt = d.cnt ∧
    (d.raiseThm m).lpe = d.lpe ∧ (d.raiseThm m).snp = d.snp ∧ (d.raiseThm m).lck = d.lck ∧ (d.raiseThm m).mem = d.mem ∧
    (d.raiseThm m).out = d.out ++ posts d.thm.evt (d.thm.evt ||| m) ∧ (d.raiseThm m).free = d.free :=
  ⟨rfl, rfl, rfl, rfl, rfl, rfl, rfl, rfl, rfl, rfl, rfl, rfl, rfl, rfl, rfl, rfl, rfl, rfl, rfl, rfl, rfl, rfl, rfl, rfl, rfl, rfl, rfl, rfl, rfl⟩

end Sys2Proof.Machine
end

