-- ==== Sys2Proof/Laws/Exec.lean ====
section
/-!
SUPPORT. Laws/Exec.lean: what the wrappers of commands do, so that a proof about a command reaches its operation in one rewrite; and what a packet's outcome leaves in
flight.
-/
namespace Sys2Proof.Machine

theorem State.setDev_self (s : State) : s.setDev s.dev = s := rfl

/-- A command of the module. -/
theorem onDev_next (s : State) (f : Dev → Dev) : onDev s f = .next { s with dev := f s.dev } := rfl

/-- A command of the host side with power. -/
theorem onUp_on (s : State) (f : Dev → Dev) (h : s.dev.supAlive = true) : onUp s f = .next { s with dev := f s.dev } := by
  simp [onUp, onDev, State.setDev, h]

/-- A command of the host side without power changes nothing. -/
theorem onUp_off (s : State) (f : Dev → Dev) (h : s.dev.supAlive = false) : onUp s f = .next s := by
  simp [onUp, onDev, State.setDev, h]

/-- A command whose units may write registers, with power. -/
theorem onRun_on (s : State) (e : Env) (f : Dev → Dev) (h : s.dev.supAlive = true) : onRun s e f = .next { s with dev := (f s.dev).flushRegs e } :=
  onUp_on s _ h

/-- A command whose units may write registers, without power. -/
theorem onRun_off (s : State) (e : Env) (f : Dev → Dev) (h : s.dev.supAlive = false) : onRun s e f = .next s := onUp_off s _ h

/-- A request of a function that reaches its controller. -/
theorem onHost_ok (s : State) (fn : Fn) (e : Env) (f : Dev → Dev) (h : s.dev.hostOk fn = true) :
    onHost s fn e f = .next { s with dev := (f s.dev.hostTurn).flushRegs e } := by
  simp [onHost, onDev, State.setDev, Dev.hostReq?, h]

/-- A request of a function that no one completes. -/
theorem onHost_no (s : State) (fn : Fn) (e : Env) (f : Dev → Dev) (h : s.dev.hostOk fn = false) :
    onHost s fn e f = .next { s with dev := s.dev.emit (.noAnswer fn (s.dev.pcieUp && s.dev.fuseEnded)) } := by
  simp [onHost, onDev, State.setDev, Dev.hostReq?, h]

/-- Writes of registers by units, none of which waits. -/
theorem Dev.flushRegs_nil (d : Dev) (e : Env) (h : d.disp.regq = []) : d.flushRegs e = d := by
  unfold Dev.flushRegs
  rw [h, show ([] : List (Nat × Nat × List Byte)).length + 65536 = 65535 + 1 from rfl, Dev.applyRegq, h]

/-- A command on a packet that runs one of the command's opcodes. -/
theorem Dev.onPkt_runs {d : Dev} {q : QRef} {tag : BitVec 16} {c : Nat} {p : Pkt} (h : Runs d q tag c p) (ops : List Nat) (f : Dev → Pkt → Dev)
    (hc : c ∈ ops) : d.onPkt ops q tag f = f d p := by
  have hf := h.free
  simp only [Dev.onPkt, h.here, h.started, h.opc, hf, h.turn]
  simp [hc]

/-- A command on a packet that is not in flight. -/
theorem Dev.onPkt_absent (d : Dev) (ops : List Nat) (q : QRef) (tag : BitVec 16) (f : Dev → Pkt → Dev) (h : d.pkt? q tag = none) : d.onPkt ops q tag f = d := by
  simp [Dev.onPkt, h]

/-- The packet of a queue under a tag, once every packet in flight has changed by a function that keeps queue and tag. -/
theorem Dev.mapPkts_pkt (d : Dev) (f : Pkt → Pkt) (hq : ∀ p, (f p).q = p.q) (ht : ∀ p, (f p).tag = p.tag) (q : QRef) (tag : BitVec 16) :
    (d.mapPkts f).pkt? q tag = (d.pkt? q tag).map f := by
  simp only [Dev.pkt?, Dev.mapPkts_fields]
  induction d.disp.pkts with
  | nil => rfl
  | cons x r ih =>
    simp only [List.map_cons, List.find?_cons, hq, ht]
    split
    · rfl
    · exact ih

/-- A packet whose effect is done. -/
theorem Dev.finish_pkt (d : Dev) (q : QRef) (tag : BitVec 16) (p : Pkt) (h : d.pkt? q tag = some p) (st : BitVec 16) (r : Nat) :
    (d.finish p.ord st r).pkt? q tag = some { p with phase := .done, status := thenSt st p.status, result := BitVec.ofNat 64 r } := by
  unfold Dev.finish Dev.modPkt
  rw [Dev.mapPkts_pkt _ _ (fun x => by split <;> rfl) (fun x => by split <;> rfl), h]
  simp

end Sys2Proof.Machine
end

