-- ==== Sys2Proof/WellFormed.lean ====
section
/-!
DEFINITION. WellFormed.lean: when a command's operands are ones the outside world can present: frames of their fixed sizes, byte
counts of an access, addresses of 56 bits, sites, cores and lanes that the package can hold. The meanings do not rest on it: a command
that is not well formed still has its effect.
-/
namespace Sys2Proof

/-- A frame of the barrier has 12 payload bytes (02 R61). -/
def Frame.wf (f : Frame) : Bool := f.payload.length == 12

/-- A CAN FD frame has an identifier of at most 29 bits and at most 64 data bytes (02 R57). -/
def CanFrame.wf (f : CanFrame) : Bool := decide (f.id < 2 ^ 29) && decide (f.data.length ≤ 64)

/-- A physical core of a compute stack (01 R14): site 0-4, core 0-67. -/
def physWf (x : Nat × Nat) : Bool := decide (x.1 < 5) && decide (x.2 < 68)

/-- A negotiated capability block has 64 bytes (08 R190). -/
def PartnerOutcome.wf : PartnerOutcome → Bool
  | .noSideband => true
  | .block b _ => b.length == 64
  | .unfinished => true

/-- What a phase reports names sites, stacks, cores, lanes and links that exist in the package. -/
def PhaseResult.wf (r : PhaseResult) : Bool :=
  r.fuseFail.all (fun n => n < 6) && r.zfFail.all (fun n => n < 6) && r.partner.wf && r.stackFail.all (fun h => h < 12)
    && r.pcFail.all (fun x => x.1 < 12 && x.2 < 32) && r.lanes.all (fun x => physWf (x.1, x.2.1) && x.2.2 < 4096)
    && r.caLanes.all (fun x => physWf (x.1, x.2.1) && x.2.2 < 112) && r.sliceFail.all physWf && r.layerLost.all (fun n => n < 5)
    && r.linkFail.all (fun l => l < 72) && r.coreFail.all physWf && r.dmaFail.all (fun n => n < 12) && r.kpmFail.all (fun n => n < 6)

/-- What a command meets outside: DPAs of 56 bits, words aligned to 32 bytes, bits below 272 (06 R142, 09 R196). -/
def Env.wf (e : Env) : Bool :=
  e.cells.all (fun c => c.1 < 2 ^ 56) && e.upsets.all (fun u => u.1 < 2 ^ 56 && u.1 % 32 == 0 && u.2 < 272)
    && e.fails.all (fun f => f.1 < 2 ^ 56 && f.2.1 != 0) && e.ondie.all (fun w => w.1 < 2 ^ 56 && w.1 % 32 == 0)
    && e.rlcBad.all (fun l => l < 2 ^ 48) && e.ca.all (fun a => a < 2 ^ 56 && a % 32 == 0)
    && e.samp.all (fun s => s.1 < 6 && s.2.natAbs ≤ 1)

/-- CA lanes of an octant are 0-13 (06 R139). -/
def CaFault.wf (c : CaFault) : Bool := c.words.all (fun a => a < 2 ^ 56 && a % 32 == 0) && c.lanes.all (fun l => l < 14)

/-- Sensor keys: domain 0-5, class 0-3, index below 100. -/
def ScanEnv.wf (r : ScanEnv) : Bool := r.readings.all (fun x => x.1 < 6000 && x.1 / 100 % 10 < 4)

/-- A byte string has between least and most bytes. -/
def bytesWf (b : List Byte) (least most : Nat) : Bool := decide (least ≤ b.length) && decide (b.length ≤ most)

/-- Pace monitors are numbered by core, 0-383, and their counts lie in 24 bits (04 R98). -/
def paceWf (l : List (Nat × BitVec 24)) : Bool := l.all (fun x => x.1 < 384)

/-- A write to a doorbell has 8, 16, 32 or 64 bits (11 R242). -/
def doorWf (bits : Nat) : Bool := [8, 16, 32, 64].contains bits

/-- A register access has 1 to 8 bytes and stays in BAR0 (21 R437). -/
def accWf (off size : Nat) : Bool := decide (1 ≤ size) && decide (size ≤ 8) && decide (off + size ≤ 2 ^ 23)

/-- A command is well formed. -/
def Instr.wf (i : Instr) : Bool :=
  match i with
  | .canFacShedNow f => f.wf
  | .canFacIsolateWarn f => f.wf
  | .canFacPowerCap f => f.wf
  | .canFacIdentReq f => f.wf
  | .facStatus f => f.wf
  | .facPowerCap f => f.wf
  | .facShedNow f => f.wf
  | .facCoolant f => f.wf
  | .facIsolateWarn f => f.wf
  | .facIdentReq f => f.wf
  | .facAck f => f.wf
  | .hstStatus f => f.wf
  | .hstStopRecord f => f.wf
  | .hstTripRecord f => f.wf
  | .hstIdent f => f.wf
  | .hstPowerReq f => f.wf
  | .hstThermal f => f.wf
  | .hstAck f => f.wf
  | .smbusWrite _ _ data => bytesWf data 0 32
  | .fusePhaseEnd r => r.wf
  | .zfPhaseEnd r => r.wf
  | .memPhaseEnd r => r.wf
  | .assayPhaseEnd r => r.wf
  | .phaseDeadline r => r.wf
  | .paceWindow counts => paceWf counts
  | .caParityError _ _ _ c e => c.wf && e.wf
  | .bar4Read _ off len e => decide (1 ≤ len) && decide (len ≤ 4096) && decide (off + len ≤ 2 ^ 56) && e.wf
  | .bar4Write _ off data e => bytesWf data 1 4096 && decide (off + data.length ≤ 2 ^ 56) && e.wf
  | .sqTail _ _ bits _ e => doorWf bits && e.wf
  | .cqHead _ _ bits _ => doorWf bits
  | .flitReceive _ f _ => f.length == 128
  | .thermalScan r e => r.wf && e.wf
  | .registerWrite _ off size _ e => accWf off size && e.wf
  | .registerRead _ off size => accWf off size
  | .fcHousekeepingUp => true
  | .uvRising => true
  | .uvFalling => true
  | .ovRising => true
  | .ovFalling => true
  | .converterReenableDelay => true
  | .railPowerGood => true
  | .inputBelow44V _ => true
  | .derivedCapTick _ => true
  | .hostPowerDown => true
  | .facStatusPeriod _ => true
  | .fcStateFramePeriod _ => true
  | .hstStatusPeriod _ => true
  | .barrierRetransmitTimeout _ _ => true
  | .barrierLostTimeout => true
  | .hostSilentTimeout => true
  | .identAnswerTimeout => true
  | .isolateHalt => true
  | .pwrReqGo _ _ => true
  | .pwrVopWrite _ _ => true
  | .vopChangeDone _ => true
  | .smbusReady => true
  | .smbusBlockRead _ _ => true
  | .clockPhaseEnd => true
  | .sysReadySet => true
  | .sessionQuietEnd => true
  | .pcieConfigRequest _ _ => true
  | .perstAssert => true
  | .perstDeassert => true
  | .warmRestartReady => true
  | .vfFlr _ => true
  | .pfFlr => true
  | .bar4Resize _ _ => true
  | .refclkLoss => true
  | .refclkReturn => true
  | .sysTimeLoRead _ => true
  | .sliceRefresh => true
  | .hbmRefresh => true
  | .sliceScrubBurst _ _ e => e.wf
  | .repairSweepDone _ _ _ e => e.wf
  | .evacExpiry _ _ => true
  | .slcCtlFenceNow _ _ => true
  | .layerResourceFail _ => true
  | .hbmScrubBurst _ _ e => e.wf
  | .hbmCaRetrainDone _ _ _ => true
  | .hbmTempRead _ _ => true
  | .hbmTempReadTimeout _ => true
  | .hbmCtlReform _ _ => true
  | .reformDone => true
  | .zfParityFail _ _ => true
  | .zfRlcPurgeAll _ _ => true
  | .partnerResponse _ e => e.wf
  | .partnerResponseTimeout _ e => e.wf
  | .partnerInboundRequest _ e => e.wf
  | .partnerLinkLoss e => e.wf
  | .sysNodeWrite _ _ => true
  | .qCtlEnable _ _ _ => true
  | .qCtlDisable _ _ w => w.e.wf
  | .qCtlAbort _ _ w => w.e.wf
  | .qIrqWrite _ _ _ => true
  | .packetTake e => e.wf
  | .packetStart _ _ => true
  | .packetComplete _ _ e => e.wf
  | .irqTimeTrigger _ => true
  | .ringReadError _ => true
  | .nop _ _ => true
  | .barrier _ _ e => e.wf
  | .storeBufferIssue _ _ e => e.wf
  | .signal _ _ e => e.wf
  | .wait _ _ e => e.wf
  | .waitPoll _ _ e => e.wf
  | .waitTimeout _ _ => true
  | .flush _ _ => true
  | .invalidate _ _ e => e.wf
  | .gemm _ _ e => e.wf
  | .gemmT _ _ e => e.wf
  | .convAsGemm _ _ e => e.wf
  | .escapementPauseEnd _ _ _ => true
  | .vxuOp _ _ e => e.wf
  | .norm _ _ e => e.wf
  | .optimStep _ _ e => e.wf
  | .attend _ _ e => e.wf
  | .attendBuckets _ _ e => e.wf
  | .verify _ _ e => e.wf
  | .verifyStreamPacket _ _ e => e.wf
  | .verifyAcceptance _ _ e => e.wf
  | .kvAlloc _ _ e => e.wf
  | .kvAppend _ _ e => e.wf
  | .kvFree _ _ e => e.wf
  | .kvCommit _ _ e => e.wf
  | .kvRollback _ _ e => e.wf
  | .arborMatch _ _ e => e.wf
  | .arborInsert _ _ _ e => e.wf
  | .arborRemove _ _ _ e => e.wf
  | .reservationExpiry _ _ => true
  | .exclusiveHoldExpiry _ _ e => e.wf
  | .kpmPoolEnable _ _ _ _ => true
  | .kpmPoolReady _ _ e => e.wf
  | .kpmPoolDisable _ _ _ _ => true
  | .kpmPinLoWrite _ _ e => e.wf
  | .arbKeyWrite _ _ _ => true
  | .dmaRun _ _ e => e.wf
  | .dmaChain _ _ e => e.wf
  | .dmaDescriptorStart _ _ e => e.wf
  | .dmaBlockRead _ _ e => e.wf
  | .dmaBlockWrite _ _ e => e.wf
  | .dmaDescriptorEnd _ _ e => e.wf
  | .send _ _ e => e.wf
  | .remoteAtomic _ _ e => e.wf
  | .routeSet _ _ => true
  | .partCreate _ _ => true
  | .partResize _ _ e => e.wf
  | .partDestroy _ _ e => e.wf
  | .loupeWatch _ _ e => e.wf
  | .loupeDigest _ _ _ e => e.wf
  | .cntSnap _ _ e => e.wf
  | .snapshot _ _ => true
  | .setVop _ _ => true
  | .escRequest _ _ => true
  | .abort _ _ _ e => e.wf
  | .abortResetTimeout _ _ e => e.wf
  | .abortComplete _ _ e => e.wf
  | .linkTrained _ _ _ => true
  | .linkDown _ => true
  | .linkAckTimeout _ => true
  | .linkHoldExpiry _ => true
  | .inboundRequest _ e => e.wf
  | .inboundResponse _ e => e.wf
  | .messageHoldExpiry _ => true
  | .transactionTimeout _ e => e.wf
  | .stopRecordWrite _ e => e.wf
  | .domain5PowerDown _ => true
  | .trip _ _ => true
  | .tripRelease => true
  | .escReqWrite _ _ _ => true
  | .cntValLoWrite _ _ => true
  | .cntValLoRead _ => true
  | .snpCtlGo _ _ => true
  | .snapshotDone _ e => e.wf
  | .openObserve _ => true
  | .reqChal _ _ => true
  | .submitResp _ => true
  | .setPw _ => true
  | .relock _ => true
  | .lockCommandDone => true
  | .challengeExpiry => true
  | .testEnChange _ => true
  | .lckTapGo _ _ => true
  | .tapShiftDone _ => true
  | .tapInstructionUpdate _ => true
  | .fcHousekeepingDown => true
  | .coolantEvent _ => true
  | .purgeAllDone => true

end Sys2Proof
end

