-- ==== Sys2Proof/Tests/Slice0.lean ====
section
/-!
SUPPORT. Tests/Slice0.lean: for every statement with hypotheses, concrete states and operands that meet them, clause by clause; terms that WellFormed refuses; and a
few single steps against values of the spec. The witnesses show hypotheses only: the statements are the provers'.
-/
namespace Sys2Proof.Tests
open Sys2Proof Sys2Proof.Machine

/-- A machine with this module and nothing waiting. -/
def on (d : Dev) : State := { dev := d }

/-- A ready module: five compute stacks and IOD0, a running timebase, both kinds of function enabled, one HBM stack with its map formed. -/
def up : Dev := {
  pins := { perst := false }
  time := { running := true, base := 5000000, locked := true }
  sys := { fuseLoaded := true, phase := 6, ready := true, everReady := true, node := 7, site := [(0, 1), (1, 1), (2, 1), (3, 1), (4, 1), (5, 2)] }
  pcie := { mse := [(0, true), (1, true), (2, true)], vfEnable := true }
  thm := { dom := [(0, { thermal := 0 }), (1, { thermal := 0 }), (2, { thermal := 0 }), (3, { thermal := 0 }), (4, { thermal := 0 }), (5, { thermal := 0 })] }
  hbm := { form := [{ h := 0, pc := 0, inter := 294912 }], stk := [(0, { active := 1 })] }
  lnk := { session := 9, quiet := false } }

/-- A packet of management queue 0 under tag 5 that has started, with opcode c and words w after its header; its translations map 1 GiB from 0 to the interleaved pool. -/
def pk (c : BitVec 8) (w : List (BitVec 64)) : Pkt :=
  { q := .mgmt 0, tag := 5, opc := c, ord := 1, phase := .started, words := 0 :: w, leaves := [{ dva := 0, size := 2 ^ 30, dpa := mkDpa 0 0, w := true }] }

/-- A module with these packets in flight. -/
def fly (d : Dev) (l : List Pkt) : Dev := { d with disp := { d.disp with pkts := l } }

/-- A request of the host meets a module that keeps none of its writes back as it is: for each module below, the t of a statement is s.dev. -/
theorem turn_of {d : Dev} (h : d.kpm.held = []) : d.hostTurn = d := d.hostTurn_idle (by simp [h])

theorem test_hyp_hostTurn : up.hostTurn = up := turn_of rfl

/-- The queue of the packets of `pk`. -/
abbrev q0 : QRef := .mgmt 0

/-! Input, rails and power. -/

theorem test_hyp_QueueRunsInOrder : 1 ≤ (State.mk up [.relock .host]).pending.length := by decide

theorem test_hyp_IdleTicks : (on {}).pending = [] ∧ (on {}).dev.time.running = false ∧ (on up).dev.time.running = true := by decide

theorem test_hyp_FacilitySupplies :
    (on { fc := { hk := false } }).dev.fc.hk = false ∧
    (on { fc := { uvHold := true, st := .uvHold } }).dev.fc.ovHold = false ∧ (on { rails := { offTenMs := true }, fc := { uvHold := true } }).dev.rails.offTenMs = true ∧
    (on { fc := { uvHold := true, ovHold := true } }).dev.fc.uvHold = true ∧ (on { fc := { ovHold := true } }).dev.fc.uvHold = false := by decide

/-- The rails with n power-goods up. -/
def railsAt (n : Nat) : Dev := { rails := { pg := n } }

theorem test_hyp_HostSideRails :
    (on { rails := { pg := 0, converter := false } }).dev.rails.pg = 0 ∧ (railsAt 0).rails.pg < 5 ∧ (railsAt 4).rails.pg < 5 ∧ (railsAt 5).rails.pg = 5 ∧
    (railsAt 5).rails.latchedOff = false ∧ (railsAt 5).rails.tripHold = false ∧ (railsAt 5).rails.converter = true ∧ 2 ≤ (railsAt 2).rails.pg ∧
    (on { rails := { tripHold := true, pg := 2 } }).dev.rails.tripHold = true ∧
    (let s := on { thm := { dom := [(5, { stopping := true, srec := { written := true } })] } }
     s.dev.supAlive = true ∧ (s.dev.dom 5).stopping = true ∧ (s.dev.dom 5).srec.written = true) := by decide

theorem test_hyp_SmbusResponder :
    2 ≤ (railsAt 2).rails.pg ∧ (railsAt 2).rails.latchedOff = false ∧
    (let s := on { rails := { smbReady := true }, pins := { smbSel := 3 } }
     s.dev.rails.smbReady = true ∧ (0x5B#7).toNat = 0x58 + s.dev.pins.smbSel.toNat) := by decide

/-- A VOP change of site 5 in progress, before another of site 0. -/
def vops : Dev := { up with pwr := { vopQ := [{ site := 5, begun := true, vop := 2 }, { site := 0, begun := true }] } }

theorem test_hyp_VopChanges :
    up.hostOk .pf = true ∧ up.csActive 0 = true ∧ up.dieOut 0 = false ∧ vops.supAlive = true ∧
    vops.pwr.vopQ = { site := 5, begun := true, vop := 2 } :: [{ site := 0, begun := true }] ∧ ([({ site := 0, begun := true } : VopJob)].all (fun x => x.site != 5)) = true := by
  decide

/-! The barrier. -/

/-- A sound frame of the barrier. -/
def frame (typ seq : Byte) (payload : List Byte) : Frame :=
  let f : Frame := { typ := typ, seq := seq, payload := padTo 12 payload }
  { f with crc := BitVec.ofNat 16 (crc16 (frHead f)) }

/-- A CAN frame of 16 bytes. -/
def can (id : Nat) : CanFrame := { id := id, data := List.replicate 16 1 }

theorem test_hyp_FacilitySends : (on {}).dev.fc.hk = true := by decide

theorem test_hyp_RackAndCaps :
    (can 0x080).foreign = false ∧ (can 0x080).data.length = 16 ∧ (can 0x0C0).id = 0x0C0 + (on {}).dev.fc.slot.toNat ∧
    (can 0x13F).id = 0x100 + (on { fc := { slot := 63 } }).dev.fc.slot.toNat ∧ (on {}).dev.fc.derived = none ∧ (can 0x140).id = 0x140 + (on {}).dev.fc.slot.toNat ∧
    ({ data := [] } : CanFrame).data.length ≠ 16 ∧
    (let s := on { fc := { below44 := true, lastSent := 700 } }
     s.dev.fc.hk = true ∧ s.dev.fc.below44 = true ∧ s.dev.fc.lastSent.toNat + 25 ≤ min (iLim s.dev.fuse.variant * 4300 / 100) s.dev.fc.rackCap.toNat) ∧
    (let s := on { fc := { below44 := true, rackCap := 700, lastSent := 725 } }
     min (iLim s.dev.fuse.variant * 4300 / 100) s.dev.fc.rackCap.toNat + 25 ≤ s.dev.fc.lastSent.toNat) ∧
    (let s := on { fc := { below44 := true, rackCap := 700, lastSent := 724 } }
     s.dev.fc.lastSent.toNat < min (iLim s.dev.fuse.variant * 4300 / 100) s.dev.fc.rackCap.toNat + 25 ∧
     min (iLim s.dev.fuse.variant * 4300 / 100) s.dev.fc.rackCap.toNat < s.dev.fc.lastSent.toNat + 25) := by decide

set_option maxRecDepth 20000 in
theorem test_hyp_CoolantTakesNoAction :
    (on {}).dev.supAlive = true ∧ frSound (frame 0x04 1 []) = true ∧ (frame 0x04 1 []).typ = 0x04#8 ∧ (on {}).dev.sup.rxLast ≠ some (frame 0x04 1 []).seq := by decide

set_option maxRecDepth 20000 in
theorem test_hyp_FacilityMessagesApply :
    frSound (frame 0x01 1 []) = true ∧ frSound (frame 0x02 1 [0x10, 0x27, 0]) = true ∧ frSound (frame 0x03 1 [0]) = true ∧ frByte (frame 0x03 1 [1]) 0 = 1#8 ∧
    frSound (frame 0x05 1 [0xFF, 0xFF]) = true ∧ frField (frame 0x05 1 [0xFF, 0xFF]) 0 2 = 0xFFFF ∧ frField (frame 0x05 1 [0xFE, 0xFF]) 0 2 ≠ 0xFFFF ∧
    frSound (frame 0x06 1 []) = true ∧ (on {}).dev.fuseEnded = false ∧ frSound (frame 0x07 1 [0x85, 3]) = true ∧ frByte (frame 0x07 1 [0x85, 3]) 0 = 0x85#8 ∧
    (on {}).dev.sup.rxLast ≠ some 1 := by decide

set_option maxRecDepth 20000 in
theorem test_hyp_FramesNotApplied :
    frSound { typ := 0x02, gap := true } = false ∧ (frame 0x00 0 []).typ = 0x00#8 ∧ 0x07#8 < (frame 0x08 0 []).typ ∧
    (let s := on { sup := { rxLast := some 9 } }
     s.dev.supAlive = true ∧ frSound (frame 0x02 9 []) = true ∧ s.dev.sup.rxLast = some (frame 0x02 9 []).seq) := by decide

set_option maxRecDepth 20000 in
theorem test_hyp_HostMessagesReachTheRack :
    (on {}).dev.fc.hk = true ∧ (on {}).dev.fc.rxLast ≠ some 1 ∧ (on {}).dev.fc.st = .hostSilent ∧
    [0x81, 0x82, 0x83, 0x84, 0x85, 0x86, 0x87].all (fun t => frSound (frame t 1 [])) = true := by decide

theorem test_hyp_BarrierTimeouts :
    (let u : Unacked := { typ := 0x85, sends := 8 }
     (on { sup := { unacked := [u] } }).dev.sup.unacked = [u] ∧ 8 ≤ u.sends ∧ u.typ = 0x85#8) ∧
    ({ typ := 0x82, sends := 7 } : Unacked).sends < 8 ∧ (on {}).dev.supAlive = true ∧
    (on { fc := { st := .hostRunning } }).dev.fc.st = .hostRunning ∧ 0 < (on { fc := { identWait := 2 } }).dev.fc.identWait ∧
    (on { pwr := { isoUntil := some 0 } }).dev.pwr.isoUntil = some 0 ∧ up.hostOk .pf = true ∧ up.pwr.pending = false ∧ (0x10064#32).getLsbD 16 = true ∧
    (on up).dev.fuseEnded = true := by decide

/-! From power to ready. -/

/-- A module in a phase of the power-up sequence. -/
def inPhase (n : BitVec 4) : Dev := { up with sys := { phase := n } }

theorem test_hyp_PowerUpSequence :
    (on {}).dev.sys.phase = 1#4 ∧ (on {}).dev.pins.refclk = true ∧ (inPhase 2).supAlive = true ∧ (inPhase 2).sys.phase = 2#4 ∧ (inPhase 2).thm.trip = false ∧
    ({} : PhaseResult).fuseFail.contains 5 = false ∧ ({ fuseFail := [5] } : PhaseResult).fuseFail.contains 5 = true ∧ (inPhase 3).sys.phase = 3#4 ∧ (inPhase 4).sys.phase = 4#4 ∧
    (inPhase 5).sys.phase = 5#4 ∧ (inPhase 6).sys.phase = 6#4 ∧ (inPhase 6).sys.everReady = false ∧ (inPhase 6).lck.disturbed = false ∧
    (inPhase 3).time.running = true ∧ (inPhase 3).time.base < 2 ^ 64 ∧ up.supAlive = true ∧ up.sys.ready = true ∧ up.lnk.rids = [] := by decide

theorem test_hyp_Timebase :
    (on up).dev.time.running = true ∧ (on up).dev.time.holdover = false ∧ up.hostOk .pf = true ∧ up.hostOk (.vf 0) = true ∧ up.paceRuns 0 = true ∧ up.paceRuns 320 = true ∧ up.paceRuns 319 = true ∧ up.paceRuns 383 = false ∧
    up.supAlive = true := by decide

theorem test_hyp_ConfigurationRequests :
    (on {}).dev.pcieUp = false ∧ (on { pins := { perst := false } }).dev.pcieUp = true ∧ (on { pins := { perst := false } }).dev.fuseEnded = false ∧
    up.pcieUp = true ∧ up.fuseEnded = true := by decide

/-- A module whose warm restart is pending. -/
def warm (t : Option Nat) : Dev := { up with sys := { up.sys with ready := false, warmPend := true, warmStart := t } }

theorem test_hyp_Resets :
    ((on {}).dev.sys.ready = false ∧ (on {}).dev.sys.warmPend = false) ∧ (up.supAlive = true ∧ up.sys.ready = true) ∧
    ((warm none).supAlive = true ∧ (warm none).sys.warmPend = true ∧ (warm none).sys.warmStart = none) ∧
    ((warm (some 0)).supAlive = true ∧ (warm (some 0)).sys.warmStart = some 0 ∧ (warm (some 0)).pins.perst = false ∧ (warm (some 0)).lck.disturbed = false) ∧
    up.cfgOk (.vf 7) = true ∧ up.cfgOk .pf = true ∧ up.sys.everReady = true := by decide

/-! The memory tiers. -/

theorem test_hyp_WordCode : (255 < 256 ∧ 15 < 16) ∧ (0 : Nat) ≠ 255 := by decide

/-- The first word of the slice of core 63 of site 4. -/
abbrev w2 : Nat := coreDpa 2 4 63 0

theorem test_hyp_FullWordWrite :
    up.mem.wf = true ∧ up.locate w2 = .slice 4 63 0 ∧ (List.replicate 32 (7 : Byte)).length = 32 ∧ (up.slice 4 63).st ≠ 1#2 ∧ up.isHeld w2 none = false ∧
    (let d : Dev := { up with slc := { slices := [(coreKey 4 63, { st := 1 })] } }
     d.locate w2 = .slice 4 63 0 ∧ (d.slice 4 63).st = 1#2) := by decide

/-- A module whose word w holds a codeword but for these flipped bits. -/
def flipped (w diff : Nat) : Dev := { up with mem := up.mem.setDiff w diff }

theorem test_hyp_ReadsClassifyWords :
    (255 < 256 ∧ (flipped w2 (dataFlipDiff 255)).mem.wf = true ∧ (flipped w2 (dataFlipDiff 255)).mem.diff w2 = dataFlipDiff 255) ∧
    ((flipped w2 poisonDiff).mem.wf = true ∧ eccClass ((flipped w2 poisonDiff).mem.diff w2) = .poison) ∧
    ((flipped w2 (dataFlipDiff 0 ^^^ dataFlipDiff 1)).mem.wf = true ∧ eccClass ((flipped w2 (dataFlipDiff 0 ^^^ dataFlipDiff 1)).mem.diff w2) = .ue) ∧
    up.mem.diff w2 = 0 := by decide

/-- A module with slice (4, 63) changed. -/
def slc (x : Slice) : Dev := { up with slc := { slices := [(coreKey 4 63, x)] } }

theorem test_hyp_Slices :
    (up.supAlive = true ∧ up.coreLive 4 63 = true ∧ (up.slice 4 63).burst + 1 ≠ sliceBursts) ∧
    ((slc { sweeping := [7] }).slice 4 63).sweeping.contains 7 = true ∧ ({} : CaFault).again = false ∧ (tget (up.slice 4 63).caTimes 7 []).length < 3 ∧
    (let d := slc { st := 1, evacAt := some 0 }
     d.supAlive = true ∧ d.hostOk .pf = true ∧ d.coreLive 4 63 = true ∧ (d.slice 4 63).st = 1#2 ∧ (d.slice 4 63).evacAt = some 0) ∧
    up.csActive 4 = true ∧ up.slc.lost.getLsbD 4 = false := by decide

theorem test_hyp_HbmStacks :
    (up.pcActive 0 0 = true ∧ tget (up.stack 0).word 0 0 + 32 < up.pcWords) ∧ up.stackHere 11 = true ∧
    (on up).dev.livePart = [] ∧ up.hbm.busy = false ∧ up.hostOk .pf = true ∧ ({ up with hbm := { busy := true } } : Dev).hbm.busy = true ∧
    ((-10 : Int) ≤ 102 ∧ (102 : Int) < 103 ∧ (103 : Int) ≤ 125 ∧ (125 : Int) < 126) := by decide

/-! The fabric, the partner port and addressing. -/

theorem test_hyp_FabricCommands :
    (let d : Dev := { up with zf := { ports := [(6, { st := 1 })] } }
     d.supAlive = true ∧ (tget d.zf.ports 6 {}).st = 1#2 ∧ (tget d.zf.ports 6 {}).fails.length < 15) ∧ up.hostOk .pf = true ∧ up.supAlive = true := by decide

/-- A variant whose site 4 holds a ready partner die with one request waiting for its answer. -/
def partner (r : PrtReq) : Dev :=
  { up with fuse := { variant := .v41p }, sys := { up.sys with site := [(0, 1), (1, 1), (2, 1), (3, 1), (4, 3), (5, 2)] }
            zf := { prtWrite := true, prtWindow := 1, prtMaxOut := 15, prtSt := 2, reqs := [r] } }

/-- A module that takes requests of its partner in an aperture of 1 MiB. -/
def aperture : Dev := let d := partner {}; { d with zf := { d.zf with reqs := [], prtInit := true, inBase := BitVec.ofNat 56 (mkDpa 0 0), inSize := 1 } }

/-- The same with a KV pool whose pages begin at 0. -/
def poolAperture : Dev := { aperture with kpm := { pools := [(poolKey 0 1, { enable := true, ready := true, blocks := 65535, base := BitVec.ofNat 56 (mkDpa 0 0) })] } }

set_option maxRecDepth 100000 in
theorem test_hyp_PartnerPort :
    (partner {}).supAlive = true ∧ (partner {}).partnerReady = true ∧ prtCrcOk [] = false ∧
    (let m := prtMsg 3 0 0 9 0 (List.replicate 64 1)
     prtCrcOk m = true ∧ fieldAt m 0 1 = 3 ∧ ({ ptag := some 9 } : PrtReq).ptag = some (fieldAt m 4 2) ∧ fieldAt m 2 1 = 0 ∧ ({ ptag := some 9 } : PrtReq).sync = false) ∧
    (partner { ptag := some 9, dead := true }).zf.reqs = [{ ptag := some 9, dead := true }] ∧
    (let m := prtMsg 1 0 0 9 0xFFFC0 []
     prtCrcOk m = true ∧ fieldAt m 0 1 = 1 ∧ fieldAt m 1 1 = 0 ∧ (partner {}).zf.prtInit = false ∧ aperture.zf.prtInit = true ∧
     aperture.canon aperture.zf.inBase.toNat = mkDpa 0 0 ∧ fieldAt m 8 6 + 64 ≤ aperture.zf.inSize.toNat * 2 ^ 20 ∧ fieldAt m 8 6 + 64 ≤ 2 ^ 44 ∧
     aperture.inKvPages (mkDpa 0 0 + fieldAt m 8 6) 64 = false ∧ poolAperture.inKvPages (mkDpa 0 0 + fieldAt m 8 6) 64 = true) ∧
    aperture.zf.reqs = [] := by decide

theorem test_hyp_Bar4ReadsWhatItWrote :
    up.hostOk .pf = true ∧ up.mem.wf = true ∧ (List.replicate 32 (7 : Byte)).length = 32 ∧
    (let off := up.formedGranules * 4096 - 32
     off % 32 = 0 ∧ off + 32 ≤ up.formedGranules * 4096 ∧ off < 2 ^ 44 ∧ up.locate (mkDpa 0 off) = .hbm 0 0 37748735 false ∧ up.isHeld (mkDpa 0 off) none = false ∧
     (let d : Dev := { up with kpm := { slots := [(7, { st := 3, excl := some (mkDpa 0 (off - off % 256)) })] } }
      d.isHeld (mkDpa 0 off) none = true ∧ d.kpm.held = [])) ∧
    up.kpm.held = [] ∧ up.formedGranules * 4096 % 32 = 0 := by decide

/-! Commands on packets. -/

/-- The hypotheses of `Runs`, decided. -/
def runs (d : Dev) (q : QRef) (tag : BitVec 16) (c : Nat) (p : Pkt) : Bool :=
  d.supAlive && decide (d.pkt? q tag = some p) && decide (p.phase = .started) && decide (p.opc.toNat = c) && !d.disp.aborts.any (fun j => j.stuck.contains p.ord) && d.descTurn p

theorem runs_of {d : Dev} {q : QRef} {tag : BitVec 16} {c : Nat} {p : Pkt} (h : runs d q tag c p = true) : Runs d q tag c p := by
  simp only [runs, Bool.and_eq_true, decide_eq_true_eq, Bool.not_eq_true'] at h
  exact ⟨h.1.1.1.1.1, h.1.1.1.1.2, h.1.1.1.2, h.1.1.2, h.1.2, h.2⟩

theorem test_hyp_NoRegisterWriteWaits : (on {}).dev.disp.regq = [] := by decide

/-- The barrier behind another packet of its queue. -/
def behind (p : Pkt) : Dev := fly up [{ pk 0x00 [] with tag := 4, ord := 0 }, p]

theorem test_hyp_OrderingPackets :
    runs (fly up [pk 0x00 []]) q0 5 0x00 (pk 0x00 []) = true ∧ runs (fly up [pk 0x01 []]) q0 5 0x01 (pk 0x01 []) = true ∧ (fly up [pk 0x01 []]).aheadDone (pk 0x01 []) = true ∧
    runs (behind (pk 0x01 [])) q0 5 0x01 (pk 0x01 []) = true ∧ (behind (pk 0x01 [])).aheadDone (pk 0x01 []) = false ∧
    runs (fly up [pk 0x04 []]) q0 5 0x04 (pk 0x04 []) = true ∧ (fly up [pk 0x04 []]).writesPend (fun _ o => (pk 0x04 []).flush.contains o) = false ∧
    (let p : Pkt := { pk 0x04 [] with flush := [0] }
     let d : Dev := { fly up [p] with lnk := { rids := [{ op := 2, q := q0, tag := 3, ord := 0, use := .dmaWrite 0 0 0 }] } }
     runs d q0 5 0x04 p = true ∧ d.writesPend (fun _ o => p.flush.contains o) = true) := by decide

/-- The last word of the SRAM of core (4, 63). -/
abbrev w3 : Nat := coreDpa 3 4 63 0x3FFFE0

theorem test_hyp_AtomicWords :
    up.mem.wf = true ∧ up.mem.diff w3 = 0 ∧ up.canon (w3 + 24) = w3 + 24 ∧ w3 % 32 = 0 ∧ up.locate w3 = .sram 4 63 0x3FFFE0 ∧ up.locate (w3 + 24) = .sram 4 63 (0x3FFFE0 + 24) ∧
    up.isHeld w3 none = false ∧ ({} : Acc).site = none ∧ 2 ^ 64 - 1 < 2 ^ 64 := by decide

/-- A packet whose translation maps 64 KiB at 0 to the slice of core (4, 63). -/
def pks (c : BitVec 8) (w : List (BitVec 64)) : Pkt := { pk c w with leaves := [{ dva := 0, dpa := w2, w := true }] }

/-- A WAIT under way, and one that has read its word. -/
def waiting (rid : Nat) : Pkt := { pks 0x03 [0, 0] with waitRid := rid, deadline := some 0 }

theorem test_hyp_SignalAndWait :
    (let p := pks 0x02 [0, 1, 1]
     let d := fly up [p]
     runs d q0 5 0x02 p = true ∧ leafDpa p.leaves (p.f 1 47 0) = some (w2, { dva := 0, dpa := w2, w := true }) ∧
     d.canon (w2) = w2 ∧ isLocal (w2) = true ∧ p.waitRid = 0 ∧ ((d.meet {} (some (qOwner q0))).drainQueue {} p.q).writesPend (fun r o => r == p.q && o < p.ord) = false ∧
     ({ d with lnk := { rids := [{ op := 2, q := q0, tag := 3, ord := 0, use := .dmaWrite 0 0 0 }] } } : Dev).writesPend (fun r o => r == p.q && o < p.ord) = true) ∧
    dpaSpace w2 ≤ 2 ∧
    (let d := fly up [waiting 1]
     let r := (d.meet {} (some (qOwner q0))).readBytes { (waiting 1).acc {} with imm := false } (w2) 8
     runs d q0 5 0x03 (waiting 1) = true ∧ isExc r.st = false ∧ r.d.disp = d.disp ∧ waitMet 1 0 0 = true ∧ waitMet 2 0 0 = false ∧ (waiting 1).deadline = some 0 ∧
     (waiting 1).waitRid ≠ 0) := by decide

theorem test_hyp_InvalidateDropsTranslations :
    (let p := pk 0x05 [0, 0, 0x10000]
     runs (fly up [p]) q0 5 0x05 p = true ∧ p.deadline = none ∧ ∀ y ∈ (fly up [p]).disp.pkts, y.ord ≠ p.ord → y.owner ≠ 8) := by decide

/-- A module whose partition 2 holds this set. -/
def parted (x : Part) : Dev := { up with parts := [(2, x)] }

set_option maxRecDepth 20000 in
theorem test_hyp_Partitions :
    (let p := pk 0x60 [2 + 2 ^ 8, 1, 0, 0]
     runs (fly up [p]) q0 5 0x60 p = true ∧ (fly up [p]).partBusy p (p.f 1 2 0) = false ∧ (fly (parted { st := 2 }) [p]).partBusy p (p.f 1 2 0) = true ∧ (up.part 2).st = 0#2 ∧ up.setFree 2 p.partSet = true ∧ up.setPresent p.partSet = true ∧ p.partSet.groups ≠ 0) ∧
    ((parted { st := 1 }).part 2).st = 1#2 ∧
    (let p := pk 0x61 [2 + 2 ^ 8, 3, 0, 0]
     let d := fly (parted { st := 1, groups := 1 }) [p]
     runs d q0 5 0x61 p = true ∧ p.waitRid = 0 ∧ d.partBusy p (p.f 1 2 0) = false ∧ (d.part 2).st = 1#2 ∧ p.partSet.groups ≠ 0 ∧ d.setPresent (p.partSet.minus (d.part 2).held) = true ∧ d.setFree 2 (p.partSet.minus (d.part 2).held) = true ∧
     ∀ y ∈ d.disp.pkts, y.owner ≠ 2) ∧
    (let d := fly (parted { st := 1, groups := 1 }) [pk 0x62 [2]]
     runs d q0 5 0x62 (pk 0x62 [2]) = true ∧ d.partBusy (pk 0x62 [2]) 2 = false ∧ d.abortOf q0 5 = none ∧ d.disp.aborts = [] ∧ ∀ y ∈ d.disp.pkts, y.owner ≠ 2) := by decide

theorem test_hyp_VopAndEscapementPackets :
    (let p := pk 0x80 [5 + 2 * 2 ^ 8]
     runs (fly up [p]) q0 5 0x80 p = true ∧ p.waitRid = 0 ∧
     (let j : VopJob := { site := 5, begun := true, cmd := some (q0, 5) }
      let d : Dev := { fly up [p] with pwr := { vopQ := [j] } }
      runs d q0 5 0x80 p = true ∧ d.pwr.vopQ = [j])) ∧
    runs (fly up [pk 0x81 [0x1F05]]) q0 5 0x81 (pk 0x81 [0x1F05]) = true := by decide

/-! Queues and the Dispatcher. -/

/-- Management queue 0 with rings of 16 entries in the interleaved pool. -/
def queue : Queue := { enable := true, st := 1, sqBase := BitVec.ofNat 56 (mkDpa 0 0), cqBase := BitVec.ofNat 56 (mkDpa 0 0x1000) }

/-- A module with queue M0. -/
def qd (x : Queue) : Dev := { up with queues := [(512, x)] }

theorem test_hyp_QueueControl :
    (qd queue).hostOk .pf = true ∧ (qd queue).mayQueue .pf q0 = true ∧ (0#32).getLsbD 31 = false ∧ ((qd queue).queue q0).enable = true ∧
    (let x : Queue := { queue with enable := false, st := 0 }
     ((qd x).queue q0).enable = false ∧ (qd x).enableCause q0 ((qd x).queue q0) = 0) ∧
    (let x : Queue := { queue with enable := false, sqBase := 1 }
     (qd x).enableCause q0 ((qd x).queue q0) ≠ 0) ∧
    (32#32).toNat / 2 % 128 ≤ 16 ∧ 16 < (34#32).toNat / 2 % 128 := by decide

theorem test_hyp_Doorbells :
    (qd queue).hostOk .pf = true ∧ doorbellQueue .pf 0 = some q0 ∧ (qd queue).queueExists q0 = true ∧ ((qd {}).queue q0).enable = false ∧
    (15#32).toNat % 65536 < ((qd queue).queue q0).cqSize ∧ (15#32).toNat % 65536 < ((qd queue).queue q0).sqSize ∧ (qd queue).aborting q0 = false ∧
    ({ qd queue with disp := { aborts := [{ target := [q0] }] } } : Dev).aborting q0 = true := by decide

/-- Queue M0 with one packet of these words in its ring. -/
def ring (w : List Nat) : Dev :=
  let d := qd { queue with sqTail := 1 }
  { d with mem := (d.mem.fill (mkDpa 0 0) (mkDpa 0 0x2000) .zero).putList (mkDpa 0 0) (w.flatMap (leBytes 8)) }

set_option maxRecDepth 20000 in
theorem test_hyp_PacketsTakenAndStarted :
    (let d := ring [0x10000500AA, 0, 0, 0, 0, 0, 0, 0]
     let h := header 0x10000500AA
     let r := (d.applyEnv {}).readPacket {} q0 0 0
     d.supAlive = true ∧ (d.applyEnv {}).selectQueue = some (q0, h) ∧ isExc r.2.2 = false ∧ isExc ((r.1.takeTurn q0 h).headerStatus q0 h) = true ∧
     isExc ((d.applyEnv {}).readPacket { ondie := [(mkDpa 0 0, true)] } q0 0 0).2.2 = true) ∧
    (let p : Pkt := { pk 0x00 [] with phase := .taken }
     let d := fly up [p]
     d.supAlive = true ∧ d.pkt? q0 5 = some p ∧ p.phase = .taken ∧ d.heldBack p = false ∧ p.depMet = true ∧ isExc p.depSt = false ∧ p.opc = 0x00#8 ∧ d.haltedFor p = false ∧
     d.pktCores p = [] ∧ p.coreMask = none ∧ (behind p).heldBack { p with ord := 2 } = true) ∧
    (let p : Pkt := { pk 0x00 [] with phase := .taken, depSt := sUe }
     isExc p.depSt = true ∧ bit p.flg.toNat 3 = false ∧ (fly up [p]).heldBack p = false) := by decide

theorem test_hyp_PacketCompletes :
    (let p : Pkt := { pk 0x00 [] with phase := .done }
     let d := fly (qd queue) [p]
     d.supAlive = true ∧ d.pkt? q0 5 = some p ∧ p.phase = .done ∧ p.trig = [] ∧ p.hit = false ∧ (d.queue q0).cqFree ≠ 0 ∧ bit p.flg.toNat 0 = false ∧
     ((d.applyEnv {}).settle {} p).pkt? q0 5 = some p) ∧
    (let p : Pkt := { pk 0x40 [] with phase := .done, flg := 1 }
     let d : Dev := { fly (qd queue) [p] with lnk := { rids := [{ op := 2, q := q0, tag := 5, ord := 1, use := .dmaWrite 0 0 0 }] } }
     d.pkt? q0 5 = some p ∧ bit p.flg.toNat 0 = true ∧ d.sentWrites p.ord = true) := by decide

theorem test_hyp_QueueEvents :
    (let d := qd { queue with oldest := some 0, irqEn := true, irqVec := 16, irqTime := 1, unsig := 1 }
     d.supAlive = true ∧ (d.queue q0).oldest = some 0 ∧ (d.queue q0).irqEn = true ∧ (d.queue q0).irqVec ≠ 0#7 ∧ (d.queue q0).irqTime ≠ 0#16 ∧ (d.queue q0).unsig ≠ 0 ∧
     (d.queue q0).enable = true) := by decide

/-- Queue M0 with this ABORT. -/
def aborts (j : AbortJob) : Dev := { qd { queue with st := 2 } with disp := { aborts := [j] } }

theorem test_hyp_AbortSteps :
    (let j : AbortJob := { q := some q0, tag := 5, target := [q0] }
     (aborts j).supAlive = true ∧ (aborts j).abortOf q0 5 = some j ∧ j.acted = false) ∧
    (let j : AbortJob := { q := some q0, tag := 0, reg := true, target := [q0], acted := true }
     (aborts j).abortOf q0 0 = some j ∧ j.kind ≠ .destroy ∧ j.acted = true ∧ j.stuck = [] ∧ j.reg = true ∧ (∀ y ∈ (aborts j).disp.pkts, y.q ≠ q0) ∧ ((aborts j).queue q0).heldTail = none) ∧
    (let j : AbortJob := { q := some q0, tag := 6, target := [q0], acted := true, stuck := [1] }
     let d : Dev := { aborts j with disp := { aborts := [j], pkts := [pk 0x10 []] } }
     d.abortOf q0 6 = some j ∧ j.acted = true ∧ d.disp.pkts = [pk 0x10 []] ∧ j.stuck = [(pk 0x10 []).ord] ∧ (pk 0x10 []).on = [] ∧ (pk 0x10 []).core = none ∧
     d.slotFor q0 5 = none ∧ d.lnk.rids = []) := by decide

theorem test_hyp_RegisterAbort :
    (qd queue).hostOk .pf = true ∧ (qd queue).mayQueue .pf q0 = true ∧ (⟨0x80000001, {}⟩ : QWrite).v.getLsbD 0 = true ∧ (⟨0x80000001, {}⟩ : QWrite).v.getLsbD 31 = true ∧
    ((qd queue).queue q0).enable = true ∧ ((qd queue).queue q0).st = 1#2 ∧ ((qd queue).queue q0).sqHead = ((qd queue).queue q0).sqTail ∧ (qd queue).disp.pkts = [] ∧
    (qd queue).abortOf q0 0#16 = none := by decide

/-! Tensors and attention. -/

/-- A module under HALT of the facility, with this packet. -/
def halted (p : Pkt) : Dev := { fly up [p] with pwr := { shed := 2 } }

/-- A packet whose CORE_MASK, in each place where an opcode has one, names group 0 of site 0, and which runs on core 0 of it. -/
def tensor (c : BitVec 8) : Pkt := { pk c [0, 1, 1, 0, 1, 0, 0] with on := [0] }

theorem test_hyp_TensorCommands :
    ([(0x10#8, 0x10), (0x11#8, 0x11), (0x12#8, 0x12), (0x13#8, 0x13), (0x14#8, 0x14), (0x15#8, 0x15)].all (fun x =>
      runs (fly up [tensor x.1]) q0 5 x.2 (tensor x.1) && !((fly up [tensor x.1]).meet {} (some (qOwner q0))).unitsHeld (tensor x.1)
        && runs (halted (tensor x.1)) q0 5 x.2 (tensor x.1) && ((halted (tensor x.1)).meet {} (some (qOwner q0))).unitsHeld (tensor x.1))) = true ∧
    up.supAlive = true ∧ up.halt 5 = false ∧ (halted (tensor 0)).halt 5 = true ∧
    ({ up with sb := [(coreKey 5 63, [{}])] } : Dev).sbOf (coreKey 5 63) = {} :: [] := by decide

/-- VERIFY with one tree record at offset 0 of its tree, a stream at 4 KiB and a limit of one child. -/
def verify : Pkt := pk 0x22 [0, 0, 0, 0, 0, 0x101, 0]

/-- A module whose first GiB of the interleaved pool reads zero but for these bytes. -/
def filled (o : Nat) (b : List Byte) : Dev := { up with mem := (up.mem.fill (mkDpa 0 0) (mkDpa 0 (2 ^ 30)) .zero).putList (mkDpa 0 o) b }

/-- VERIFY under way. -/
def under (ended : Bool) : Dev := { fly up [verify] with disp := { pkts := [verify], verifies := [{ tag := 5, ended := ended }] } }

set_option maxRecDepth 20000 in
theorem test_hyp_AttentionCommands :
    ([(0x20#8, 0x20), (0x21#8, 0x21)].all (fun x =>
      runs (fly up [pk x.1 []]) q0 5 x.2 (pk x.1 []) && !((fly up [pk x.1 []]).meet {} (some (qOwner q0))).unitsHeld (pk x.1 []))) = true ∧
    (let d := (fly (filled 0 [0, 0, 0, 0, 0xFF, 0xFF]) [verify]).meet {} (some (qOwner q0))
     let r := d.readP verify {} (verify.f 2 47 0) (16 * verify.f 6 6 0)
     runs (fly (filled 0 [0, 0, 0, 0, 0xFF, 0xFF]) [verify]) q0 5 0x22 verify = true ∧ d.unitsHeld verify = false ∧ d.verify? verify = none ∧ isExc r.st = false ∧
     treeShape (treeOf r.bytes) (verify.f 6 12 8) = true ∧ verify.f 6 17 16 = 0) ∧
    (let d := (fly (filled 0 []) [verify]).meet {} (some (qOwner q0))
     let r := d.readP verify {} (verify.f 2 47 0) (16 * verify.f 6 6 0)
     isExc r.st = false ∧ treeShape (treeOf r.bytes) (verify.f 6 12 8) = false) ∧
    (runs (under true) q0 5 0x22 verify = true ∧ ((under true).meet {} (some 8)).verify? verify = some { tag := 5, ended := true } ∧
     ((under true).meet {} (some 8)).unitsHeld verify = false) ∧
    ((under false).meet {} (some 8)).verify? verify = some { tag := 5 } := by decide

/-! KV pages and the Arbor. -/

/-- Pool 1 of the KPM of site 0, with these pages in use: descriptors at 1 MiB, nodes at 2 MiB, pages at 256 MiB. -/
def pool (alloc : List (Nat × Nat)) : Pool :=
  { enable := true, ready := true, blocks := 4, owner := 8, base := BitVec.ofNat 56 (mkDpa 0 0x10000000), desc := BitVec.ofNat 56 (mkDpa 0 0x100000)
    arb := BitVec.ofNat 56 (mkDpa 0 0x200000), live := 1, alloc := alloc }

/-- A module with that pool, whose descriptor slot 0 holds this descriptor, and with this packet. -/
def kv (x : PDesc) (p : Pkt) : Dev :=
  let d := fly (filled 0x100000 x.bytes) [p]
  { d with kpm := { pools := [(poolKey 0 1, pool [(0, 1)])] } }

/-- A KV packet on descriptor slot 0. -/
def kvp (c : BitVec 8) (w : List (BitVec 64)) : Pkt := pk c (0x100000 :: w)

/-- A page of the management domain. -/
def page : PDesc := { base := mkDpa 0 0x10000000, log2 := 8, ref := 1, stream := 0x1FFF, pool := 1 }

/-- The clauses of `Names`, decided. -/
def names (d : Dev) (p : Pkt) (e : Env) (k : Nat) (x : PDesc) : Bool :=
  decide (d.poolAt (d.canon p.descA) = some k) && d.poolOk k && !isExc (d.readDesc (d.kacc p e) (d.canon p.descA)).2.1
    && decide ((d.readDesc (d.kacc p e) (d.canon p.descA)).2.2 = x)

theorem names_of {d : Dev} {p : Pkt} {e : Env} {k : Nat} {x : PDesc} (h : names d p e k x = true) : Names d p e k x := by
  simp only [names, Bool.and_eq_true, decide_eq_true_eq, Bool.not_eq_true'] at h
  exact ⟨h.1.1.1, h.1.1.2, h.1.2, h.2⟩

/-- The module that a packet on `page` meets, and the page it names. -/
def meets (x : PDesc) (p : Pkt) (c : Nat) : Bool := runs (kv x p) q0 5 c p && names ((kv x p).meet {} (some (qOwner q0))) p {} (poolKey 0 1) x && p.q == q0

/-- A page of partition 3, and a packet of partition 2 on it. -/
def foreign (c : BitVec 8) : Pkt := { kvp c [0, 1 + 6 * 2 ^ 16] with q := .part 2 0 }

set_option maxRecDepth 20000 in
theorem test_hyp_KvPages :
    (let p := pk 0x30 [2 ^ 8 + 2 ^ 16]
     let d := (kv page p).meet {} (some (qOwner q0))
     let po := d.pool (poolKey 0 1)
     runs (kv page p) q0 5 0x30 p = true ∧ p.f 1 2 0 = 0 ∧ p.f 1 13 8 = 1 ∧ d.poolOk (poolKey 0 1) = true ∧ p.f 1 23 16 = 1 ∧ po.kind = false ∧ p.f 1 27 24 = 0 ∧ p.owner = 8 ∧
     (allocMany (poolKey 0 1) (po.unitsOf (p.f 1 27 24 + 4)) 3 d []).isSome = true ∧ allocMany (poolKey 0 1) (po.unitsOf (p.f 1 27 24 + 4)) 64 d [] = none) ∧
    meets {} (kvp 0x32 []) 0x32 = true ∧
    ([(0x31#8, 0x31), (0x32#8, 0x32), (0x33#8, 0x33), (0x34#8, 0x34)].all (fun x =>
      runs (kv { page with part := 3 } (foreign x.1)) (.part 2 0) 5 x.2 (foreign x.1)
        && names ((kv { page with part := 3 } (foreign x.1)).meet {} (some 2)) (foreign x.1) {} (poolKey 0 1) { page with part := 3 }
        && !((kv { page with part := 3 } (foreign x.1)).meet {} (some 2)).ownsPage (.part 2 0) { page with part := 3 })) = true ∧
    (meets page (kvp 0x32 []) 0x32 = true ∧ (kv page (kvp 0x32 [])).ownsPage q0 page = true ∧ page.shared = false ∧ page.pinned = false ∧ (kvp 0x32 []).status = sOk) ∧
    meets { page with ref := 2, shared := true } (kvp 0x32 []) 0x32 = true ∧ meets { page with tlen := 127 } (kvp 0x34 []) 0x34 = true ∧
    (meets { page with tlen := 127 } (kvp 0x33 []) 0x33 = true ∧ (kvp 0x33 []).f 3 6 0 = 0) ∧
    (let p := kvp 0x31 [0, 1 + 6 * 2 ^ 16]
     meets { page with len := 256 } p 0x31 = true ∧ p.f 3 15 0 = 1 ∧ p.f 3 19 16 = 6 ∧ 2 ^ page.log2 < 256 + page.tlen + 1 ∧
     meets { page with len := 255 } p 0x31 = true ∧ bit (p.word 3) 20 = false ∧ 255 + 1 ≤ 2 ^ page.log2) := by decide

set_option maxRecDepth 20000 in
theorem test_hyp_KvPages_dpa :
    (let p := kvp 0x33 []
     let d := (kv { page with tlen := 127 } p).meet {} (some (qOwner q0))
     (d.readDesc (d.kacc p {}) (d.canon p.descA)).1.dpaOk p.owner page.base ((d.pool (poolKey 0 1)).pageBytes page.log2) = true) ∧
    (let p := pk 0x30 [2 ^ 8 + 2 ^ 16]
     let d := (kv page p).meet {} (some (qOwner q0))
     let po := d.pool (poolKey 0 1)
     (allocMany (poolKey 0 1) (po.unitsOf (p.f 1 27 24 + 4)) (p.f 1 23 16) d []).any (fun r => r.2 == [1] &&
       r.2.all (fun i => d.dpaOk p.owner (d.descOf (poolKey 0 1) i) 32 && d.dpaOk p.owner (d.canon po.base.toNat + i * po.unitBytes) (po.pageBytes 8))) = true) := by decide

set_option maxRecDepth 20000 in
theorem test_hyp_ArborAndHolds_granule :
    (let p := pk 0x36 [0x2000, 1, 0x1000]
     let d := (kv page p).meet {} (some (qOwner q0))
     d.arborGranule p {} = none ∧ d.slotFor q0 p.tag = none) ∧
    (let p := pk 0x36 [0x2000, 0, 0x1000]
     let m := kv page p
     let d := { m with mem := m.mem.putList (mkDpa 0 0x1000) (leBytes 8 (mkDpa 0 0x100000)) }.meet {} (some (qOwner q0))
     (d.arborGranule p {}).map (·.1) = some (poolKey 0 1) ∧ d.idleSlot 0 = some 0 ∧ d.kslot 0 = {} ∧ p.f 2 31 0 = 0 ∧ p.status = sOk ∧ d.kpm.held = [] ∧
     ({ d with kpm := { d.kpm with slots := (List.range 8).map (fun k => (k, { st := 1 })) } } : Dev).idleSlot 0 = none) ∧
    (let p := kvp 0x37 []
     let d := (kv page p).meet {} (some (qOwner q0))
     d.slotFor q0 p.tag = none ∧ d.kpm.held = [] ∧ d.kpm.slots = [] ∧ d.idleSlot 0 = some 0 ∧ d.kslot 0 = {} ∧ d.dpaOk p.owner (mkDpa 0 0x200000) 32 = true ∧
     dpaSpace (mkDpa 0 0x200000) ≠ 15) ∧
    (let d : Dev := { up with kpm := { slots := [(40, { st := 3, excl := some (coreDpa 3 4 63 0) })], held := [{ addr := coreDpa 3 4 63 0, bytes := List.replicate 32 7 }] } }
     d.supAlive = true ∧ 40 = 8 * 5 + 0 ∧ (d.kslot 40).excl = some (coreDpa 3 4 63 0) ∧ d.mem.wf = true ∧ coreDpa 3 4 63 0 % 32 = 0 ∧
     d.locate (coreDpa 3 4 63 0) = .sram 4 63 0) := by decide

theorem test_hyp_ArborAndHolds :
    (let p := pk 0x35 [0, 0, 0, 2 ^ 8]
     runs (kv page p) q0 5 0x35 p = true ∧ poolKey (p.f 4 2 0) (p.f 4 13 8) = poolKey 0 1 ∧ p.f 4 2 0 < 6 ∧ ((kv page p).meet {} (some 8)).poolOk (poolKey 0 1) = true ∧ p.owner = 8) ∧
    (let p := pk 0x36 [0, 0, 0]
     runs (kv page p) q0 5 0x36 p = true ∧ ({} : Contend).hold = false ∧ (kv page p).slotFor q0 p.tag = none ∧ p.f 2 31 0 = 0 ∧ p.status = sOk ∧ (kv page p).kpm.held = []) ∧
    (let p := kvp 0x37 []
     meets page p 0x37 = true ∧ page.node = 0 ∧ meets { page with pinned := true } p 0x37 = true ∧ (kv page p).slotFor q0 p.tag = none ∧ (kv page p).kpm.held = [] ∧
     meets { page with node := mkDpa 0 0x200000 } p 0x37 = true ∧
     (let d := (kv { page with node := mkDpa 0 0x200000 } p).meet {} (some 8)
      let r := (d.readDesc (d.kacc p {}) (d.canon p.descA)).1.readNode (d.kacc p {}) (mkDpa 0 0x200000)
      isExc r.2.1 = false ∧ r.2.2.children = 0 ∧ r.2.2.parent = 0 ∧ d.ownsPage q0 { page with node := mkDpa 0 0x200000 } = true) ∧
     (let d := { kv { page with node := mkDpa 0 0x200000 } p with mem := (kv { page with node := mkDpa 0 0x200000 } p).mem.putList (mkDpa 0 0x200000) ({ children := 1 } : ANode).bytes }
      let r := (d.readDesc (d.kacc p {}) (d.canon p.descA)).1.readNode (d.kacc p {}) (mkDpa 0 0x200000)
      isExc r.2.1 = false ∧ r.2.2.children ≠ 0)) ∧
    (let d := { up with kpm := { slots := [(47, { st := 1, q := .part 0 0, gran := some 256 }), (40, { st := 3, gran := some 512 })] } }
     d.supAlive = true ∧ (d.kslot 47).gran = some 256 ∧ (d.kslot 47).st = 1#2 ∧ qOwner (d.kslot 47).q < 8 ∧ (d.kslot 40).st = 3#2 ∧ d.kpm.held = []) := by decide

/-- A module with pool 1 of site 0 as given. -/
def pools (x : Pool) : Dev := { up with kpm := { pools := [(poolKey 0 1, x)] } }

theorem test_hyp_KpmRegisters :
    (let k := poolKey 0 1
     up.hostOk .pf = true ∧ up.dieOut 0 = false ∧ up.mayPool .pf k = true ∧ (up.pool k).enable = false ∧ ((pools (pool [])).pool k).enable = true ∧ ((pools (pool [])).pool k).ready = true ∧
     ((pools (pool [])).pool k).alloc = [] ∧ ((pools (pool [(0, 1)])).pool k).alloc ≠ [] ∧ ((pools { pool [] with ready := false }).pool k).ready = false ∧
     (pools (pool [])).mayPool (.vf 0) k = false ∧ (pools { pool [] with owner := 0 }).mayPool (.vf 0) k = true ∧ up.supAlive = true ∧ up.kpmOk 0 = true ∧
     (let v := 2 ^ 24 * 4 + 2 ^ 20 * 8 + 2 ^ 8
      bf v 12 8 = 1 ∧ bf v 28 24 = 4)) ∧
    ((4#32).getLsbD 0 = false ∧ (4#32).getLsbD 1 = false ∧ (7#32).getLsbD 0 = true ∧ (7#32).getLsbD 1 = true) ∧
    (fnOwner (.vf 0) = 0 ∧ up.hostOk (.vf 0) = true ∧
     (pools { pool [] with owner := 0 }).kpm.pools.any (fun y => y.2.enable && y.2.owner.toNat == 0 && y.2.live != 0) = true ∧
     up.kpm.pools.any (fun y => y.2.enable && y.2.owner.toNat == 0 && y.2.live != 0) = false) := by decide

/-! DMA. -/

/-- A RUN on channel 15 of complex 0, of partition 7, and one of the management domain. -/
def dma (w : Nat) : Pkt := pk 0x40 [0, BitVec.ofNat 64 w]

/-- A module with its twelve complexes present, these channels and these packets. -/
def dmas (c : Tbl DmaCh) (l : List Pkt) : Dev := { fly up l with dma := (List.range 12).map (fun n => (n, { present := true })), dmaCh := c }

/-- A job of management queue 0 in the middle of its data. -/
def job : DmaJob := { tag := 5, active := true, src := mkDpa 0 0, dst := mkDpa 0 0x10FFF, bytes := 64, desc := mkDpa 0 0x1000 }

/-- A descriptor of 64 bytes from 0 to 64 KiB, owned by the hardware. -/
def descBytes : List Byte := [mkDpa 0 0, mkDpa 0 0x10000, 64, 0, 0, 0, 0, 2 ^ 63].flatMap (leBytes 8)

theorem test_hyp_DmaChannels :
    (let p := dma (12 * 2 ^ 8)
     runs (dmas [] [p]) q0 5 0x40 p = true ∧ 12 ≤ p.f 2 11 8 ∧ (fly up [p]).cplxOk 11 = false) ∧
    (let p := { dma 15 with q := .part 6 0 }
     runs (dmas [] [p]) (.part 6 0) 5 0x40 p = true ∧ (dmas [] [p]).cplxOk (p.f 2 11 8) = true ∧ p.owner ≠ 8 ∧ p.f 2 3 0 / 2 ≠ p.owner) ∧
    (let p := dma (15 + 11 * 2 ^ 8)
     let d : Dev := { dmas [] [p] with sys := { up.sys with site := [(5, 2)] } }
     runs d q0 5 0x40 p = true ∧ p.f 2 11 8 < 12 ∧ d.cplxOk 11 = true ∧ p.owner = 8 ∧ (d.chan (chKey 11 15)).job = none ∧ (d.chan (chKey 11 15)).waiting = [] ∧
     runs (dmas [] [{ p with opc := 0x41 }]) q0 5 0x41 { p with opc := 0x41 } = true) ∧
    (let j : DmaJob := { job with active := false, desc := mkDpa 0 0x1001 }
     let d := dmas [(chKey 0 15, { job := some j })] [dma 0]
     (d.chan (chKey 0 15)).job = some j ∧ d.pkt? j.q j.tag = some (dma 0) ∧ (d.meet {} (some 8)).canon j.desc % 64 ≠ 0) ∧
    (let j : DmaJob := { job with active := false }
     let s : Dev := { dmas [(chKey 0 15, { job := some j })] [dma 0] with mem := (filled 0x1000 descBytes).mem }
     let d := s.meet {} (some (qOwner j.q))
     let r := d.readBytes (j.acc 0 {}) (d.canon j.desc) 64
     j.active = false ∧ j.aborting = false ∧ s.supAlive = true ∧ d.canon j.desc % 64 = 0 ∧ isLocal (d.canon j.desc) = true ∧ dpaSpace (d.canon j.desc) = 0 ∧ d.owns (qOwner j.q) (d.canon j.desc) 64 true = true ∧
     let w := fun i => fieldAt r.bytes (8 * i) 8
     isExc r.st = false ∧ w 7 = 2 ^ 63 ∧ bf (w 0) 63 56 = 0 ∧ bf (w 1) 63 56 = 0 ∧ bf (w 2) 63 37 = 0 ∧ bf (w 3) 63 56 = 0 ∧ bf (w 4) 63 32 = 0 ∧ w 6 = 0 ∧
     0 < bf (w 2) 31 0 ∧ bit (w 2) 36 = false ∧ dpaSpace (r.d.canon (bf (w 0) 55 0)) ≠ 15 ∧ dpaSpace (r.d.canon (bf (w 1) 55 0)) ≠ 15 ∧
     overlaps (r.d.canon (bf (w 0) 55 0)) (bf (w 2) 31 0) (r.d.canon (bf (w 1) 55 0)) (bf (w 2) 31 0) = false) ∧
    (let d := dmas [(chKey 0 15, { job := some job })] [dma 0]
     d.supAlive = true ∧ d.halt 0 = false ∧ (d.meet {} (some 8)).mayRead 0 15 = true ∧ (d.meet {} (some 8)).myTurn 0 15 = true ∧
     ({ d with pwr := { shed := 2 } } : Dev).halt 0 = true) ∧
    (let b : DmaBlk := { off := 0, want := 1, data := [7] }
     b.full = true ∧ isLocal (up.canon (job.dst + b.off)) = true ∧ dpaSpace (up.canon (job.dst + b.off)) ≠ 14) := by
  decide

/-- A job whose data are moved. -/
def moved : DmaJob := { job with rd := 64, wr := 64 }

/-- Its channel. -/
def movedCh (j : DmaJob) : Dev := dmas [(chKey 0 15, { job := some j })] [dma 0]

theorem test_hyp_DmaChannels_end :
    moved.blocks = [] ∧ moved.wr = moved.bytes ∧ moved.status = 0#16 ∧ moved.stop = false ∧ moved.fence = false ∧ moved.bad = none ∧ moved.crcGen = false ∧ moved.crcApp = false ∧
    moved.crcChk = false ∧ moved.fromSrc = false ∧ moved.corr = false ∧ moved.corrAny = false ∧ moved.moved = 0 ∧ moved.active = true ∧ moved.chain = false ∧
    ((movedCh moved).chan (chKey 0 15)).waiting = [] ∧ (movedCh moved).pkt? moved.q moved.tag = some (dma 0) ∧ (dma 0).status = sOk ∧ (dma 0).opc = 0x40#8 := by decide

theorem test_hyp_DmaChannels_fence :
    (let j : DmaJob := { moved with tail := true, fence := true, outst := 1 }
     j.active = true ∧ j.moving = false ∧ j.tail = true ∧ j.fence = true ∧ (movedCh j).jobPerformed j = false ∧ ((movedCh j).chan (chKey 0 15)).job = some j) := by decide

/-! Links and messages between modules. -/

/-- A module with link 71 as given, of a variant that has it. -/
def linked (x : Link) : Dev := { up with fuse := { variant := .v33 }, lnk := { up.lnk with links := [(71, x)] } }

/-- A flit of 128 bytes with sequence number 0 that carries nothing and whose check holds. -/
def flit : List Byte := let b := List.replicate 124 (0 : Byte); b ++ leBytes 4 (crc32 b)

set_option maxRecDepth 20000 in
theorem test_hyp_LinkUpkeep :
    (let d : Dev := { linked {} with sys := { up.sys with phase := 4, site := [(3, 2), (5, 2)] } }
     (d.link 71).st = 0#3 ∧ d.sys.phase = 4#4 ∧ d.linkExposed 71 = true ∧ d.iodActive (linkSite 71) = true) ∧ ((linked {}).link 71).st = 0#3 ∧ (linked {}).sys.phase ≠ 4#4 ∧
    up.supAlive = true ∧ ((linked { st := 1 }).link 71).st = 1#3 ∧ ((linked { st := 3 }).link 71).st = 3#3 ∧ ((linked { st := 2 }).link 71).st ≠ 1#3 ∧
    ((linked { st := 2 }).link 71).st = 2#3 ∧ ((linked { st := 2, replay := [{}] }).link 71).replay ≠ [] ∧ ((linked {}).link 71).replay = [] ∧ ((linked { st := 4 }).link 71).st = 4#3 ∧
    ({ uncorr := true } : FecEnv).uncorr = true ∧ ([] : List Byte).length ≠ 128 ∧
    flit.length = 128 ∧ fieldAt flit 124 4 = crc32 (flit.take 124) ∧ bit (fieldAt flit 2 2) 15 = false ∧ fieldAt flit 0 2 % 1024 = ((linked { st := 2 }).link 71).rxSeq.toNat := by
  decide

/-- A packet whose translation maps 64 KiB at 0 to node 3, and the first 64 KiB of the interleaved pool above it. -/
def remote (c : BitVec 8) (w : List (BitVec 64)) : Pkt :=
  { pk c w with leaves := [{ dva := 0, dpa := 3 * 2 ^ 48, w := true }, { dva := 0x10000, dpa := mkDpa 0 0, w := true }] }

/-- A module with this packet, whose session is quiet. -/
def quiet (p : Pkt) : Dev := let d := fly up [p]; { d with lnk := { d.lnk with quiet := true } }

set_option maxRecDepth 20000 in
theorem test_hyp_LinkPackets :
    (let p := pk 0x52 [255, 1, 0, 0, 0]
     runs (fly up [p]) q0 5 0x52 p = true ∧ up.maskExposed (p.word 2 + 2 ^ 64 * p.f 3 7 0) = true ∧ up.maskExposed (p.word 4 + 2 ^ 64 * p.f 5 7 0) = true ∧ p.status = sOk ∧ p.q = q0 ∧
     p.tag = 5) ∧
    (let p := pk 0x52 [255, 0, 0x80, 0, 0]
     runs (fly up [p]) q0 5 0x52 p = true ∧ up.maskExposed (p.word 2 + 2 ^ 64 * p.f 3 7 0) = false) ∧
    (let p := pks 0x51 [0, 1, 0, 0]
     runs (fly up [p]) q0 5 0x51 p = true ∧ leafDpa p.leaves (p.f 1 47 0) = some (w2, { dva := 0, dpa := w2, w := true }) ∧ p.waitRid = 0 ∧ dpaSpace (up.canon w2) ≤ 2 ∧
     ((fly up [p]).meet {} (some 8)).drainQueue {} q0 = (fly up [p]).meet {} (some 8) ∧ (fly up [p]).writesPend (fun r o => r == q0 && o < p.ord) = false ∧
     isLocal (up.canon w2) = true ∧ ∀ y ∈ (fly up [p]).disp.pkts, y.opc ≠ 0x03#8) ∧
    (let p := remote 0x51 [0, 1, 0, 0]
     let d := (quiet p).meet {} (some 8)
     runs (quiet p) q0 5 0x51 p = true ∧ (leafDpa p.leaves (p.f 1 47 0)).map (·.1) = some (3 * 2 ^ 48) ∧ isLocal (d.canon (3 * 2 ^ 48)) = false ∧ dpaSpace (d.canon (3 * 2 ^ 48)) = 0 ∧
     d.sys.node ≠ 0xFF#8 ∧ d.lnk.quiet = true ∧ (d.drainQueue {} q0).lnk.quiet = true ∧
     (d.drainQueue {} q0).writesPend (fun r o => r == q0 && o < p.ord) = false ∧
     ({ d with lnk := { d.lnk with rids := [{ op := 2, q := q0, tag := 3, ord := 0, use := .dmaWrite 0 0 0 }] } } : Dev).writesPend (fun r o => r == q0 && o < p.ord) = true) ∧
    (let p := remote 0x50 [0x10000, 0, 4097, 0]
     let d := (quiet p).meet {} (some 8)
     runs (quiet p) q0 5 0x50 p = true ∧ d.sendJob? q0 5 = none ∧ p.f 4 47 0 = 0 ∧ (∀ g ∈ d.segments p, d.remoteStatus g.1 = sOk) ∧ d.segments p = [(3 * 2 ^ 48, 4096), (3 * 2 ^ 48 + 4096, 1)]) ∧
    isExc (((quiet (remote 0x50 [0x10000, 0, 1, 0])).meet {} (some 8)).readP (remote 0x50 [0x10000, 0, 1, 0]) {} 0x10000 1).st = false ∧
    (let p := remote 0x50 [0, 0x10000, 1, 0]
     let d := (fly up [p]).meet {} (some 8)
     runs (fly up [p]) q0 5 0x50 p = true ∧ d.segments p = [(mkDpa 0 0, 1)] ∧ isLocal (mkDpa 0 0) = true) := by decide

/-- A module of node 7, with this message held under number 2 and import entry 63 for the management domain. -/
def holds (m : Msg) : Dev :=
  { up with lnk := { up.lnk with held := [{ id := 2, msg := m }], imp := [(63, BitVec.ofNat 32 (1 + 2 * 8 + 2 ^ 5 * 8 + 2 ^ 16 * 3))] } }

/-- A write of one byte from node 3 to the first word of the slice of core (4, 63). -/
def request : Msg := { op := 2, dst := 7, src := 3, owner := 8, len := 1, addr := w2, data := [9] }

/-- An atomic of management queue 0 that waits for its response under number 6. -/
def rid : Rid := { rid := 6, op := 3, tag := 5, use := .atomic }

theorem test_hyp_HeldMessages :
    (let d := holds request
     d.supAlive = true ∧ d.heldMsg 2 = some { id := 2, msg := request } ∧ request.dst = d.sys.node.toNat ∧ d.sys.ready = true ∧ ((d.applyEnv {}).meetSession request).accepts request = some 8 ∧
     d.msgTurn { id := 2, msg := request } = true ∧
     ({ d with lnk := { d.lnk with held := [{ id := 1, msg := request }, { id := 2, msg := request }] } } : Dev).msgTurn { id := 2, msg := request } = false ∧ request.tracked = false ∧ ((d.applyEnv {}).meetSession { request with owner := 1 }).accepts { request with owner := 1 } = none ∧
     ({ d with sys := { d.sys with ready := false } } : Dev).sys.ready = false) ∧
    (let m : Msg := { op := 5, dst := 7, src := 3, rid := 6 }
     let p := pks 0x51 [0, 1, 0, 0]
     let d := fly { holds m with lnk := { (holds m).lnk with rids := [rid] } } [p]
     m.op = 5 ∧ m.dst = d.sys.node.toNat ∧ d.lnk.rids.find? (fun y => y.rid.toNat == m.rid && y.sent) = some rid ∧ m.status = 0 ∧ d.pkt? rid.q rid.tag = some p ∧ p.phase = .started ∧
     p.opc = 0x51#8 ∧ p.status = sOk ∧ (∀ y ∈ d.lnk.rids, y.sent = true) ∧ d.lnk.rids.find? (fun y => y.rid == 6 && y.sent) = some rid ∧
     (holds m).lnk.rids.find? (fun y => y.rid.toNat == m.rid && y.sent) = none ∧ (holds m).lnk.gone.find? (fun g => g.rid.toNat == m.rid) = none) := by decide

/-! Thermal supervision, observation and the field lock. -/

theorem test_hyp_ThermalSupervision :
    (on {}).dev.time.running = false ∧ up.supAlive = true ∧ up.time.running = true ∧ (stopAt 3 ≤ 480 ∧ 415 < exitAt 3) ∧
    (let d : Dev := { up with thm := { dom := [(5, { stopping := true })] } }
     (d.dom 5).stopping = true ∧ (d.dom 5).srec.written = false ∧ (up.dom 5).stopping = false) ∧
    (up.hostOk .pf = true ∧ up.mayRequest (fnOwner .pf) 5 = true ∧ up.dieOut 5 = false ∧ up.hostOk (.vf 0) = true ∧ up.mayRequest (fnOwner (.vf 0)) 5 = false) := by decide

/-- A packet whose effect is done and that triggered slot 31. -/
def trig : Pkt := { pk 0x10 [] with phase := .done, trig := [31] }

theorem test_hyp_Observability :
    (up.hostOk .pf = true ∧ up.cntKey .pf = some 65536) ∧
    (let p := pk 0x70 [31]
     runs (fly up [p]) q0 5 0x70 p = true ∧ (∀ y ∈ (fly up [p]).disp.pkts, y.trig = []) ∧ p.f 1 9 8 = 0 ∧ p.status = sOk ∧ (pk 0x70 [0x200]).f 1 9 8 ≠ 1 ∧ (pk 0x70 [0x200]).f 1 9 8 ≠ 0) ∧
    (let d := (fly up [trig]).meet {} (some 8)
     (fly up [trig]).pkt? q0 5 = some trig ∧ trig.trig.contains 31 = true ∧ d.digestReady trig = true ∧ isExc trig.status = false ∧
     ((d.drainPkt {} trig).awaitHeld {} (fun h => h.ord == some trig.ord)).pkt? q0 5 = some trig ∧
     ({ trig with phase := .started }).trig.contains 31 = true ∧ d.digestReady { trig with phase := .started } = false) ∧
    ({ up with lpe := [(32 * 8 + 31, { bound := true })] } : Dev).watch 8 31 = { bound := true } ∧
    runs (fly up [pk 0x71 [4]]) q0 5 0x71 (pk 0x71 [4]) = true ∧ runs (fly up [pk 0x72 []]) q0 5 0x72 (pk 0x72 []) = true ∧
    (let d : Dev := { up with snp := [(fnKey .pf, { busy := true })] }
     (d.snpFn (fnKey .pf)).busy = true ∧ (d.snpFn (fnKey .pf)).cmd = none) ∧
    (up.snpFn (fnKey .pf)).busy = false ∧ up.snpDestOk (fnOwner .pf) (up.canon (up.snpFn (fnKey .pf)).dest.toNat) = false ∧
    (let d : Dev := { up with snp := [(fnKey .pf, { dest := BitVec.ofNat 56 (mkDpa 12 0) })] }
     d.snpDestOk (fnOwner .pf) (d.canon (d.snpFn (fnKey .pf)).dest.toNat) = true) := by decide

/-- A module with its lock as given. -/
def locked (x : Lck) : Dev := { up with lck := x }

theorem test_hyp_FieldLock :
    up.hostOk .pf = true ∧ (locked { ir := 0x10 }).supAlive = true ∧ (locked { ir := 0x10 }).lck.ir = 0x10#8 ∧
    (locked { busy := some 1 }).lck.busy.isSome = true ∧ (on {}).dev.sys.fuseLoaded = false ∧ (locked { lockout := true }).lck.lockout = true ∧
    up.lck.busy = none ∧ up.sys.fuseLoaded = true ∧ up.lck.lockout = false ∧ (locked { level := 1 }).fuse.pwBanks.length < 8 ∧ (locked { level := 1 }).lck.level ≠ 0#2 ∧
    (locked { busy := some 3 }).lck.busy = some 3 ∧ (locked { busy := some 3, outcome := sLocked }).lck.outcome ≠ sOk ∧ (locked { chal := some [] }).lck.chal.isSome = true ∧
    (locked { tapBusy := true, tapCount := 32 }).lck.tapBusy = true ∧ (({ tap := .idle, ir := 0x34, tms := 1 } : Lck).tms.getLsbD 0 = true ∧ ({ tap := .idle, ir := 0x34, tms := 1 } : Lck).tms.getLsbD 2 = false) ∧
    (tapInstr (0xFF#8).toNat = none ∧ tapInstr (0x20#8).toNat = some (1, false) ∧ up.lck.level.toNat < 1 ∧ 1 ≤ (locked { level := 1 }).lck.level.toNat) ∧
    (tapInstr (0x00#8).toNat = some (2, true) ∧ 2 ≤ (locked { level := 2 }).lck.level.toNat ∧ (locked { level := 2 }).quietDevice = true) := by decide

/-! Registers and the machine as a whole. -/

theorem test_hyp_RegisterAccess :
    up.hostOk .pf = true ∧ up.hostOk (.vf 1) = true ∧ (0x28 % 8 = 0 ∧ 0x2C % 8 = 4) ∧ fnMap .pf (2 ^ 26) = none ∧ fnMap .pf (2 ^ 26 - 8) = some (2 ^ 26 - 8) ∧
    fnMap (.vf 1) 0xD0000 = some 0x500000 ∧ up.regVisible (fnOwner (.vf 1)) 0x500000 = true ∧ fnMap (.vf 1) 0x20000 = some 0x20000 ∧ up.regVisible (fnOwner (.vf 1)) 0x20000 = false := by decide

theorem test_hyp_Bar4Size :
    up.supAlive = true ∧ up.pcieUp = true ∧ up.fuseEnded = true ∧ tget up.pcie.mse (fnKey .pf) false = true ∧ tget up.pcie.mse (fnKey (.vf 7)) false = false ∧
    (30 ≤ 39 ∧ 39 ≤ 39) := by decide

/-- A module whose node ID has not been set. -/
def nodeless : Dev := { up with sys := { up.sys with node := 0xFF } }

theorem test_hyp_NodeId :
    up.hostOk .pf = true ∧ up.livePart = [] ∧ (parted { st := 1 }).livePart ≠ [] ∧ (8#32).setWidth 8 ≠ (parted { st := 1 }).sys.node ∧ (7#32).setWidth 8 = (parted { st := 1 }).sys.node ∧
    nodeless.sys.node = 0xFF#8 ∧ isLocal (nodeless.canon (2 ^ 44 * 3)) = false ∧ nodeless.canon (2 ^ 44 * 3) % 32 + 32 ≤ 32 ∧ dpaSpace (nodeless.canon (2 ^ 44 * 3)) ≤ 3 ∧
    isLocal (nodeless.canon (2 ^ 44 * 4)) = false ∧ 3 < dpaSpace (nodeless.canon (2 ^ 44 * 4)) := by decide

theorem test_hyp_CounterClear :
    up.hostOk .pf = true ∧ (up.cntFn .pf).bank.toNat < 10 ∧ (up.cntFn .pf).group.toNat < 5 ∧ ({ up with cnt := { fns := [(fnKey .pf, { bank := 9, group := 4, index := 1023 })] } } : Dev).hostOk .pf = true ∧
    (1#32) ≠ 0 := by decide

theorem test_hyp_StepKeepsMemoryForm : ∃ t, (on up).dev.mem.wf = true ∧ step (on up) = .next t := ⟨idle (on up), by decide, rfl⟩

theorem test_hyp_DataAccessFrame :
    up.mem.wf = true ∧ up.mem.diff (w2 - w2 % 32) = 0 ∧ ({} : Acc).severity (w2 - w2 % 32) ≠ 2 ∧ w2 < up.canon (w2 + 1) ∧ up.canon w2 + ([9] : List Byte).length ≤ w2 + 1 := by decide

theorem test_hyp_RecordsRoundTrip :
    (let m : Msg := { op := 2, hops := 255, owner := 15, atom := 15, rid := 65535, len := 1, addr := 2 ^ 56 - 1, data := List.replicate (dataLen 2 1) 9 }
     m.op < 256 ∧ m.hops < 256 ∧ m.owner < 16 ∧ m.atom < 16 ∧ m.rid < 65536 ∧ m.addr < 2 ^ 56 ∧ m.data.length = dataLen m.op m.len) ∧
    (let x : PDesc := { base := 2 ^ 56 - 1, log2 := 15, fmt := 15, ref := 65535, part := 7, stream := 8191, pool := 63, len := 8191, tlen := 127, node := 2 ^ 56 - 1, stamp := 2 ^ 64 - 1 }
     x.base < 2 ^ 56 ∧ x.log2 < 16 ∧ x.ref < 65536 ∧ x.len < 8192 ∧ x.tlen < 128 ∧ x.stamp < 2 ^ 64) ∧
    (let x : ANode := { hash := 2 ^ 64 - 1, parent := 2 ^ 56 - 1, page := 2 ^ 56 - 1, children := 65535, state := 255, depth := 2 ^ 32 - 1 }
     x.hash < 2 ^ 64 ∧ x.parent < 2 ^ 56 ∧ x.page < 2 ^ 56 ∧ x.children < 65536 ∧ x.state < 256 ∧ x.depth < 2 ^ 32) := by decide

/-! Ill-formed commands are refused: one term for each check, and well-formed ones are accepted. -/

set_option maxRecDepth 20000 in
theorem test_wf_accepts :
    ([.facCoolant { payload := List.replicate 12 0 }, .canFacShedNow { id := 0x080, data := List.replicate 16 0 }, .smbusWrite 0x58 1 [2], .fusePhaseEnd { fuseFail := [5] },
      .paceWindow [(383, 1)], .bar4Read .pf 0 4096 {}, .bar4Write .pf 64 [1] {}, .sqTail .pf 0 64 0 {}, .flitReceive 0 (List.replicate 128 0) {},
      .thermalScan { readings := [(5399, some 400)] } {}, .registerWrite .pf 0 8 0 {}, .fcHousekeepingUp] : List Instr).all Instr.wf = true := by decide

theorem test_wf_refuses_frame : Instr.wf (.facCoolant { payload := List.replicate 11 0 }) = false := by decide
theorem test_wf_refuses_can_id : Instr.wf (.canFacPowerCap { id := 2 ^ 29 }) = false := by decide
set_option maxRecDepth 20000 in
theorem test_wf_refuses_can_length : Instr.wf (.canFacPowerCap { data := List.replicate 65 0 }) = false := by decide
set_option maxRecDepth 20000 in
theorem test_wf_refuses_smbus_length : Instr.wf (.smbusWrite 0x58 0 (List.replicate 33 0)) = false := by decide
theorem test_wf_refuses_phase_sites :
    Instr.wf (.fusePhaseEnd { fuseFail := [6] }) = false ∧ Instr.wf (.zfPhaseEnd { partner := .block [] true }) = false ∧
    Instr.wf (.memPhaseEnd { stackFail := [12] }) = false ∧ Instr.wf (.memPhaseEnd { lanes := [(0, 68, 0)] }) = false ∧
    Instr.wf (.memPhaseEnd { caLanes := [(5, 0, 0)] }) = false ∧ Instr.wf (.assayPhaseEnd { dmaFail := [12] }) = false := by decide
theorem test_wf_refuses_pace : Instr.wf (.paceWindow [(384, 0)]) = false := by decide
theorem test_wf_refuses_ca_fault : Instr.wf (.caParityError 0 0 0 { words := [33] } {}) = false ∧ Instr.wf (.caParityError 0 0 0 { lanes := [14] } {}) = false := by decide
theorem test_wf_refuses_bar4 : Instr.wf (.bar4Read .pf 0 0 {}) = false ∧ Instr.wf (.bar4Write .pf (2 ^ 56) [0] {}) = false := by decide
theorem test_wf_refuses_env :
    Instr.wf (.packetTake { cells := [(2 ^ 56, 0)] }) = false ∧ Instr.wf (.packetTake { upsets := [(0, 272)] }) = false ∧ Instr.wf (.packetTake { ondie := [(16, true)] }) = false ∧
    Instr.wf (.packetTake { fails := [(0, 0, .poison)] }) = false ∧ Instr.wf (.packetTake { rlcBad := [2 ^ 48] }) = false := by decide
theorem test_wf_refuses_door : Instr.wf (.cqHead .pf 0 24 0) = false := by decide
set_option maxRecDepth 20000 in
theorem test_wf_refuses_flit : Instr.wf (.flitReceive 0 (List.replicate 127 0) {}) = false := by decide
theorem test_wf_refuses_scan : Instr.wf (.thermalScan { readings := [(6000, none)] } {}) = false ∧ Instr.wf (.thermalScan { readings := [(400, none)] } {}) = false := by decide
theorem test_wf_refuses_access : Instr.wf (.registerRead .pf 0 9) = false ∧ Instr.wf (.registerRead .pf (2 ^ 23) 1) = false := by decide

/-! Values of the spec's tables and bench examples. -/

/-- 01, bench: SYS_BUILD, SYS_EXPOSED and SYS_HBM_MAP of a PVR-42H10-c48-l16. -/
theorem test_build_42h10_c48_l16 :
    (let d : Dev := { up with fuse := { up.fuse with variant := .v42, sufC := true, sufL := true } }
     (d.sysBuild, d.coresPerCs, d.linksPerIod, d.gbPerStack, hbmFitted .v42)) = (0x3A24, 0x30, 0x10, 0x24, 0xCFF) := by decide

/-- 02, bench: FAC_STATUS at 40.5 V and 58.0 A, with UV_WARN in flags bit 3. -/
theorem test_fac_status_payload :
    (let b := ({ up with fc := { up.fc with below44 := true } } : Dev).facStatusPayload { vin := 4050, iin := 5800 }
     (b.take 4, byteAt b 10, b.length)) = ([0xD2, 0x0F, 0xA8, 0x16], 8, 12) := by decide

/-- 02, bench: the derived cap 62 x 40.5 V of a PVR-51H12 is 2,511 W, payload CF 09 01. -/
theorem test_derived_cap :
    (match exec (.derivedCapTick 4050) (on { up with fc := { up.fc with hk := true, below44 := true, rackCap := 2600 } }) with
     | .next t => (t.dev.fc.cap, t.dev.out.map (fun o => match o with | Out.barrier _ b => (b.drop 2).take 3 | _ => []))
     | _ => ((0, false), [])) = ((2511, true), [[0xCF, 0x09, 0x01]]) := by decide

/-- 03, bench: SYS_STATE after SYS_READY. -/
theorem test_sys_state_ready : up.sysState = 0x16 := by decide

/-- 06, bench: the words of slice lane 1,337 (octant 2, lane 313): word 1 bit 41, word 3 bit 9, word 4 bit 249; and the place of two addresses. -/
theorem test_slice_lane :
    laneOf (dpaCoreOff 0xFF22B002854820) 41 = 1337 ∧ laneOf (dpaCoreOff 0xFF22B00848A880) 249 = 1337 ∧
    (dpaSite 0xFF22B002854820, dpaCore 0xFF22B002854820, octOf (dpaCoreOff 0xFF22B002854820), layerOf (dpaCoreOff 0xFF22B002854820),
      rowOf (dpaCoreOff 0xFF22B002854820) % 1536) = (1, 22, 2, 2, 0x0A1) ∧
    (layerOf (dpaCoreOff 0xFF22B00848A880), rowOf (dpaCoreOff 0xFF22B00848A880) % 1536) = (5, 0x212) := by decide

/-- 08, bench: PRT_STATE of a partner at 16 GT/s with MAX_OUT 128 and a window of 32 GiB. -/
theorem test_prt_state :
    (let d : Dev := { up with zf := { up.zf with prtSt := 2, prtRate := 0, prtInit := true, prtWrite := true, prtMaxOut := 127 } }
     d.zfReg 0x100) = 0x007F0302 := by decide

/-- 09, bench: DPA 0xFF_2248_0123_4560 is offset 0x0123_4560 of core 9 of S1. -/
theorem test_dpa_fields :
    (dpaNode 0xFF224801234560, dpaSpace 0xFF224801234560, dpaSite 0xFF224801234560, dpaCore 0xFF224801234560, dpaCoreOff 0xFF224801234560) =
      (0xFF, 2, 1, 9, 0x01234560) := by decide

/-- 12, bench: the header word of the projection GEMM. -/
theorem test_gemm_header :
    header 0x011F831201200410 = { opc := 0x10, flg := 4, tag := 0x0120, len := 2, fmt := 1, qos := 0x83, dep := 0x011F } ∧ opLen 0x10 = some 2 := by decide

/-- 14, bench: row and unit bytes of a graded FP8 pool with 6 heads of 128. -/
theorem test_pool_rows :
    (let p : Pool := { kind := true, fmt := 2, heads := 6, hd := 2, arbLog2 := 4 }
     (p.eBytes, p.sBytes, p.rowBytes, p.unitBytes, p.arborB)) = (128, 4, 1588, 25408, 256) := by decide

/-- 14, bench: a K block of amax 3.1 takes the scale byte 0x78 and the code 0x7C. -/
theorem test_kv_block : kvBlock 2 false [f32 0x40466666] = (0x78, [0x7C]) := by decide

/-- 15, bench: depths of the seven-token tree, and the ancestors of record 4. -/
theorem test_tree :
    (let t : List TreeRec := [(255 : Nat), 0, 0, 1, 1, 3, 2].map (fun p => { parent := p })
     (depths t, ancestors t 7 4)) = ([0, 1, 1, 2, 2, 3, 2], [4, 1, 0]) := by decide

/-- 17, bench: DRAM sensor 13 at 118.0 degrees is voted out by neighbours of median 88.5 and takes 89.5. -/
theorem test_vote :
    (let x := voteSensor (enterAt 1) { raw := 472 } [(358, true), (352, true), (350, true), (354, true), (397, false)]
     (x.suspect, x.eff)) = (true, 358) := by decide

/-- 17, bench: logic at 103.75 degrees demands level 6; at 97.0 an engaged class demands 1; at 93.5 it lets go. -/
theorem test_demand :
    (scanClass { warn := 1 } 0 415).demand = 6 ∧ (scanClass { warn := 1 } 0 415).cross = [0x81] ∧ (scanClass { eng := 1, warn := 1 } 0 388).demand = 1 ∧
    (scanClass { eng := 1, warn := 1 } 0 374).demand = 0 ∧ leBytes 2 (sField 16 (tenths 415)) = [0x0D, 0x04] := by decide

/-- 18, bench: bytes of a SEGMENT, of its response, and of an ATOMIC and its response. -/
theorem test_message_bytes :
    16 * ({ op := 4, len := 4096 } : Msg).nUnits = 4128 ∧ 16 * ({ op := 5, len := 0 } : Msg).nUnits = 32 ∧ 16 * ({ op := 3, len := 16 } : Msg).nUnits = 48 ∧
    16 * ({ op := 5, len := 8 } : Msg).nUnits = 48 ∧ 64 + 8 * cntSize 3 = 4672 := by decide

/-- 19, bench: LCK_STATE at OBSERVE with two password banks and a challenge held. -/
theorem test_lck_state :
    (let d : Dev := { up with fuse := { up.fuse with pwBanks := [default, default] }, lck := { up.lck with level := 1, chal := some [] } }
     (d.lckReg 0, { d with lck := { d.lck with level := 2, chal := none } }.lckReg 0)) = (0x10201, 0x202) := by decide

/-- 19 R409: under HBM_1500 a walk Select-DR, Capture-DR, Shift-DR, Exit1-DR, Update-DR shows that no operation is pending and leaves one; the next shows it. -/
theorem test_port_busy :
    (let x : Lck := { tap := .idle, ir := 0x34, tms := 0b011001 }
     let y := x.tapWalk 6
     (y.tapFix, y.port1500, y.tap, (y.tapWalk 6).tapFix)) = ([(3, false)], true, .idle, [(3, false), (3, true)]) := by decide

set_option maxRecDepth 100000 in
/-- The first bytes of the digest of "abc" that FIPS 180-4 gives for SHA-384 (19 R415). -/
theorem test_sha384 : (sha384 [0x61, 0x62, 0x63]).take 6 = [0xCB, 0x00, 0x75, 0x3F, 0x45, 0xA3] := by decide

/-- 21, bench: offsets of VF4 and the offsets of the registers they reach. -/
theorem test_vf_offsets : fnMap (.vf 3) 0x81280 = some 0xB1280 ∧ fnMap (.vf 3) 0x812E0 = some 0xB12E0 ∧ fnMap (.vf 3) 0x54200 = some 0x184200 := by decide

/-- The string "123456789" over which 13 R287 and 18 R399 give check values. -/
def digits : List Byte := [0x31, 0x32, 0x33, 0x34, 0x35, 0x36, 0x37, 0x38, 0x39]

set_option maxRecDepth 20000 in
/-- 13 R287: the check value of CRC-32C. -/
theorem test_crc32c_check : crc32c digits = 0xE3069283 := by decide

set_option maxRecDepth 20000 in
/-- 18 R399: the check value of CRC-64/ECMA-182. -/
theorem test_crc64_check : crc64 digits = 0x6C40DF5F0B497347 := by decide

end Sys2Proof.Tests
end

section
/-!
The Supervisor's reception of a frame (02 R62-R65), and FAC_COOLANT (02 R69).
-/
namespace Sys2Proof.Machine

/-- The module once the Supervisor has noted a new frame (02 R65): the gap in the sequence counted, the barrier no longer lost, the sequence
number kept; what the message itself does comes after. -/
def Dev.noteRx (d : Dev) (f : Frame) : Dev :=
  let skip := match d.sup.rxLast with | none => 0 | some l => if d.pwr.lost then 0 else (f.seq - l - 1).toNat
  { d with pwr := { d.pwr with gaps := satAdd d.pwr.gaps skip, lost := false }, sup := { d.sup with rxLast := some f.seq } }

/-- A sound frame of a facility type under a new sequence number is noted, applied, and acknowledged where its type asks for it. -/
theorem Dev.supFrame_new {d : Dev} {f : Frame} (halive : d.supAlive = true) (hsound : frSound f = true)
    (htyp : 1 ≤ f.typ.toNat ∧ f.typ.toNat ≤ 7) (hnew : d.sup.rxLast ≠ some f.seq) :
    d.supFrame f =
      if ackedType f.typ then ((d.noteRx f).supApply f).supSend 0x87 [f.typ, f.seq] else (d.noteRx f).supApply f := by
  obtain ⟨hlo, hhi⟩ := htyp
  have hdup : (d.sup.rxLast == some f.seq) = false := beq_eq_false_iff_ne.mpr hnew
  simp only [Dev.supFrame, halive, hsound, hlo, hhi, hdup, decide_true, Bool.and_self, Bool.not_true, Bool.or_self, Bool.false_eq_true, ↓reduceIte]
  rfl

/-- What FAC_COOLANT does once it is accepted: the readings kept, the flow for the Supervisor's use, and the event. -/
theorem Dev.supApply_coolant (d : Dev) {f : Frame} (h : f.typ = 0x04#8) :
    d.supApply f = ({ d with
      pwr := { d.pwr with inlet := BitVec.ofNat 16 (frField f 2 2), outlet := BitVec.ofNat 16 (frField f 4 2) },
      sup := { d.sup with flow := BitVec.ofNat 16 (frField f 6 2) } }).raisePwr 4 := by
  simp only [Dev.supApply, h]
  rfl

/-- A new FAC_COOLANT is noted and applied, and gets no acknowledgement (02 Table 02-11). -/
theorem Dev.supFrame_coolant {d : Dev} {f : Frame} (halive : d.supAlive = true) (hsound : frSound f = true) (htyp : f.typ = 0x04#8)
    (hnew : d.sup.rxLast ≠ some f.seq) : d.supFrame f = (d.noteRx f).supApply f := by
  have hrange : 1 ≤ f.typ.toNat ∧ f.typ.toNat ≤ 7 := by simp [htyp]
  have hack : ackedType f.typ = false := by rw [htyp]; decide
  rw [Dev.supFrame_new halive hsound hrange hnew, hack]
  exact if_neg Bool.false_ne_true

/-- FAC_COOLANT hands its frame to the Supervisor. -/
theorem exec_facCoolant (s : State) (f : Frame) : exec (.facCoolant f) s = .next { s with dev := s.dev.supFrame f } := rfl

/-- Settles O10: the frame is noted and applied without an acknowledgement, so that beside PWR_COOLANT, the event and the Supervisor's own
bookkeeping every field is the one before. -/
theorem coolantTakesNoAction : Obligations.CoolantTakesNoAction := by
  intro s f halive hsound htyp hnew
  refine ⟨(s.dev.noteRx f).supApply f, ?_, ?_⟩
  · rw [exec_facCoolant, Dev.supFrame_coolant halive hsound htyp hnew]
  · rw [Dev.supApply_coolant _ htyp]
    simp [Dev.noteRx]

end Sys2Proof.Machine
end

section
/-!
What a range of bytes and the check bits of a word read after a store, and a write of all 32 bytes of a slice word (06 R147, R155).
-/
namespace Sys2Proof.Machine

/-- Cells looked up among those whose address passes a test, at an address that passes it. -/
theorem cellAt_filter (p : Nat → Bool) {a : Nat} (ha : p a = true) (l : List Host.Cell) :
    cellAt (l.filter (fun e => p e.1)) a = cellAt l a := by
  induction l with
  | nil => rfl
  | cons e r ih =>
    obtain ⟨k, v⟩ := e
    by_cases hk : k = a
    · subst hk
      simp [ha, cellAt]
    · by_cases hp : p k = true <;> simp [hp, cellAt, hk, ih]

/-- A range of bytes is read byte by byte. -/
theorem Mem.bytes_eq_map (m : Mem) (a n : Nat) : m.bytes a n = (List.range n).map (fun i => m.byte (a + i)) := by
  refine List.map_congr_left fun i hi => ?_
  have hin : (decide (a ≤ a + i) && decide (a + i < a + n)) = true := by simpa using hi
  rw [cellAt_filter (fun k => decide (a ≤ k) && decide (k < a + n)) hin]
  rfl

/-- Every byte of a stored list reads as it was stored. -/
theorem Mem.byte_putList_inside (l : List Byte) : ∀ (m : Mem) (a i : Nat) (h : i < l.length), m.wf = true →
    (m.putList a l).byte (a + i) = l[i] := by
  induction l with
  | nil => intro m a i h _; exact absurd h (Nat.not_lt_zero i)
  | cons b r ih =>
    intro m a i h hwf
    cases i with
    | zero =>
      rw [Mem.putList, Mem.byte_putList_other _ _ _ _ (by omega)]
      exact Mem.byte_put_same m a b hwf
    | succ j =>
      have hj : j < r.length := Nat.lt_of_succ_lt_succ h
      rw [Mem.putList, show a + (j + 1) = a + 1 + j by omega, ih _ _ _ hj (Mem.put_wf _ _ _ hwf), List.getElem_cons_succ]

/-- A list of bytes stored reads back whole. -/
theorem Mem.bytes_putList (m : Mem) (a : Nat) (l : List Byte) (hwf : m.wf = true) : (m.putList a l).bytes a l.length = l := by
  rw [Mem.bytes_eq_map]
  refine List.ext_getElem (by simp) fun i _ hi => ?_
  simpa using Mem.byte_putList_inside l m a i hi hwf

/-- Check bits of a word do not change what a range reads. -/
@[simp] theorem Mem.bytes_setDiff (m : Mem) (w x a n : Nat) : (m.setDiff w x).bytes a n = m.bytes a n := rfl

/-- An entry that was removed. -/
theorem tget?_tdel_same {α : Type} (t : Tbl α) (k : Nat) : tget? (tdel t k) k = none := by
  induction t with
  | nil => rfl
  | cons e r ih =>
    obtain ⟨a, v⟩ := e
    by_cases h : a = k
    · simpa [tdel, h] using ih
    · simpa [tdel, h, tget?] using ih

/-- A word given fresh check bits. -/
@[simp] theorem Mem.diff_setDiff_zero (m : Mem) (w : Nat) : (m.setDiff w 0).diff w = 0 := by
  simp [Mem.diff, Mem.setDiff, tget, tget?_tdel_same]

/-- A broken reservation leaves the stored words and the slices alone: it is a matter of the KPM slot and of its owner's count. -/
theorem Dev.dropRsv_mem_slc (d : Dev) (k : Nat) : (d.dropRsv k).mem = d.mem ∧ (d.dropRsv k).slc = d.slc := by
  unfold Dev.dropRsv
  dsimp only
  split
  · exact ⟨rfl, rfl⟩
  · unfold Dev.countRsv
    split <;> exact ⟨rfl, rfl⟩

/-- So does breaking every reservation that a write overlaps. -/
theorem Dev.breakRsv_mem_slc (d : Dev) (a n : Nat) (own : Option Nat) :
    (d.breakRsv a n own).mem = d.mem ∧ (d.breakRsv a n own).slc = d.slc := by
  unfold Dev.breakRsv
  refine List.foldlRecOn (motive := fun x : Dev => x.mem = d.mem ∧ x.slc = d.slc) _ _ ⟨rfl, rfl⟩ ?_
  rintro x ⟨hmem, hslc⟩ e -
  obtain ⟨hm, hs⟩ := x.dropRsv_mem_slc e.1
  exact ⟨hm.trans hmem, hs.trans hslc⟩

@[simp] theorem Dev.breakRsv_mem (d : Dev) (a n : Nat) (own : Option Nat) : (d.breakRsv a n own).mem = d.mem := (d.breakRsv_mem_slc a n own).1

@[simp] theorem Dev.breakRsv_slc (d : Dev) (a n : Nat) (own : Option Nat) : (d.breakRsv a n own).slc = d.slc := (d.breakRsv_mem_slc a n own).2

/-- A write of a whole word that no exclusive hold keeps back: the word is not read first (06 R147), and its reservations break. -/
theorem Dev.storeWord_full {d : Dev} {acc : Acc} {w : Nat} {b : List Byte} (hheld : d.isHeld w acc.slot = false) (hlen : b.length = 32)
    (o : Nat) : d.storeWord acc w o b = (({ d with mem := (d.mem.putList w b).setDiff w 0 }).breakRsv w 32 acc.slot, sOk) := by
  simp [Dev.storeWord, hheld, hlen]

/-- A write into a slice: refused where the slice is read-only (06 R155), else a store. -/
theorem Dev.writeWord_slice {d : Dev} {w n c off : Nat} (hloc : d.locate w = .slice n c off) (acc : Acc) (o : Nat) (b : List Byte) :
    d.writeWord acc w o b = if (d.slice n c).st = 1#2 then (d, sRoRegion) else d.storeWord acc w o b := by
  simp [Dev.writeWord, hloc]

/-- Settles O20: a slice that is not read-only stores the whole word without a look at the old one, and only reservations change beside it. -/
theorem fullWordWrite : Obligations.FullWordWrite := by
  intro d acc w n c off b hwf hloc hlen
  constructor
  · intro hst hheld
    rw [Dev.writeWord_slice hloc, if_neg hst, Dev.storeWord_full hheld hlen]
    refine ⟨rfl, ?_, ?_, ?_, ?_⟩
    · rw [Dev.breakRsv_mem, Mem.bytes_setDiff, ← hlen, Mem.bytes_putList _ _ _ hwf]
    · rw [Dev.breakRsv_mem, Mem.diff_setDiff_zero]
    · intro a ha
      rw [Dev.breakRsv_mem, Mem.byte_setDiff, Mem.byte_putList_other _ _ _ _ (by rwa [hlen])]
    · rw [Dev.breakRsv_slc]
  · intro hst
    rw [Dev.writeWord_slice hloc, if_pos hst]

end Sys2Proof.Machine
end

section
/-!
A table after an entry is removed, a counter after it is cleared or counts (18 R389), and the write of CNT_VAL_LO (18 R390).
-/
namespace Sys2Proof.Machine

/-- The entries beside one that was removed. -/
theorem tget?_tdel_other {α : Type} (t : Tbl α) (k j : Nat) (h : j ≠ k) : tget? (tdel t k) j = tget? t j := by
  induction t with
  | nil => rfl
  | cons e r ih =>
    obtain ⟨a, v⟩ := e
    by_cases ha : a = k
    · subst ha
      simpa [tdel, tget?, Ne.symm h] using ih
    · simp only [tdel, bne_iff_ne, ne_eq, ha, not_false_eq_true, List.filter_cons_of_pos, tget?]
      split
      · rfl
      · exact ih

@[simp] theorem tget_tdel_same {α : Type} (t : Tbl α) (k : Nat) (d : α) : tget (tdel t k) k d = d := by
  simp [tget, tget?_tdel_same]

theorem tget_tdel_other {α : Type} (t : Tbl α) (k j : Nat) (d : α) (h : j ≠ k) : tget (tdel t k) j d = tget t j d := by
  simp [tget, tget?_tdel_other _ _ _ h]

/-- A cleared counter reads zero, and its overflow bit is clear. -/
theorem Dev.clearCnt_same (d : Dev) (k : Nat) :
    tget (d.clearCnt k).cnt.val k 0 = 0 ∧ tget (d.clearCnt k).cnt.ovf k false = false :=
  ⟨tget_tdel_same _ _ _, tget_tdel_same _ _ _⟩

/-- Every counter beside a cleared one stands as before. -/
theorem Dev.clearCnt_other (d : Dev) (k j : Nat) (h : j ≠ k) :
    tget (d.clearCnt k).cnt.val j 0 = tget d.cnt.val j 0 ∧ tget (d.clearCnt k).cnt.ovf j false = tget d.cnt.ovf j false :=
  ⟨tget_tdel_other _ _ _ _ h, tget_tdel_other _ _ _ _ h⟩

/-- A cleared counter is a matter of the CNT block alone. -/
theorem Dev.clearCnt_data (d : Dev) (k : Nat) : DataStep d (d.clearCnt k) := .of_eq rfl rfl rfl rfl rfl rfl rfl rfl rfl rfl rfl rfl

/-- The counters after n events of one of them: it stops at its maximum, and what saturation sets is no counter's value. -/
theorem Dev.bump_val (d : Dev) (bank g i n : Nat) :
    (d.bump bank g i n).cnt.val = tset d.cnt.val (ctrKey bank g i) (min (tget d.cnt.val (ctrKey bank g i) 0 + n) cntMax) := by
  unfold Dev.bump
  dsimp only
  split
  · split
    · split <;> rfl
    · rfl
  · rfl

/-- One event on a counter that stands at zero. -/
theorem Dev.bump_one_of_zero {d : Dev} {bank g i k : Nat} (hk : k = ctrKey bank g i) (h : tget d.cnt.val k 0 = 0) :
    tget (d.bump bank g i 1).cnt.val k 0 = 1 := by
  subst hk
  rw [Dev.bump_val, tget_tset_same, h]
  decide

/-- A selection that names a counter of a bank and group that exist. -/
theorem Dev.cntKey_of_valid {d : Dev} {fn : Fn} (hbank : (d.cntFn fn).bank.toNat < 10) (hgroup : (d.cntFn fn).group.toNat < 5) :
    d.cntKey fn = some (ctrKey (d.cntFn fn).bank.toNat (d.cntFn fn).group.toNat (d.cntFn fn).index.toNat) := by
  simp [Dev.cntKey, ctrKey, hbank, hgroup]

/-- A write of zero clears the selected counter. -/
theorem Dev.wrCntVal_zero {d : Dev} {fn : Fn} {k v : Nat} (hkey : d.cntKey fn = some k) (hv : v = 0) : d.wrCntVal fn v = d.clearCnt k := by
  simp [Dev.wrCntVal, hkey, hv]

/-- A write of any other value is ignored, whatever is selected. -/
theorem Dev.wrCntVal_nonzero (d : Dev) (fn : Fn) {v : Nat} (hv : v ≠ 0) : d.wrCntVal fn v = d := by
  unfold Dev.wrCntVal
  split
  · exact if_neg hv
  · rfl

/-- CNT_VAL_LO_WRITE of a function that is answered: the write in the request's turn, and the register writes that wait. -/
theorem exec_cntValLoWrite {s : State} {fn : Fn} (hok : s.dev.hostOk fn = true) (v : BitVec 32) :
    exec (.cntValLoWrite fn v) s = .next { s with dev := (s.dev.hostTurn.wrCntVal fn v.toNat).flushRegs {} } :=
  onHost_ok s fn {} _ hok

/-- Settles O56: a write of zero removes the counter's entries in both tables, so that it reads zero and its next event makes it 1, and
every other write leaves the module as the request's turn finds it. -/
theorem counterClear : Obligations.CounterClear := by
  rintro s fn v c t hok rfl rfl hbank hgroup k hk
  rw [exec_cntValLoWrite hok]
  constructor
  · intro hv
    have hkey : s.dev.hostTurn.cntKey fn = some k := (Dev.cntKey_of_valid hbank hgroup).trans (congrArg some hk.symm)
    have hstep := s.dev.hostTurn_data.trans (s.dev.hostTurn.clearCnt_data k)
    obtain ⟨hval, hovf⟩ := s.dev.hostTurn.clearCnt_same k
    rw [Dev.wrCntVal_zero hkey (BitVec.toNat_eq.mp hv)]
    exact ⟨_, rfl, hval, hovf, Dev.bump_one_of_zero hk hval, s.dev.hostTurn.clearCnt_other k, hstep.kept, rfl⟩
  · intro hv
    have hnat : v.toNat ≠ 0 := fun h => hv (BitVec.eq_of_toNat_eq h)
    rw [Dev.wrCntVal_nonzero _ _ hnat]

end Sys2Proof.Machine
end

section
/-!
The entries of a table by function, and a BAR4 size written through the Resizable BAR capability (21 R434).
-/
namespace Sys2Proof.Machine

/-- Two functions never share an entry of a table by function. -/
theorem fnKey_injective : Function.Injective fnKey := by
  intro g f h
  cases g with
  | pf =>
    cases f with
    | pf => rfl
    | vf p => exact absurd h (Nat.succ_ne_zero _).symm
  | vf q =>
    cases f with
    | pf => exact absurd h (Nat.succ_ne_zero _)
    | vf p => exact congrArg Fn.vf (Fin.ext (Nat.succ.inj h))

section
variable {s : State} {fn : Fn} (hsup : s.dev.supAlive = true)
include hsup

/-- BAR4_RESIZE to a size of Table 21-1, with the function's Memory Space Enable clear: the function's entry of the sizes is set. -/
theorem exec_bar4Resize_mse_clear {k : Nat} (hpcie : s.dev.pcieUp = true) (hfuse : s.dev.fuseEnded = true) (hlo : 30 ≤ k) (hhi : k ≤ 39)
    (hmse : tget s.dev.pcie.mse (fnKey fn) false = false) :
    exec (.bar4Resize fn k) s =
      .next { s with dev := { s.dev with pcie := { s.dev.pcie with bar4 := tset s.dev.pcie.bar4 (fnKey fn) k } } } := by
  refine (onUp_on s _ hsup).trans ?_
  simp [hpcie, hfuse, hmse, hlo, hhi]

/-- BAR4_RESIZE, with the function's Memory Space Enable set: whatever the size, nothing changes. -/
theorem exec_bar4Resize_mse_set (k : Nat) (hmse : tget s.dev.pcie.mse (fnKey fn) false = true) : exec (.bar4Resize fn k) s = .next s := by
  refine (onUp_on s _ hsup).trans ?_
  simp [hmse]

end

/-- Settles O54: with Memory Space Enable clear the write sets one entry of the table of BAR4 sizes, which is no other function's, and with it
set the write is ignored. -/
theorem bar4Size : Obligations.Bar4Size := by
  intro s fn k hsup hpcie hfuse hlo hhi
  constructor
  · intro hmse
    have hother (g : Fn) (hg : g ≠ fn) : tget (tset s.dev.pcie.bar4 (fnKey fn) k) (fnKey g) 0 = tget s.dev.pcie.bar4 (fnKey g) 0 :=
      tget_tset_other _ _ _ _ _ (fnKey_injective.ne hg)
    exact ⟨_, exec_bar4Resize_mse_clear hsup hpcie hfuse hlo hhi hmse, tget_tset_same _ _ _ _, hother⟩
  · exact exec_bar4Resize_mse_set hsup k

end Sys2Proof.Machine
end


section
/-!
What sending over the links leaves alone (16 R346-R358): everything but the packets that a request ends, DMA channels, the entropy drawn, counters,
output, and of the LNK block the links and the requests outstanding.
-/
namespace Sys2Proof.Machine

/-- A fold of steps that each leave a part of the state alone leaves it alone. -/
theorem foldl_leaves {α β γ : Type} (part : β → γ) (f : β → α → β) (h : ∀ b a, part (f b a) = part b) (l : List α) :
    ∀ b, part (l.foldl f b) = part b := by
  induction l with
  | nil => exact fun _ => rfl
  | cons a r ih => exact fun b => (ih (f b a)).trans (h b a)

/-- The module without its counters and output. -/
def Dev.besideCounts (d : Dev) : Dev := { d with cnt := {}, out := [] }

/-- The module without what a flit that leaves touches. -/
def Dev.besideFlits (d : Dev) : Dev := { d with cnt := {}, out := [], lnk := { d.lnk with links := [] } }

/-- The module without what the end of a request touches. -/
def Dev.besideDone (d : Dev) : Dev := { d with
  disp := {}, dmaCh := [], free := 0, cnt := {}, out := [], lnk := { d.lnk with rids := [], gone := [], nextRid := 0, xseq := [] } }

/-- The module without what sending over the links touches. -/
def Dev.besideSends (d : Dev) : Dev := { d with
  disp := {}, dmaCh := [], free := 0, cnt := {}, out := [], lnk := { d.lnk with links := [], rids := [], gone := [], nextRid := 0, xseq := [] } }

theorem Dev.bump_besideCounts (d : Dev) (bank g i n : Nat) : (d.bump bank g i n).besideCounts = d.besideCounts := by
  unfold Dev.bump
  dsimp only
  split
  · split
    · split <;> rfl
    · rfl
  · rfl

theorem Dev.count_besideCounts (d : Dev) (o : Option Nat) (g i n : Nat) : (d.count o g i n).besideCounts = d.besideCounts := by
  unfold Dev.count
  split
  · rfl
  · split
    · exact d.bump_besideCounts _ _ _ _
    · exact (Dev.bump_besideCounts _ _ _ _ _).trans (d.bump_besideCounts _ _ _ _)

/-- What leaves all but counts and output alone leaves all alone that a flit does. -/
theorem Dev.besideFlits_of_counts {d x : Dev} (h : x.besideCounts = d.besideCounts) : x.besideFlits = d.besideFlits :=
  congrArg (fun y : Dev => { y with lnk := { y.lnk with links := [] } }) h

/-- What leaves all alone that a flit does leaves all alone that a send does. -/
theorem Dev.besideSends_of_flits {d x : Dev} (h : x.besideFlits = d.besideFlits) : x.besideSends = d.besideSends :=
  congrArg (fun y : Dev => { y with
    disp := {}, dmaCh := [], free := 0, lnk := { y.lnk with rids := [], gone := [], nextRid := 0, xseq := [] } }) h

theorem Dev.count_besideFlits (d : Dev) (o : Option Nat) (g i n : Nat) : (d.count o g i n).besideFlits = d.besideFlits :=
  Dev.besideFlits_of_counts (d.count_besideCounts _ _ _ _)

theorem Dev.setLink_emit_besideFlits (d : Dev) (l : Nat) (x : Link) (o : Out) : ((d.setLink l x).emit o).besideFlits = d.besideFlits := rfl

theorem Dev.sendFlit_besideFlits (d : Dev) (l : Nat) (nak : Bool) : (d.sendFlit l nak).besideFlits = d.besideFlits := by
  unfold Dev.sendFlit
  refine (Dev.setLink_emit_besideFlits _ _ _ _).trans ((Dev.count_besideFlits _ _ _ _ _).trans ?_)
  exact foldl_leaves Dev.besideFlits _ (fun d u => d.count_besideFlits _ _ _ _) _ d

theorem Dev.pump_besideFlits (l n : Nat) : ∀ d : Dev, (d.pump l n).besideFlits = d.besideFlits := by
  induction n with
  | zero => exact fun _ => rfl
  | succ n ih =>
    intro d
    unfold Dev.pump
    dsimp only
    split
    · exact (ih _).trans (d.sendFlit_besideFlits _ _)
    · rfl

theorem Dev.enqueue_besideFlits (d : Dev) (l : Nat) (t : TxMsg) : (d.enqueue l t).besideFlits = d.besideFlits :=
  (Dev.pump_besideFlits _ _ _).trans rfl

theorem Dev.close_besideDone (d : Dev) (p : Pkt) (st : BitVec 16) (res : Nat) : (d.close p st res).besideDone = d.besideDone := by
  unfold Dev.close
  split <;> rfl

theorem Dev.answerPkt_besideDone (d : Dev) (q : QRef) (tag st : BitVec 16) (res : Nat) :
    (d.answerPkt q tag st res).besideDone = d.besideDone := by
  unfold Dev.answerPkt
  split
  · split
    · exact d.close_besideDone _ _ _
    · rfl
  · rfl

theorem Dev.endSend_besideDone (d : Dev) (j : SendJob) (st : BitVec 16) : (d.endSend j st).besideDone = d.besideDone :=
  (Dev.answerPkt_besideDone _ _ _ _ _).trans rfl

/-- A request that ends with an error writes no data. -/
theorem Dev.ridDone_besideDone (d : Dev) (r : Rid) {st : BitVec 16} (hst : isExc st = true) (data : List Byte) :
    (d.ridDone r st data).besideDone = d.besideDone := by
  unfold Dev.ridDone
  extract_lets x
  have hx : d = x := (if_pos hst).symm
  clear_value x
  subst hx
  split
  · exact (Dev.answerPkt_besideDone _ _ _ _ _).trans rfl
  · exact d.answerPkt_besideDone _ _ _ _
  · rw [if_pos hst]
    unfold Dev.dmaReadFail
    split <;> rfl
  · unfold Dev.dmaWritten
    extract_lets mine
    clear_value mine
    split
    · rfl
    · rfl
  · split
    · rfl
    · extract_lets failed j drop y k z
      have hy : y.besideDone = d.besideDone := foldl_leaves Dev.besideDone (fun d (r : Rid) => d.dropRid r.rid true) (fun d r => rfl) drop d
      have hz : z.besideDone = d.besideDone := hy
      clear_value z
      refine Eq.trans ?_ hz
      split
      · split
        · exact z.endSend_besideDone _ _
        · split
          · rfl
          · exact z.endSend_besideDone _ _
      · rfl
  · split
    · rfl
    · exact d.endSend_besideDone _ _

/-- What leaves all alone that the end of a request does leaves all alone that a send does. -/
theorem Dev.besideSends_of_done {d x : Dev} (h : x.besideDone = d.besideDone) : x.besideSends = d.besideSends :=
  congrArg (fun y : Dev => { y with lnk := { y.lnk with links := [] } }) h

theorem Dev.ridDone_besideSends (d : Dev) (r : Rid) {st : BitVec 16} (hst : isExc st = true) (data : List Byte) :
    (d.ridDone r st data).besideSends = d.besideSends := Dev.besideSends_of_done (d.ridDone_besideDone r hst data)

theorem Dev.dispatch_besideSends (n : Nat) : ∀ (d : Dev) (m : Msg) (sends : Nat) (owner : Option Nat),
    (d.dispatch m sends owner n).besideSends = d.besideSends := by
  induction n with
  | zero => exact fun _ _ _ _ => rfl
  | succ n ih =>
    intro d m sends owner
    unfold Dev.dispatch
    split
    · exact Dev.besideSends_of_flits (d.enqueue_besideFlits _ _)
    · split
      · rfl
      · split
        · split
          · exact (Dev.ridDone_besideSends _ _ (by decide) _).trans rfl
          · rfl
        · exact ih _ _ _ _

theorem Dev.sendDue_besideSends (n : Nat) : ∀ d : Dev, (d.sendDue n).besideSends = d.besideSends := by
  induction n with
  | zero => exact fun _ => rfl
  | succ n ih =>
    intro d
    unfold Dev.sendDue
    split
    · rfl
    · exact (ih _).trans ((Dev.dispatch_besideSends _ _ _ _ _).trans rfl)

theorem Dev.sendAll_besideSends (d : Dev) : d.sendAll.besideSends = d.besideSends := Dev.sendDue_besideSends _ d

/-- With every request sent, none is due. -/
theorem Dev.sendAll_idle {d : Dev} (h : ∀ r ∈ d.lnk.rids, r.sent = true) : d.sendAll = d := by
  have hnone : d.lnk.rids.find? (fun r => !r.sent && d.maySend r) = none := by
    rw [List.find?_eq_none]
    intro r hr
    simp [h r hr]
  unfold Dev.sendAll
  cases h : 2 * d.lnk.rids.length + 2 with
  | zero => rfl
  | succ n => simp only [Dev.sendDue, hnone]

/-- While the session is quiet, no request is due. -/
theorem Dev.sendAll_quiet {d : Dev} (h : d.lnk.quiet = true) : d.sendAll = d := by
  have hnone : d.lnk.rids.find? (fun r => !r.sent && d.maySend r) = none := by
    rw [List.find?_eq_none]
    intro r hr
    simp [Dev.maySend, h]
  unfold Dev.sendAll
  cases h : 2 * d.lnk.rids.length + 2 with
  | zero => rfl
  | succ n => simp only [Dev.sendDue, hnone]

end Sys2Proof.Machine
end

section
/-!
Steps that keep memory in its canonical form: the relation, and the rules by which it passes through sequences, choices and folds. Then, from here on, one lemma for each
operation of the model, in the model's order.
-/
namespace Sys2Proof.Machine

/-- Memory in canonical form stays so from d to x: what DataStep says of memory, without Kept. -/
structure MemStep (d x : Dev) : Prop where
  /-- The canonical form of memory. -/
  wf : d.mem.wf = true → x.mem.wf = true

theorem DataStep.mem {d x : Dev} (h : DataStep d x) : MemStep d x := ⟨h.wf⟩

theorem MemStep.refl (d : Dev) : MemStep d d := ⟨id⟩

theorem MemStep.trans {d x y : Dev} (h : MemStep d x) (g : MemStep x y) : MemStep d y := ⟨fun w => g.wf (h.wf w)⟩

/-- The same memory. -/
theorem MemStep.of_eq {d x : Dev} (h : x.mem = d.mem) : MemStep d x := ⟨fun w => by rw [h]; exact w⟩

/-- A step from a module with the same memory. -/
theorem MemStep.after {d x y : Dev} (h : MemStep x y) (e : x.mem = d.mem) : MemStep d y := (MemStep.of_eq e).trans h

/-- A fold of operations. -/
theorem MemStep.foldl {α : Type} {f : Dev → α → Dev} (h : ∀ d a, MemStep d (f d a)) (l : List α) (d : Dev) : MemStep d (l.foldl f d) := by
  induction l generalizing d with
  | nil => exact .refl d
  | cons a r ih => exact (h d a).trans (ih _)

/-- A fold that carries the module with other results. -/
theorem MemStep.foldlOn {α β : Type} (p : β → Dev) {f : β → α → β} (h : ∀ b a, MemStep (p b) (p (f b a))) (l : List α) (b : β) :
    MemStep (p b) (p (l.foldl f b)) := by
  induction l generalizing b with
  | nil => exact .refl _
  | cons a r ih => exact (h b a).trans (ih _)

/-- Either branch of a choice. -/
theorem MemStep.ite {d a b : Dev} {c : Prop} [Decidable c] (ha : MemStep d a) (hb : MemStep d b) : MemStep d (if c then a else b) := by
  split
  · exact ha
  · exact hb

/-- An operation, or nothing. -/
theorem MemStep.when {d a : Dev} {c : Prop} [Decidable c] (ha : MemStep d a) : MemStep d (if c then a else d) := ha.ite (.refl d)

/-- Nothing, or an operation. -/
theorem MemStep.unless {d a : Dev} {c : Prop} [Decidable c] (ha : MemStep d a) : MemStep d (if c then d else a) := (MemStep.refl d).ite ha

/-- Either branch of a choice between results that carry the module. -/
theorem MemStep.iteFst {β : Type} {d : Dev} {a b : Dev × β} {c : Prop} [Decidable c] (ha : MemStep d a.1) (hb : MemStep d b.1) :
    MemStep d (if c then a else b).1 := by
  split
  · exact ha
  · exact hb

/-! Work on queues and packets: it reaches neither the lock, nor the scan, nor the supplies. -/

/-- The parts that no work on queues and packets reaches. -/
def Dev.apart (d : Dev) : Fuses × FC × Thm × Lck × BitVec 16 × Bool := (d.fuse, d.fc, d.thm, d.lck, d.pwr.capW, d.pwr.shed0)

/-- Memory in canonical form stays so, and what no work on queues reaches stays as it is. -/
structure QueueStep (d x : Dev) : Prop where
  /-- Memory in canonical form. -/
  mem : MemStep d x
  /-- What no work on queues reaches. -/
  apart : x.apart = d.apart

theorem DataStep.work {d x : Dev} (h : DataStep d x) : QueueStep d x := by
  obtain ⟨fuse, -, fc, -, -, pwr, -, thm, -, -, lck⟩ := h.kept
  refine ⟨h.mem, ?_⟩
  unfold Dev.apart
  rw [fuse, fc, pwr, thm, lck]

theorem QueueStep.refl (d : Dev) : QueueStep d d := ⟨.refl d, rfl⟩

theorem QueueStep.trans {d x y : Dev} (h : QueueStep d x) (g : QueueStep x y) : QueueStep d y := ⟨h.mem.trans g.mem, g.apart.trans h.apart⟩

/-- The same memory, and the same of what no work on queues reaches. -/
theorem QueueStep.of_eq {d x : Dev} (h : x.mem = d.mem) (g : x.apart = d.apart) : QueueStep d x := ⟨.of_eq h, g⟩

theorem QueueStep.foldl {α : Type} {f : Dev → α → Dev} (h : ∀ d a, QueueStep d (f d a)) (l : List α) (d : Dev) : QueueStep d (l.foldl f d) := by
  induction l generalizing d with
  | nil => exact .refl d
  | cons a r ih => exact (h d a).trans (ih _)

/-- A step from a module that differs in the queues alone. -/
theorem QueueStep.after {d x y : Dev} (h : QueueStep x y) (e : x.mem = d.mem) (g : x.apart = d.apart) : QueueStep d y := (QueueStep.of_eq e g).trans h

theorem QueueStep.ite {d a b : Dev} {c : Prop} [Decidable c] (ha : QueueStep d a) (hb : QueueStep d b) : QueueStep d (if c then a else b) := by
  split
  · exact ha
  · exact hb

theorem QueueStep.when {d a : Dev} {c : Prop} [Decidable c] (ha : QueueStep d a) : QueueStep d (if c then a else d) := ha.ite (.refl d)

theorem QueueStep.unless {d a : Dev} {c : Prop} [Decidable c] (ha : QueueStep d a) : QueueStep d (if c then d else a) := (QueueStep.refl d).ite ha

/-- An operation on data, or nothing. -/
theorem DataStep.when {d a : Dev} {c : Prop} [Decidable c] (ha : DataStep d a) : DataStep d (if c then a else d) := .ite (fun _ => ha) (fun _ => .refl d)

/-- Nothing, or an operation on data. -/
theorem DataStep.unless {d a : Dev} {c : Prop} [Decidable c] (ha : DataStep d a) : DataStep d (if c then d else a) := .ite (fun _ => .refl d) (fun _ => ha)

/-! Blocks of the module that Kept does not name, replaced. -/

theorem Dev.setDisp_data (d : Dev) (x : Disp) : DataStep d { d with disp := x } := .of_eq rfl rfl rfl rfl rfl rfl rfl rfl rfl rfl rfl rfl
theorem Dev.setLnk_data (d : Dev) (x : Lnk) : DataStep d { d with lnk := x } := .of_eq rfl rfl rfl rfl rfl rfl rfl rfl rfl rfl rfl rfl
/-! A command on a packet, where its operation keeps memory. -/

theorem Dev.onPkt_mem {f : Dev → Pkt → Dev} (h : ∀ d p, MemStep d (f d p)) (d : Dev) (ops : List Nat) (q : QRef) (tag : BitVec 16) :
    MemStep d (d.onPkt ops q tag f) := by
  unfold Dev.onPkt
  split
  · exact .when (h d _)
  · exact .refl d

/-! Translation (09 R199-R207). -/

theorem Dev.walkLevel_data (d : Dev) (acc : Acc) (o tbl idx page next : Nat) : DataStep d (d.walkLevel acc o tbl idx page next).1 := by
  have h := d.readBytes_data acc (tbl + 8 * idx) 8
  unfold Dev.walkLevel
  dsimp only
  repeat' split
  all_goals exact h

/-- A walk of the tables: at most three levels, each one read. -/
theorem Dev.walk_data (d : Dev) (acc : Acc) (o k dva : Nat) : DataStep d (d.walk acc o k dva).1 := by
  unfold Dev.walk
  dsimp only
  split
  · exact .refl d
  generalize h : d.walkLevel acc o _ _ _ _ = r
  have hr : DataStep d r.1 := h ▸ d.walkLevel_data ..
  obtain ⟨d, _ | _, e, lf⟩ := r <;> dsimp only
  · split
    · exact hr
    generalize h2 : d.walkLevel acc o _ _ _ _ = r2
    have hr2 : DataStep _ r2.1 := hr.trans (h2 ▸ d.walkLevel_data ..)
    obtain ⟨d, _ | _, e, lf⟩ := r2 <;> dsimp only
    · split
      · exact hr2
      have hr3 := hr2.trans (d.walkLevel_data acc o (d.canon (bf e 55 13 * 8192)) (bf dva 27 16) 65536 0)
      split <;> exact hr3
    · exact hr2
  · exact hr

theorem Dev.xlOne_data (d : Dev) (acc : Acc) (o k dva : Nat) : DataStep d (d.xlOne acc o k dva).1 := by
  unfold Dev.xlOne
  dsimp only
  repeat' split
  · exact .refl d
  · exact (d.walk_data acc o k dva).trans (Dev.setDisp_data _ _)
  · exact d.walk_data acc o k dva

theorem xlRange_data (acc : Acc) (o k : Nat) (w : Bool) (endp : Nat) (n : Nat) :
    ∀ (p : Nat) (x : XlState), DataStep x.d (xlRange acc o k w endp n p x).d := by
  induction n with
  | zero => exact fun _ x => .refl x.d
  | succ n ih =>
    intro p x
    unfold xlRange
    split
    · exact .refl x.d
    split
    · exact ih _ { x with fails := x.fails ++ _ }
    · have h := x.d.xlOne_data acc o k (p % 2 ^ 48)
      dsimp only
      split
      · exact h.trans (ih _ { x with d := _, fails := _ })
      · split
        · exact h
        · exact h.trans (ih _ { x with d := _, leaves := _, fails := _ })

theorem xlRanges_data (acc : Acc) (o k : Nat) (rs : List Range) (x : XlState) : DataStep x.d (xlRanges acc o k rs x).d :=
  by
  refine DataStep.foldlOn XlState.d _ (fun x r => ?_) rs x
  split
  · exact .refl x.d
  · exact xlRange_data ..

theorem Dev.countXlt_data (d : Dev) (o chk : Nat) : DataStep d (d.countXlt o chk) := .when (d.setPart_data _ _)

theorem XlState.verdict_data (x : XlState) (o : Nat) : DataStep x.d (x.verdict o).1 := by
  unfold XlState.verdict
  split
  · exact .refl x.d
  split
  · exact x.d.countXlt_data _ _
  · exact .refl x.d

/-! Queues, their rings and the completion of packets (11 R239-R249). -/

theorem Dev.readPacket_data (d : Dev) (e : Env) (q : QRef) (slot len : Nat) : DataStep d (d.readPacket e q slot len).1 := by
  refine DataStep.foldlOn RdR.d _ (fun r _ => ?_) _ { d := d }
  exact r.d.readBytes_data _ _ _

theorem Dev.settle_data (d : Dev) (e : Env) (p : Pkt) : DataStep d (d.settle e p) := .unless ((d.drainPkt_data e p).trans (Dev.awaitHeld_data _ _ _))

/-! The barrier (02 R61-R72). -/

theorem Dev.sendRecord_mem (d : Dev) (typ : Byte) (r : List Byte) : MemStep d (d.sendRecord typ r) :=
  .foldl (f := fun d _ => d.supSend _ _) (fun _ _ => .of_eq rfl) _ d

theorem Dev.supApply_mem (d : Dev) (f : Frame) : MemStep d (d.supApply f) := by
  unfold Dev.supApply
  dsimp only
  repeat' split
  all_goals exact .of_eq rfl

theorem Dev.supFrame_mem (d : Dev) (f : Frame) : MemStep d (d.supFrame f) := by
  unfold Dev.supFrame
  refine .unless (.ite (.of_eq rfl) (.ite (.ite (.of_eq rfl) (.of_eq rfl)) ?_))
  refine MemStep.trans (x := Dev.supApply _ f) ((Dev.supApply_mem _ f).after ?_) (.when (.of_eq ?_))
  all_goals rfl

theorem Dev.sendCapIfMoved_mem (d : Dev) : MemStep d d.sendCapIfMoved := .when (.of_eq rfl)

theorem Dev.serveRetained_mem (d : Dev) : MemStep d d.serveRetained := by
  refine MemStep.trans ?_ (.foldl (f := fun d b => d.canSend _ b) (fun _ _ => .of_eq rfl) _ _)
  split <;> exact .of_eq rfl

theorem Dev.fcApply_mem (d : Dev) (f : Frame) : MemStep d (d.fcApply f) := by
  unfold Dev.fcApply
  extract_lets x
  have hx : MemStep d x := .unless (.of_eq rfl)
  clear_value x
  refine hx.trans ?_
  repeat' split
  all_goals exact .of_eq rfl

theorem Dev.fcFrame_mem (d : Dev) (f : Frame) : MemStep d (d.fcFrame f) := by
  unfold Dev.fcFrame
  refine .unless (.ite (.of_eq rfl) (.ite (.ite (.of_eq rfl) (.of_eq rfl)) ?_))
  refine MemStep.trans (x := Dev.fcApply _ f) ((Dev.fcApply_mem _ f).after ?_) (.when (.of_eq ?_))
  all_goals rfl

theorem Dev.retransmit_mem (d : Dev) (side : Side) (seq : BitVec 8) : MemStep d (d.retransmit side seq) := by
  unfold Dev.retransmit
  dsimp only
  repeat' split
  all_goals exact .of_eq rfl

theorem Dev.hostReq?_mem {f : Dev → Dev} (h : ∀ d, MemStep d (f d)) (d : Dev) (fn : Fn) : MemStep d (d.hostReq? fn f) :=
  .ite (d.hostTurn_data.mem.trans (h _)) (.of_eq rfl)

/-! Supplies (02 R39-R50, 03 R74-R88). -/

theorem Dev.suppliesValid_mem (d : Dev) : MemStep d d.suppliesValid := ⟨Mem.fill_wf _ _ _ _⟩

theorem Dev.fcSilent_mem (d : Dev) : MemStep d d.fcSilent := .unless ((Dev.serveRetained_mem _).after rfl)

theorem Dev.enableConverter_mem (d : Dev) : MemStep d d.enableConverter := d.fcSilent_mem.trans (.of_eq rfl)

theorem Dev.wantConverter_mem (d : Dev) : MemStep d d.wantConverter := .ite d.enableConverter_mem ((Dev.fcSilent_mem _).after rfl)

theorem Dev.tripCut_mem (d : Dev) (n c : Nat) : MemStep d (d.tripCut n c) := .when (.of_eq rfl)

theorem Dev.vopRequest_mem (d : Dev) (n : Nat) (v : BitVec 3) (cmd : Option (QRef × BitVec 16)) : MemStep d (d.vopRequest n v cmd) := .of_eq rfl

theorem Dev.vopDone_mem (d : Dev) (n : Nat) : MemStep d (d.vopDone n) := by
  unfold Dev.vopDone
  dsimp only
  repeat' split
  all_goals exact .of_eq rfl

/-! What every operation built from accesses keeps. -/

/-- A relation between states that every access to data respects: what holds of each access holds of every operation built from them. -/
structure Accesses (R : Dev → Dev → Prop) : Prop where
  /-- Nothing done. -/
  refl : ∀ d, R d d
  /-- One after the other. -/
  trans : ∀ {d x y}, R d x → R x y → R d y
  /-- A read of bytes. -/
  readBytes : ∀ (d : Dev) acc a n, R d (d.readBytes acc a n).d
  /-- A write of bytes. -/
  writeBytes : ∀ (d : Dev) acc a b, R d (d.writeBytes acc a b).d
  /-- A range becomes poison. -/
  poisonRange : ∀ (d : Dev) acc a n, R d (d.poisonRange acc a n)
  /-- A read of a packet's unit. -/
  readA : ∀ (d : Dev) p acc a n, R d (d.readA p acc a n).d
  /-- A read of what a packet names. -/
  readP : ∀ (d : Dev) p e a n, R d (d.readP p e a n).d
  /-- A write of what a packet names. -/
  writeP : ∀ (d : Dev) p e a b, R d (d.writeP p e a b).d
  /-- What a packet names becomes poison. -/
  poisonP : ∀ (d : Dev) p e a n, R d (d.poisonP p e a n)
  /-- Events counted. -/
  count : ∀ (d : Dev) o g i n, R d (d.count o g i n)
  /-- Units, partitions and the entropy drawn. -/
  rest : ∀ (d : Dev) units parts free, R d { d with units := units, parts := parts, free := free }

theorem dataAccesses : Accesses DataStep where
  refl := .refl
  trans := .trans
  readBytes d := d.readBytes_data
  writeBytes d := d.writeBytes_data
  poisonRange d := d.poisonRange_data
  readA d := d.readA_data
  readP d := d.readP_data
  writeP d := d.writeP_data
  poisonP d := d.poisonP_data
  count d := d.count_data
  rest _ _ _ _ := .of_eq rfl rfl rfl rfl rfl rfl rfl rfl rfl rfl rfl rfl

section
variable {R : Dev → Dev → Prop} (S : Accesses R)
include S

theorem Accesses.foldl {α : Type} {f : Dev → α → Dev} (h : ∀ d a, R d (f d a)) (l : List α) : ∀ d, R d (l.foldl f d) := by
  induction l with
  | nil => exact S.refl
  | cons a r ih => exact fun d => S.trans (h d a) (ih (f d a))

theorem Accesses.foldlOn {α β : Type} (p : β → Dev) {f : β → α → β} (h : ∀ b a, R (p b) (p (f b a))) (l : List α) :
    ∀ b, R (p b) (p (l.foldl f b)) := by
  induction l with
  | nil => exact fun b => S.refl (p b)
  | cons a r ih => exact fun b => S.trans (h b a) (ih (f b a))

theorem Accesses.draw (d : Dev) : R d d.draw := S.rest d d.units d.parts (d.free + 1)

end

/-- One of two states. -/
theorem ite_step {R : Dev → Dev → Prop} {d a b : Dev} {c : Prop} [Decidable c] (ha : R d a) (hb : R d b) : R d (if c then a else b) := by
  split
  · exact ha
  · exact hb

/-- One of two outcomes. -/
theorem iteOp_step {R : Dev → Dev → Prop} {d : Dev} {a b : OpR} {c : Prop} [Decidable c] (ha : R d a.d) (hb : R d b.d) : R d (if c then a else b).d := by
  split
  · exact ha
  · exact hb

/-- A reservation dropped is a matter of the slots of the KPM and of the counts of a partition. -/
theorem Dev.dropRsv_beside (d : Dev) (k : Nat) : { d.dropRsv k with kpm := { (d.dropRsv k).kpm with slots := d.kpm.slots }, parts := d.parts } = d := by
  unfold Dev.dropRsv
  dsimp only
  split
  · rfl
  · unfold Dev.countRsv
    split <;> rfl

/-! What every operation of a unit keeps. -/

/-- What a unit's work leaves alone but for accesses to data. -/
def Dev.core (d : Dev) : Fuses × Pins × FC × Rails × Sup × Pwr × Pcie × Thm × Tbl Queue × Tbl SnpFn × Lck × Mem × Nat × BitVec 56 :=
  (d.fuse, d.pins, d.fc, d.rails, d.sup, d.pwr, d.pcie, d.thm, d.queues, d.snp, d.lck, d.mem, d.time.scanAt, d.kpm.last)

/-- A relation between states that the operations of the units respect: what holds of accesses, of writes kept back and of changes beside the core holds of every operation built
from them. -/
structure Works where
  /-- The relation. -/
  On : Dev → Dev → Prop
  /-- It holds of accesses. -/
  acc : Accesses On
  /-- The core stays. -/
  rest : ∀ {d x}, x.core = d.core → On d x
  /-- Bytes of a partner or of another module. -/
  putBytes : ∀ (d : Dev) a b, On d { d with mem := d.mem.putList a b }
  /-- An exclusive hold ends. -/
  endHold : ∀ (d : Dev) e k, On d (d.endHold e k)
  /-- The writes kept back are made. -/
  releaseHeld : ∀ (d : Dev) e, On d (d.releaseHeld e)

/-- A relation that the operations on pages and trees respect too, which log events. -/
structure KpmWorks extends Works where
  /-- An event of a KPM is logged. -/
  logKpm : ∀ (d : Dev) k i desc, On d (d.logKpm k i desc)

/-- A relation that work on queues respects too. -/
structure QueueWorks extends Works where
  /-- A queue changes. -/
  setQueue : ∀ (d : Dev) q x, On d (d.setQueue q x)
  /-- The changes of voltage and the snapshots that packets wait for. -/
  setWaits : ∀ (d : Dev) v s, On d { d with pwr := { d.pwr with vopQ := v }, snp := s }

/-- A relation that an ABORT respects, which lets operations of the KPMs run to their ends. -/
structure AbortWorks extends QueueWorks where
  /-- An event of a KPM is logged. -/
  logKpm : ∀ (d : Dev) k i desc, On d (d.logKpm k i desc)

/-- The relation, as one that the operations of the KPMs respect. -/
def AbortWorks.kpm (W : AbortWorks) : KpmWorks := { W.toWorks with logKpm := W.logKpm }

/-- What the operations of the units keep: the core, and the canonical form of memory. -/
def dataWorks : Works where
  On := DataStep
  acc := dataAccesses
  rest h := .of_eq (congrArg (·.1) h) (congrArg (·.2.1) h) (congrArg (·.2.2.1) h) (congrArg (·.2.2.2.1) h) (congrArg (·.2.2.2.2.1) h) (congrArg (·.2.2.2.2.2.1) h)
    (congrArg (·.2.2.2.2.2.2.1) h) (congrArg (·.2.2.2.2.2.2.2.1) h) (congrArg (·.2.2.2.2.2.2.2.2.1) h) (congrArg (·.2.2.2.2.2.2.2.2.2.1) h)
    (congrArg (·.2.2.2.2.2.2.2.2.2.2.1) h) (congrArg (·.2.2.2.2.2.2.2.2.2.2.2.1) h)
  putBytes d a b := d.putBytes_data a b
  endHold d e k := d.endHold_data e k
  releaseHeld d e := d.releaseHeld_data e

section
variable {W : Works}

theorem Works.On.refl (d : Dev) : W.On d d := W.acc.refl d

theorem Works.On.trans {d x y : Dev} (h : W.On d x) (g : W.On x y) : W.On d y := W.acc.trans h g

theorem Works.On.foldl {α : Type} (f : Dev → α → Dev) (h : ∀ d a, W.On d (f d a)) (l : List α) : ∀ d, W.On d (l.foldl f d) := W.acc.foldl h l

theorem Works.On.foldlOn {α β : Type} (p : β → Dev) (f : β → α → β) (h : ∀ b a, W.On (p b) (p (f b a))) (l : List α) : ∀ b, W.On (p b) (p (l.foldl f b)) :=
  W.acc.foldlOn p h l

theorem Works.On.ite {d a b : Dev} {c : Prop} [Decidable c] (ha : c → W.On d a) (hb : ¬c → W.On d b) : W.On d (if c then a else b) := by
  split
  · next h => exact ha h
  · next h => exact hb h

theorem Works.On.when {d a : Dev} {c : Prop} [Decidable c] (ha : W.On d a) : W.On d (if c then a else d) := .ite (fun _ => ha) (fun _ => .refl d)

theorem Works.On.unless {d a : Dev} {c : Prop} [Decidable c] (ha : W.On d a) : W.On d (if c then d else a) := .ite (fun _ => .refl d) (fun _ => ha)

/-- Either branch of a choice between results that carry the module. -/
theorem Works.On.iteFst {β : Type} {d : Dev} {a b : Dev × β} {c : Prop} [Decidable c] (ha : c → W.On d a.1) (hb : ¬c → W.On d b.1) :
    W.On d (if c then a else b).1 := by
  split
  · next h => exact ha h
  · next h => exact hb h

/-- Either branch of a choice between outcomes. -/
theorem Works.On.iteOp {d : Dev} {a b : OpR} {c : Prop} [Decidable c] (ha : W.On d a.d) (hb : W.On d b.d) : W.On d (if c then a else b).d := by
  split
  · exact ha
  · exact hb

/-- Either branch of a choice between results of a search. -/
theorem Works.On.iteArb {d : Dev} {a b : ArbR} {c : Prop} [Decidable c] (ha : W.On d a.d) (hb : W.On d b.d) : W.On d (if c then a else b).d := by
  split
  · exact ha
  · exact hb

/-- The outcome that carries a module. -/
theorem Works.On.op {d x : Dev} (h : W.On d x) {st : BitVec 16} {res : Nat} {wrote : List (Nat × Nat)} : W.On d (OpR.mk x st res wrote).d := h

/-- A pair that carries a module. -/
theorem Works.On.fst {β : Type} {d x : Dev} (h : W.On d x) {b : β} : W.On d (x, b).1 := h

/-! The operations that the units share. -/

theorem Dev.count_on (d : Dev) (o : Option Nat) (g i n : Nat) : W.On d (d.count o g i n) := W.acc.count d o g i n
theorem Dev.readBytes_on (d : Dev) (acc : Acc) (a n : Nat) : W.On d (d.readBytes acc a n).d := W.acc.readBytes d acc a n
theorem Dev.writeBytes_on (d : Dev) (acc : Acc) (a : Nat) (b : List Byte) : W.On d (d.writeBytes acc a b).d := W.acc.writeBytes d acc a b
theorem Dev.poisonRange_on (d : Dev) (acc : Acc) (a n : Nat) : W.On d (d.poisonRange acc a n) := W.acc.poisonRange d acc a n
theorem Dev.readP_on (d : Dev) (p : Pkt) (e : Env) (a n : Nat) : W.On d (d.readP p e a n).d := W.acc.readP d p e a n
theorem Dev.writeP_on (d : Dev) (p : Pkt) (e : Env) (a : Nat) (b : List Byte) : W.On d (d.writeP p e a b).d := W.acc.writeP d p e a b
theorem Dev.endHold_on (d : Dev) (e : Env) (k : Nat) : W.On d (d.endHold e k) := W.endHold d e k
theorem Dev.awaitHeld_on (d : Dev) (e : Env) (sel : HeldW → Bool) : W.On d (d.awaitHeld e sel) := .foldl _ (fun d _ => d.endHold_on _ _) _ d
theorem Dev.releaseHeld_on (d : Dev) (e : Env) : W.On d (d.releaseHeld e) := W.releaseHeld d e
theorem Dev.putBytes_on (d : Dev) (a : Nat) (b : List Byte) : W.On d { d with mem := d.mem.putList a b } := W.putBytes d a b
theorem Dev.setDisp_on (d : Dev) (x : Disp) : W.On d { d with disp := x } := W.rest rfl
theorem Dev.setLnk_on (d : Dev) (x : Lnk) : W.On d { d with lnk := x } := W.rest rfl
theorem Dev.setZf_on (d : Dev) (x : Zf) : W.On d { d with zf := x } := W.rest rfl
theorem Dev.setDma_on (d : Dev) (x : Tbl DmaCx) : W.On d { d with dma := x } := W.rest rfl
theorem Dev.setPart_on (d : Dev) (o : Nat) (x : Part) : W.On d (d.setPart o x) := W.rest rfl
theorem Dev.setPool_on (d : Dev) (k : Nat) (x : Pool) : W.On d (d.setPool k x) := W.rest rfl
theorem Dev.setSlot_on (d : Dev) (k : Nat) (x : KSlot) : W.On d (d.setSlot k x) := W.rest rfl
theorem Dev.setChan_on (d : Dev) (k : Nat) (x : DmaCh) : W.On d (d.setChan k x) := W.rest rfl
theorem Dev.emit_on (d : Dev) (o : Out) : W.On d (d.emit o) := W.rest rfl
theorem Dev.modPkt_on (d : Dev) (o : Nat) (f : Pkt → Pkt) : W.On d (d.modPkt o f) := W.rest rfl
theorem Dev.dropRsv_on (d : Dev) (k : Nat) : W.On d (d.dropRsv k) := W.rest (congrArg Dev.core (d.dropRsv_beside k) :)
theorem Dev.finish_on (d : Dev) (o : Nat) (st : BitVec 16) (r : Nat) : W.On d (d.finish o st r) := d.modPkt_on _ _
theorem Dev.close_on (d : Dev) (p : Pkt) (st : BitVec 16) (r : Nat) : W.On d (d.close p st r) := W.rest (congrArg Dev.core (d.close_besideDone p st r) :)
theorem Dev.conclude_on (p : Pkt) (r : OpR) : W.On r.d (Dev.conclude p r) := (r.d.close_on _ _ _).trans (Dev.modPkt_on _ _ _)
theorem Dev.sendAll_on (d : Dev) : W.On d d.sendAll := W.rest (congrArg Dev.core d.sendAll_besideSends :)

/-! A DMA channel's job (13 R281-R289). -/

theorem Dev.modJob_on (d : Dev) (k : Nat) (f : DmaJob → DmaJob) : W.On d (d.modJob k f) := d.setChan_on _ _

theorem Dev.stopChan_on (d : Dev) (k : Nat) (st : BitVec 16) : W.On d (d.stopChan k st) := by
  unfold Dev.stopChan
  split
  · exact .refl d
  · exact d.setChan_on _ _

theorem Dev.dmaPiece_on (d : Dev) (k : Nat) (q : QRef) (tag : BitVec 16) (off : Nat) (x : List Byte) : W.On d (d.dmaPiece k q tag off x) :=
  .when (d.modJob_on _ _)

theorem Dev.dmaReadFail_on (d : Dev) (k : Nat) (q : QRef) (tag : BitVec 16) (off n : Nat) (st : BitVec 16) :
    W.On d (d.dmaReadFail k q tag off n st) := .when (d.modJob_on _ _)

theorem Dev.dmaPoison_on (d : Dev) (acc : Acc) (j : DmaJob) : W.On d (d.dmaPoison acc j) := by
  unfold Dev.dmaPoison
  split
  · exact .when (d.poisonRange_on _ _ _)
  · exact .refl d

end

theorem Dev.modJob_data (d : Dev) (k : Nat) (f : DmaJob → DmaJob) : DataStep d (d.modJob k f) := Dev.modJob_on (W := dataWorks) d k f

theorem Dev.dmaPiece_data (d : Dev) (k : Nat) (q : QRef) (tag : BitVec 16) (off : Nat) (x : List Byte) : DataStep d (d.dmaPiece k q tag off x) :=
  Dev.dmaPiece_on (W := dataWorks) d k q tag off x

theorem Dev.dmaReadFail_data (d : Dev) (k : Nat) (q : QRef) (tag : BitVec 16) (off n : Nat) (st : BitVec 16) : DataStep d (d.dmaReadFail k q tag off n st) :=
  Dev.dmaReadFail_on (W := dataWorks) d k q tag off n st

theorem Dev.dmaWritten_data (d : Dev) (k ord dno off a : Nat) (st : BitVec 16) : DataStep d (d.dmaWritten k ord dno off a st) :=
  .ite (fun _ => d.modJob_data _ _) (fun _ => .when (d.modPkt_data _ _))

end Sys2Proof.Machine
end

section
/-!
Operations on links, messages between modules and the partner port keep memory in its canonical form, and reach nothing but data.
-/
namespace Sys2Proof.Machine

variable {W : Works}

/-! Requests of this module (16 R349-R358). -/

theorem Dev.answerPkt_data (d : Dev) (q : QRef) (tag st : BitVec 16) (res : Nat) : DataStep d (d.answerPkt q tag st res) := by
  unfold Dev.answerPkt
  split
  · exact .when (d.close_data _ _ _)
  · exact .refl d

theorem Dev.setSend_data (d : Dev) (j : SendJob) : DataStep d (d.setSend j) := d.setDisp_data _

theorem Dev.endSend_data (d : Dev) (j : SendJob) (st : BitVec 16) : DataStep d (d.endSend j st) := (d.setDisp_data _).trans (Dev.answerPkt_data _ _ _ _ _)

theorem Dev.request_on (d : Dev) (r : Rid) : W.On d (d.request r) := d.setLnk_on _

theorem Dev.request_data (d : Dev) (r : Rid) : DataStep d (d.request r) :=
  Dev.request_on (W := dataWorks) d r

theorem Dev.dropRid_on (d : Dev) (rid : BitVec 16) (late : Bool) : W.On d (d.dropRid rid late) := d.setLnk_on _

theorem Dev.dropRid_data (d : Dev) (rid : BitVec 16) (late : Bool) : DataStep d (d.dropRid rid late) :=
  Dev.dropRid_on (W := dataWorks) d rid late

theorem Dev.ridStored_data (d : Dev) (r : Rid) (data : List Byte) : DataStep d (d.ridStored r data) := .unless (d.putBytes_data _ _)

theorem Dev.ridDone_data (d : Dev) (r : Rid) (st : BitVec 16) (data : List Byte) : DataStep d (d.ridDone r st data) := by
  unfold Dev.ridDone
  extract_lets x
  have hx : DataStep d x := .unless (d.ridStored_data r data)
  clear_value x
  refine hx.trans ?_
  split
  · exact x.draw_data.trans (Dev.answerPkt_data _ _ _ _ _)
  · exact x.answerPkt_data _ _ _ _
  · exact .ite (fun _ => x.dmaReadFail_data _ _ _ _ _ _) (fun _ => (x.dmaPiece_data _ _ _ _ _).trans (.when (.when (Dev.modJob_data _ _ _))))
  · exact x.dmaWritten_data _ _ _ _ _ _
  · split
    · exact .refl x
    · extract_lets failed j drop y k z
      have hy : DataStep x y := DataStep.foldl _ (fun d r => d.dropRid_data r.rid true) drop x
      have hz : DataStep x z := hy.trans (Dev.setSend_data _ _)
      clear_value z
      refine hz.trans (.when (.ite (fun _ => z.endSend_data _ _) (fun _ => .ite (fun _ => ?_) (fun _ => z.endSend_data _ _))))
      exact (z.setSend_data _).trans (Dev.request_data _ _)
  · split
    · exact .refl x
    · exact x.endSend_data _ _

theorem Dev.dispatch_data (n : Nat) : ∀ (d : Dev) (m : Msg) (sends : Nat) (owner : Option Nat), DataStep d (d.dispatch m sends owner n) := by
  induction n with
  | zero => exact fun d m _ _ => d.emit_data _
  | succ n ih =>
    intro d m sends owner
    unfold Dev.dispatch
    split
    · exact d.enqueue_data _ _
    · refine .ite (fun _ => d.emit_data _) (fun _ => .ite (fun _ => ?_) (fun _ => ih _ _ _ _))
      split
      · exact (d.dropRid_data _ _).trans (Dev.ridDone_data _ _ _ _)
      · exact d.emit_data _

theorem Dev.sendDue_data (n : Nat) : ∀ d : Dev, DataStep d (d.sendDue n) := by
  induction n with
  | zero => exact DataStep.refl
  | succ n ih =>
    intro d
    unfold Dev.sendDue
    split
    · exact .refl d
    · exact (d.setLnk_data _).trans ((Dev.dispatch_data _ _ _ _ _).trans (ih _))

theorem Dev.sendAll_data (d : Dev) : DataStep d d.sendAll := Dev.sendDue_data _ d

theorem Dev.endRid_data (d : Dev) (r : Rid) (late : Bool) (st : BitVec 16) (data : List Byte) : DataStep d (d.endRid r late st data) :=
  ((d.dropRid_data _ _).trans (Dev.ridDone_data _ _ _ _)).trans (Dev.sendAll_data _)

theorem Dev.abandon_on (d : Dev) (hit : QRef → BitVec 16 → Bool) : W.On d (d.abandon hit) := by
  unfold Dev.abandon
  extract_lets l x
  have hx : W.On d x := Works.On.foldl _ (fun d r => d.dropRid_on _ _) l d
  clear_value x
  exact hx.trans (.unless (Dev.sendAll_on _))

/-! Links (16 R345-R348). -/

theorem Dev.failover_data (d : Dev) (l : List TxMsg) : DataStep d (d.failover l) := by
  have send (x : Dev) (t : TxMsg) : DataStep x (x.dispatch (if t.sends != 0 && t.msg.op != 5 then { t.msg with dup := true } else t.msg) t.sends t.owner 2) :=
    x.dispatch_data ..
  exact (DataStep.foldl _ send l d).trans (.unless (Dev.raiseLnk_data _ _))

theorem Dev.dropLink_data (d : Dev) (l : Nat) (st : BitVec 3) : DataStep d (d.dropLink l st) := by
  unfold Dev.dropLink
  extract_lets x times held d1 d2 d3
  have h1 : DataStep d d1 := d.setLink_data _ _
  clear_value d1
  have h2 : DataStep d d2 := h1.trans (Dev.raiseLnk_data _ _)
  clear_value d2
  have h3 : DataStep d d3 := h2.trans (.when (Dev.publishLive_data _))
  exact h3.trans (Dev.failover_data _ _)

theorem Dev.linkUp_data (d : Dev) (l : Nat) (node : BitVec 8) (peer : BitVec 7) : DataStep d (d.linkUp l node peer) :=
  .when ((d.setLink_data _ _).trans (Dev.raiseLnk_data _ _))

theorem Dev.replayLink_data (d : Dev) (l : Nat) : DataStep d (d.replayLink l) := by
  refine .unless ((d.setLink_data _ _).trans (.ite (fun _ => Dev.dropLink_data _ _ _) (fun _ => ?_)))
  exact DataStep.foldl _ (fun d _ => (d.emit_data _).trans (Dev.count_data _ _ _ _ _)) _ _

theorem Dev.rxUnit_data (d : Dev) (l vc : Nat) (u : List Byte) : DataStep d (d.rxUnit l vc u) :=
  .ite (fun _ => (d.setLink_data _ _).trans (Dev.setLnk_data _ _)) (fun _ => d.setLink_data _ _)

theorem Dev.freeHeld_data (d : Dev) (h : Held) (owner : Option Nat) : DataStep d (d.freeHeld h owner) :=
  ((d.count_data _ _ _ _).trans (Dev.setLnk_data _ _)).trans (.when (Dev.setLink_data _ _ _))

theorem Dev.answerFlit_data (d : Dev) (l : Nat) (nak : Bool) : DataStep d (d.answerFlit l nak) := .when ((d.sendFlit_data _ _).trans (Dev.pump_data _ _ _))

/-- A flit received: refused with a replay request, passed over, or taken unit by unit. -/
theorem Dev.rxFlit_data (d : Dev) (l : Nat) (f : List Byte) (fec : FecEnv) : DataStep d (d.rxFlit l f fec) := by
  unfold Dev.rxFlit
  extract_lets x d1 src ack d2 d3 y d4 c d5 d6 d7
  refine .unless ?_
  have h1 : DataStep d d1 := d.setLink_data _ _
  refine .ite (fun _ => ?_) (fun _ => ?_)
  · exact h1.trans (((Dev.setLink_data _ _ _).trans (Dev.count_data _ _ _ _ _)).trans (Dev.answerFlit_data _ _ _))
  have h2 : DataStep d d2 := h1.trans (Dev.setLink_data _ _ _)
  have h3 : DataStep d d3 := h2.trans (.when (Dev.replayLink_data _ _))
  clear_value d3
  refine .ite (fun _ => h3) (fun _ => .ite (fun _ => ?_) (fun _ => ?_))
  · have h4 : DataStep d d4 := h3.trans (Dev.count_data _ _ _ _ _)
    exact h4.trans (.unless (.ite (fun _ => Dev.answerFlit_data _ _ _) (fun _ => (Dev.setLink_data _ _ _).trans (Dev.answerFlit_data _ _ _))))
  · have h5 : DataStep d d5 := h3.trans (Dev.setLink_data _ _ _)
    have h6 : DataStep d d6 := h5.trans (Dev.count_data _ _ _ _ _)
    have h7 : DataStep d6 d7 := DataStep.foldl _ (fun d _ => .ite (fun _ => d.count_data _ _ _ _) (fun _ => d.rxUnit_data _ _ _)) _ d6
    exact (h6.trans h7).trans (Dev.answerFlit_data _ _ _)

/-! Messages of other modules (16 R350-R361). -/

theorem Dev.respond_data (d : Dev) (m : Msg) (owner : Option Nat) (status : Nat) (data : List Byte) : DataStep d (d.respond m owner status data) :=
  d.dispatch_data _ _ _ _

theorem Dev.atomicAt_data (d : Dev) (acc : Acc) (a op : Nat) (wide : Bool) (x y : Nat) : DataStep d (d.atomicAt acc a op wide x y).1 :=
  .iteFst (fun _ => d.readBytes_data _ _ _) (fun _ => (d.readBytes_data _ _ _).trans (Dev.writeBytes_data _ _ _ _))

theorem Dev.execRemote_data (d : Dev) (e : Env) (o : Nat) (m : Msg) : DataStep d (d.execRemote e o m).1 := by
  unfold Dev.execRemote
  refine .iteFst (fun _ => .refl d) (fun _ => .iteFst (fun _ => .refl d) (fun _ => ?_))
  split
  · exact d.readBytes_data _ _ _
  · exact d.atomicAt_data _ _ _ _ _ _
  · exact d.writeBytes_data _ _ _

theorem Dev.recordRemote_data (d : Dev) (e : Env) (o k : Nat) (m : Msg) : DataStep d (d.recordRemote e o k m) :=
  ((d.execRemote_data _ _ _).trans (Dev.setLnk_data _ _)).trans (Dev.respond_data _ _ _ _ _)

theorem Dev.tracked_data (d : Dev) (e : Env) (o : Nat) (m : Msg) : DataStep d (d.tracked e o m) := by
  unfold Dev.tracked
  refine .ite (fun _ => (d.setLnk_data _).trans (Dev.recordRemote_data _ _ _ _ _)) (fun _ => .ite (fun _ => ?_) (fun _ => ?_))
  · split
    · exact d.recordRemote_data _ _ _ _
    · exact (d.setLnk_data _).trans (Dev.respond_data _ _ _ _ _)
  · exact (d.setLnk_data _).trans (Dev.respond_data _ _ _ _ _)

theorem Dev.dropHeld_data (d : Dev) (h : Held) : DataStep d (d.dropHeld h) :=
  (((d.freeHeld_data _ _).trans (Dev.emit_data _ _)).trans (Dev.setLnk_data _ _)).trans (.unless (Dev.respond_data _ _ _ _ _))

theorem Dev.forward_data (d : Dev) (h : Held) : DataStep d (d.forward h) :=
  .ite (fun _ => d.dropHeld_data h) (fun _ => (d.freeHeld_data _ _).trans (Dev.dispatch_data _ _ _ _ _))

theorem Dev.meetSession_data (d : Dev) (m : Msg) : DataStep d (d.meetSession m) := .unless ((d.setLnk_data _).trans (Dev.raiseLnk_data _ _))

theorem Dev.inRequest_data (d : Dev) (h : Held) (e : Env) : DataStep d (d.inRequest h e) := by
  unfold Dev.inRequest
  have refuse (x : Dev) (st : Nat) : DataStep x ((x.freeHeld h none).respond h.msg none st []) := (x.freeHeld_data _ _).trans (Dev.respond_data _ _ _ _ _)
  extract_lets m x
  refine .ite (fun _ => d.forward_data h) (fun _ => .ite (fun _ => refuse d 7) (fun _ => ?_))
  have hx : DataStep d x := d.meetSession_data m
  clear_value x
  split
  · exact hx.trans (refuse x 5)
  · have hy := fun o => (x.freeHeld_data h (some o)).trans (Dev.countZf_data _ (some o) e.zf)
    refine .ite (fun _ => (hx.trans (hy _)).trans (Dev.tracked_data _ _ _ _)) (fun _ => ?_)
    exact ((hx.trans (hy _)).trans (Dev.execRemote_data _ _ _ _)).trans (Dev.respond_data _ _ _ _ _)

theorem Dev.inResponse_data (d : Dev) (h : Held) : DataStep d (d.inResponse h) := by
  unfold Dev.inResponse
  have free (o : Option Nat) : DataStep d (d.freeHeld h o) := d.freeHeld_data h o
  refine .ite (fun _ => d.forward_data h) (fun _ => ?_)
  dsimp only
  split
  · exact .ite (fun _ => (free _).trans (Dev.setLnk_data _ _)) (fun _ => (free _).trans (Dev.endRid_data _ _ _ _ _))
  · exact .ite (fun _ => (free _).trans (Dev.setLnk_data _ _)) (fun _ => (free _).trans (Dev.setLnk_data _ _))

/-! The partner port (08 R189-R194). -/

theorem Dev.prtAsk_on (d : Dev) (r : PrtReq) : W.On d (d.prtAsk r) := d.setZf_on _

theorem Dev.prtAsk_data (d : Dev) (r : PrtReq) : DataStep d (d.prtAsk r) :=
  Dev.prtAsk_on (W := dataWorks) d r

theorem Dev.prtPump_on (n : Nat) : ∀ d : Dev, W.On d (d.prtPump n) := by
  induction n with
  | zero => exact Works.On.refl
  | succ n ih =>
    intro d
    unfold Dev.prtPump
    split
    · split
      · exact .refl d
      · exact ((d.setZf_on _).trans (Dev.emit_on _ _)).trans (ih _)
    · exact .refl d

theorem Dev.prtPump_data (n : Nat) : ∀ d : Dev, DataStep d (d.prtPump n) :=
  Dev.prtPump_on (W := dataWorks) n

theorem Dev.prtRead_data (d : Dev) (cx ch : Nat) (j : DmaJob) (a off n : Nat) : DataStep d (d.prtRead cx ch j a off n) :=
  (DataStep.foldl _ (fun d _ => d.prtAsk_data _) _ d).trans (Dev.prtPump_data _ _)

theorem Dev.prtWrite_on (d : Dev) (cx ch : Nat) (j : DmaJob) (a off : Nat) (b : List Byte) : W.On d (d.prtWrite cx ch j a off b).1 :=
  ((d.putBytes_on _ b).trans (Works.On.foldl _ (fun d _ => d.prtAsk_on _) _ _)).trans (Dev.prtPump_on _ _)

theorem Dev.prtEnd_data (d : Dev) (r : PrtReq) (st : BitVec 16) (data : List Byte) : DataStep d (d.prtEnd r st data) :=
  .unless (.ite (fun _ => d.dmaWritten_data _ _ _ _ _ _) (fun _ => .ite (fun _ => d.dmaReadFail_data _ _ _ _ _ _) (fun _ => d.dmaPiece_data _ _ _ _ _)))

theorem Dev.prtResponse_data (d : Dev) (m : List Byte) : DataStep d (d.prtResponse m) := by
  unfold Dev.prtResponse
  refine .unless (.ite (fun _ => d.setZf_data _) (fun _ => .unless ?_))
  dsimp only
  split
  · exact d.setZf_data _
  · refine .ite (fun _ => ?_) (fun _ => ?_)
    · exact ((d.setZf_data _).trans (Dev.setZf_data _ _)).trans (Dev.prtPump_data _ _)
    · exact ((d.setZf_data _).trans (Dev.prtEnd_data _ _ _ _)).trans (Dev.prtPump_data _ _)

theorem Dev.prtTimeout_data (d : Dev) (t : Nat) : DataStep d (d.prtTimeout t) := by
  unfold Dev.prtTimeout
  split
  · exact .refl d
  · exact ((d.setZf_data _).trans (Dev.prtEnd_data _ _ _ _)).trans (Dev.prtPump_data _ _)

theorem Dev.prtInbound_data (d : Dev) (m : List Byte) (e : Env) : DataStep d (d.prtInbound m e) := by
  unfold Dev.prtInbound
  refine .unless (.ite (fun _ => d.setZf_data _) (fun _ => .unless (.ite (fun _ => ?_) (fun _ => .ite (fun _ => ?_) (fun _ => ?_)))))
  · exact (d.setZf_data _).trans (Dev.emit_data _ _)
  · exact (d.readBytes_data _ _ _).trans (Dev.emit_data _ _)
  · exact (d.writeBytes_data _ _ _).trans (Dev.emit_data _ _)

theorem Dev.setSysZf_data (d : Dev) (x : Sys) (z : Zf) : DataStep d { d with sys := x, zf := z } :=
  .of_eq rfl rfl rfl rfl rfl rfl rfl rfl rfl rfl rfl rfl

theorem Dev.partnerLost_data (d : Dev) (st : BitVec 16) : DataStep d (d.partnerLost st) :=
  .unless (((d.setSysZf_data _ _).trans (DataStep.foldl _ (fun d _ => d.prtEnd_data _ _ _) _ _)).trans (Dev.breakClass_data _ _))

/-! DMA (spec/13_dma.md). -/

theorem Dev.setDma_data (d : Dev) (x : Tbl DmaCx) : DataStep d { d with dma := x } := .of_eq rfl rfl rfl rfl rfl rfl rfl rfl rfl rfl rfl rfl

theorem Dev.countDma_on (d : Dev) (n : Nat) (st : BitVec 16) : W.On d (d.countDma n st) :=
  .ite (fun _ => d.setDma_on _) (fun _ => .when (d.setDma_on _))

theorem Dev.countDma_data (d : Dev) (n : Nat) (st : BitVec 16) : DataStep d (d.countDma n st) :=
  Dev.countDma_on (W := dataWorks) d n st

theorem Dev.nextJob_on (d : Dev) (n ch : Nat) : W.On d (d.nextJob n ch) := by
  unfold Dev.nextJob
  dsimp only
  repeat' split
  · exact d.setChan_on _ _
  · exact d.setChan_on _ _
  · exact .refl d

theorem Dev.nextJob_data (d : Dev) (n ch : Nat) : DataStep d (d.nextJob n ch) :=
  Dev.nextJob_on (W := dataWorks) d n ch

theorem Dev.dmaBegin_data (d : Dev) (p : Pkt) : DataStep d (d.dmaBegin p) :=
  .ite (fun _ => d.close_data _ _ _) (fun _ => .ite (fun _ => d.close_data _ _ _) (fun _ => .unless ((d.setChan_data _ _).trans (Dev.nextJob_data _ _ _))))

theorem Dev.endJob_on (d : Dev) (n ch : Nat) (st : BitVec 16) (res : Nat) : W.On d (d.endJob n ch st res) := by
  unfold Dev.endJob
  dsimp only
  split
  · exact .refl d
  · refine .trans ?_ (Dev.nextJob_on _ _ _)
    split
    · exact ((d.setChan_on _ _).trans (Dev.finish_on _ _ _ _)).trans (Dev.modPkt_on _ _ _)
    · exact d.setChan_on _ _

theorem Dev.endJob_data (d : Dev) (n ch : Nat) (st : BitVec 16) (res : Nat) : DataStep d (d.endJob n ch st res) :=
  Dev.endJob_on (W := dataWorks) d n ch st res

theorem Dev.refuseDesc_data (d : Dev) (n ch : Nat) (j : DmaJob) (st : BitVec 16) (res : Nat) : DataStep d (d.refuseDesc n ch j st res) :=
  (d.countDma_data _ _).trans (Dev.endJob_data _ _ _ _ _)

theorem Dev.writeBack_on (d : Dev) (acc : Acc) (j : DmaJob) (st : BitVec 16) (ok : Bool) (crc : Nat) : W.On d (d.writeBack acc j st ok crc) :=
  (d.writeBytes_on _ _ _).trans (Dev.writeBytes_on _ _ _ _)

theorem Dev.writeBack_data (d : Dev) (acc : Acc) (j : DmaJob) (st : BitVec 16) (ok : Bool) (crc : Nat) : DataStep d (d.writeBack acc j st ok crc) :=
  Dev.writeBack_on (W := dataWorks) d acc j st ok crc

theorem Dev.startDesc_data (d : Dev) (e : Env) (n ch : Nat) : DataStep d (d.startDesc e n ch) := by
  unfold Dev.startDesc
  dsimp only
  split
  · exact .refl d
  next j _ =>
    refine .unless (.ite (fun _ => d.endJob_data _ _ _ _) (fun _ => .ite (fun _ => d.refuseDesc_data _ _ _ _ _) (fun _ =>
      .ite (fun _ => d.refuseDesc_data _ _ _ _ _) (fun _ => (d.readBytes_data (j.acc n e) (d.canon j.desc) 64).trans ?_))))
    generalize d.readBytes (j.acc n e) (d.canon j.desc) 64 = r
    refine .ite (fun _ => Dev.refuseDesc_data _ _ _ _ _ _) (fun _ => .ite (fun _ => Dev.refuseDesc_data _ _ _ _ _ _) (fun _ =>
      .ite (fun _ => ?_) (fun _ => Dev.setChan_data _ _ _)))
    exact (Dev.writeBack_data _ _ _ _ _ _).trans (Dev.refuseDesc_data _ _ _ _ _ _)

theorem readUntil_on (o : Nat) (acc : Acc) (f : Nat) : ∀ (a n : Nat) (x : RdR), W.On x.d (readUntil o acc f a n x).d := by
  induction f with
  | zero => exact fun _ _ x => .refl x.d
  | succ f ih =>
    intro a n x
    unfold readUntil
    dsimp only
    repeat' split
    · exact .refl x.d
    · exact .refl x.d
    · exact x.d.readBytes_on _ _ _
    · exact (x.d.readBytes_on _ _ _).trans (ih _ _ { d := (x.d.readBytes acc a _).d, bytes := _, st := _ })

theorem readUntil_data (o : Nat) (acc : Acc) (f : Nat) : ∀ (a n : Nat) (x : RdR), DataStep x.d (readUntil o acc f a n x).d :=
  readUntil_on (W := dataWorks) o acc f

theorem writeUntil_on (o : Nat) (acc : Acc) (l : List (Nat × Nat × List Byte)) : ∀ x : WrR, W.On x.d (writeUntil o acc l x).d := by
  induction l with
  | nil => exact fun x => .refl x.d
  | cons p l ih =>
    intro x
    unfold writeUntil
    dsimp only
    split
    · exact .refl x.d
    split
    · exact .refl x.d
    · refine .trans ?_ (ih _)
      exact x.d.writeBytes_on _ _ _

theorem writeUntil_data (o : Nat) (acc : Acc) (l : List (Nat × Nat × List Byte)) : ∀ x : WrR, DataStep x.d (writeUntil o acc l x).d :=
  writeUntil_on (W := dataWorks) o acc l

theorem Dev.dmaAskRemote_data (d : Dev) (n ch : Nat) (j : DmaJob) (a off m : Nat) : DataStep d (d.dmaAskRemote n ch j a off m) :=
  (DataStep.foldl _ (fun d _ => d.request_data _) _ d).trans (Dev.sendAll_data _)

theorem Dev.readBlock_data (d : Dev) (e : Env) (n ch : Nat) : DataStep d (d.readBlock e n ch) := by
  unfold Dev.readBlock
  refine .unless ?_
  split
  · exact .refl d
  have fail (x : Dev) (k : Nat) (f : DmaJob → DmaJob) : DataStep x (x.modJob k f) := x.modJob_data k f
  extract_lets src x m a b y
  have hy : DataStep d y := (d.setDma_data _).trans (Dev.setChan_data _ _ _)
  clear_value y
  refine hy.trans (.ite (fun _ => ?_) (fun _ => ?_))
  · exact .ite (fun _ => fail _ _ _) (fun _ => .ite (fun _ => fail _ _ _) (fun _ => Dev.dmaAskRemote_data _ _ _ _ _ _ _))
  · split
    · exact .ite (fun _ => fail _ _ _) (fun _ => (DataStep.when (fail _ _ _)).trans (Dev.prtRead_data _ _ _ _ _ _ _))
    · exact ((readUntil_data _ _ _ _ _ ⟨_, [], sOk, 0⟩).trans ((Dev.dmaPiece_data _ _ _ _ _ _).trans (fail _ _ _))).trans
        (.when (Dev.dmaReadFail_data _ _ _ _ _ _ _))

theorem Dev.writeBlock_on (d : Dev) (e : Env) (n ch : Nat) : W.On d (d.writeBlock e n ch) := by
  have job (x : Dev) (k : Nat) (f : DmaJob → DmaJob) : W.On x (x.modJob k f) := x.modJob_on k f
  unfold Dev.writeBlock
  extract_lets k
  split
  · exact .refl d
  split
  · exact .refl d
  extract_lets a data useCrc x w y
  have hx : W.On d x := job d _ _
  clear_value x
  refine .unless (.ite (fun _ => hx) (fun _ => hx.trans (.ite (fun _ => ?_) (fun _ => ?_))))
  · refine .ite (fun _ => job _ _ _) (fun _ => .ite (fun _ => job _ _ _) (fun _ => ?_))
    exact ((job _ _ _).trans (Dev.request_on _ _)).trans (Dev.sendAll_on _)
  split
  · refine .ite (fun _ => job _ _ _) (fun _ => .ite (fun _ => job _ _ _) (fun _ => ?_))
    exact ((Dev.prtWrite_on _ _ _ _ _ _ _).trans (job _ _ _)).trans (.when (job _ _ _))
  · have hw : W.On x w.d := writeUntil_on _ _ _ { d := x }
    have hy : W.On x y := hw.trans (job _ _ _)
    exact hy.trans (.when (job _ _ _))

theorem Dev.writeBlock_data (d : Dev) (e : Env) (n ch : Nat) : DataStep d (d.writeBlock e n ch) :=
  Dev.writeBlock_on (W := dataWorks) d e n ch

theorem Dev.readSpan_on (d : Dev) (o : Nat) (acc : Acc) (a n : Nat) : W.On d (d.readSpan o acc a n).d := by
  unfold Dev.readSpan
  repeat' split
  · exact d.readBytes_on _ _ _
  · exact .refl d
  · exact d.readBytes_on _ _ _
  · exact .refl d
  · exact readUntil_on _ _ _ _ _ { d := d }

theorem Dev.writeSpan_on (d : Dev) (o : Nat) (acc : Acc) (a : Nat) (b : List Byte) : W.On d (d.writeSpan o acc a b).d := by
  unfold Dev.writeSpan
  repeat' split
  · exact d.writeBytes_on _ _ _
  · exact .refl d
  · exact d.writeBytes_on _ _ _
  · exact .refl d
  · exact writeUntil_on _ _ _ { d := d }

theorem Dev.descTail_on (d : Dev) (e : Env) (n ch : Nat) : W.On d (d.descTail e n ch) := by
  unfold Dev.descTail
  extract_lets k
  split
  · exact .refl d
  next j _ =>
    extract_lets acc y crc x j1 a app w j2
    have hy : W.On d y := d.dmaPoison_on acc j
    clear_value y
    have hx : W.On d x.d := by
      dsimp only [x]
      split
      · exact hy.trans (y.readSpan_on _ _ _ _)
      · exact hy
    clear_value x
    have hw : W.On d w.d := by
      dsimp only [w]
      split
      · exact hx.trans (Dev.writeSpan_on _ _ _ _ _)
      · exact hx
    clear_value w
    exact .unless (hw.trans (Dev.setChan_on _ _ _))

theorem Dev.endDesc_on (d : Dev) (e : Env) (n ch : Nat) : W.On d (d.endDesc e n ch) := by
  unfold Dev.endDesc
  extract_lets k x
  split
  · exact .refl d
  have hx : W.On d x := d.descTail_on e n ch
  clear_value x
  refine .unless (hx.trans ?_)
  split
  · exact .refl x
  · extract_lets crc done expect st y z moved j src w
    have hy : W.On x y := x.writeBack_on _ _ _ _ _
    have hz : W.On x z := hy.trans (y.countDma_on _ _)
    have hw : W.On x w := hz.trans (z.setChan_on _ _)
    clear_value w
    exact .unless (hw.trans (.ite (fun _ => w.setChan_on _ _) (fun _ => w.endJob_on _ _ _ _)))

theorem Dev.endDesc_data (d : Dev) (e : Env) (n ch : Nat) : DataStep d (d.endDesc e n ch) :=
  Dev.endDesc_on (W := dataWorks) d e n ch

theorem Dev.drainChan_on (e : Env) (n ch f : Nat) : ∀ d : Dev, W.On d (d.drainChan e n ch f) := by
  induction f with
  | zero => exact Works.On.refl
  | succ f ih =>
    intro d
    unfold Dev.drainChan
    dsimp only
    split
    · exact .refl d
    · refine .ite (fun _ => (d.writeBlock_on _ _ _).trans (ih _)) (fun _ => .ite (fun _ => .trans ?_ (Dev.endDesc_on _ _ _ _)) (fun _ => d.endJob_on _ _ _ _))
      split
      · exact ((d.modJob_on _ _).trans (Dev.descTail_on _ _ _ _)).trans (Dev.awaitHeld_on _ _ _)
      · exact d.modJob_on _ _

end Sys2Proof.Machine
end

section
/-!
Operations on KV pages and the Arbor keep memory in its canonical form, and reach nothing but data.
-/
namespace Sys2Proof.Machine

variable {W : Works}

/-! Page descriptors and pools (14 R295-R306). -/

section
variable {R : Dev → Dev → Prop} (S : Accesses R)
include S

theorem Dev.readDesc_step (d : Dev) (acc : Acc) (a : Nat) : R d (d.readDesc acc a).1 := S.readBytes d _ _ _

theorem Dev.writeDesc_step (d : Dev) (acc : Acc) (a : Nat) (x : PDesc) : R d (d.writeDesc acc a x) := S.writeBytes d _ _ _

theorem Dev.copyRows_step (d : Dev) (acc : Acc) (planes : List (Nat × Nat)) (src sr dst dr n : Nat) :
    R d (d.copyRows acc planes src sr dst dr n).d := by
  refine S.foldlOn WrR.d (fun x pl => ?_) planes { d := d }
  dsimp only
  split
  · exact S.refl x.d
  split
  · exact S.trans (S.readBytes x.d _ _ _) (S.poisonRange _ _ _ _)
  · exact S.trans (S.readBytes x.d _ _ _) (S.writeBytes _ _ _ _)

theorem Dev.commitRows_step (d : Dev) (acc : Acc) (k a : Nat) (x : PDesc) (l : List Nat) : R d (d.commitRows acc k a x l).d := by
  unfold Dev.commitRows
  extract_lets po w y
  have hw : R d w.d := by
    refine S.foldlOn WrR.d (fun w ji => ?_) _ { d := d }
    split
    · exact S.refl w.d
    · exact Dev.copyRows_step S w.d _ _ _ _ _ _ _
  split
  · exact hw
  · exact S.trans (S.trans hw (Dev.writeDesc_step S _ _ _ _)) (S.count _ _ _ _ _)

theorem Dev.rollbackAll_step (d : Dev) (e : Env) (v : RunVerify) : R d (d.rollbackAll e v) := by
  refine S.foldl (fun d a => ?_) _ d
  exact ite_step (Dev.readDesc_step S d _ _) (S.trans (Dev.readDesc_step S d _ _) (Dev.writeDesc_step S _ _ _ _))

end

theorem Dev.readDesc_on (d : Dev) (acc : Acc) (a : Nat) : W.On d (d.readDesc acc a).1 := d.readDesc_step W.acc acc a

theorem Dev.readDesc_data (d : Dev) (acc : Acc) (a : Nat) : DataStep d (d.readDesc acc a).1 :=
  Dev.readDesc_on (W := dataWorks) d acc a

theorem Dev.writeDesc_on (d : Dev) (acc : Acc) (a : Nat) (x : PDesc) : W.On d (d.writeDesc acc a x) := d.writeDesc_step W.acc acc a x

theorem Dev.writeDesc_data (d : Dev) (acc : Acc) (a : Nat) (x : PDesc) : DataStep d (d.writeDesc acc a x) :=
  Dev.writeDesc_on (W := dataWorks) d acc a x

theorem Dev.copyRows_on (d : Dev) (acc : Acc) (planes : List (Nat × Nat)) (src sr dst dr n : Nat) :
    W.On d (d.copyRows acc planes src sr dst dr n).d := d.copyRows_step W.acc acc planes src sr dst dr n

theorem Dev.commitRows_on (d : Dev) (acc : Acc) (k a : Nat) (x : PDesc) (l : List Nat) : W.On d (d.commitRows acc k a x l).d :=
  d.commitRows_step W.acc acc k a x l

theorem Dev.rollbackAll_on (d : Dev) (e : Env) (v : RunVerify) : W.On d (d.rollbackAll e v) := d.rollbackAll_step W.acc e v

theorem Dev.poolEnable_data (d : Dev) (n k : Nat) (p : Pool) : DataStep d (d.poolEnable n k p) :=
  .ite (fun _ => d.setPool_data _ _) (fun _ => d.setPool_data _ _)

theorem Dev.poolReady_data (d : Dev) (n k : Nat) : DataStep d (d.poolReady n k) := by
  unfold Dev.poolReady
  extract_lets p base desc arb x y z
  have hx : DataStep d x := DataStep.foldl _ (fun d _ => d.writeBytes_data _ _ _) _ d
  have hy : DataStep d y := hx.trans (Dev.breakRsv_data _ _ _ _)
  exact .unless ((hy.trans (Dev.zeroFill_data _ _ _)).trans (Dev.setPool_data _ _ _))

theorem Dev.dropPools_data (d : Dev) (o : Nat) : DataStep d (d.dropPools o) := d.setKpm_data _

theorem Dev.logKpm_on {W : KpmWorks} (d : Dev) (k i : Nat) (desc : Option Nat) : W.On d (d.logKpm k i desc) := W.logKpm d k i desc

/-- What the operations of the KPMs keep: the core but for the last event logged, and the canonical form of memory. -/
def dataKpm : KpmWorks where
  toWorks := dataWorks
  logKpm d k i desc := by
    unfold Dev.logKpm
    dsimp only
    split
    · exact ((d.setPool_data _ _).trans (Dev.setKpm_data _ _)).trans (Dev.raiseKpm_data _ _)
    · exact (d.setPool_data _ _).trans (Dev.raiseKpm_data _ _)

theorem Dev.purgeRange_on (d : Dev) (a n : Nat) : W.On d (d.purgeRange a n) := d.setZf_on _

theorem Dev.purgeRange_data (d : Dev) (a n : Nat) : DataStep d (d.purgeRange a n) :=
  Dev.purgeRange_on (W := dataWorks) d a n

/-- A page that was allocated: the module is the one before with that pool's list extended. -/
theorem Dev.allocPage_on {d x : Dev} {k units s : Nat} (h : d.allocPage k units = some (x, s)) : W.On d x := by
  unfold Dev.allocPage at h
  obtain ⟨_, _, h⟩ := Option.map_eq_some_iff.1 h
  cases h
  exact Dev.setPool_on _ _ _

theorem allocMany_on {k units : Nat} (n : Nat) {d x : Dev} {l m : List Nat} (h : allocMany k units n d l = some (x, m)) : W.On d x := by
  induction n generalizing d l with
  | zero => cases h; exact .refl _
  | succ n ih =>
    unfold allocMany at h
    split at h
    · cases h
    · next ha => exact (Dev.allocPage_on ha).trans (ih h)

theorem Dev.freePage_on (d : Dev) (k s : Nat) : W.On d (d.freePage k s) := d.setPool_on _ _

theorem Dev.unref_on (d : Dev) (acc : Acc) (k a : Nat) (x : PDesc) : W.On d (d.unref acc k a x) :=
  .ite (fun _ => ((d.purgeRange_on _ _).trans (Dev.writeDesc_on _ _ _ _)).trans (Dev.freePage_on _ _ _)) (fun _ => d.writeDesc_on _ _ _)

/-- An operation on the descriptor that a packet names. -/
theorem Dev.onDesc_on (d : Dev) (p : Pkt) (e : Env) {f : Dev → Nat → Nat → PDesc → OpR} (h : ∀ d k a x, W.On d (f d k a x).d) :
    W.On d (d.onDesc p e f).d := by
  unfold Dev.onDesc
  dsimp only
  split
  · exact .refl d
  split
  · exact .refl d
  split
  · exact d.readDesc_on _ _
  · exact (d.readDesc_on _ _).trans (h _ _ _ _)

/-- The outcome that carries a module. -/
theorem DataStep.op {d x : Dev} (h : DataStep d x) {st : BitVec 16} {res : Nat} {wrote : List (Nat × Nat)} :
    DataStep d (OpR.mk x st res wrote).d := h

/-- A pair that carries a module. -/
theorem DataStep.fst {β : Type} {d x : Dev} (h : DataStep d x) {b : β} : DataStep d (x, b).1 := h

theorem Dev.opAlloc_on {W : KpmWorks} (d : Dev) (p : Pkt) (e : Env) : W.On d (d.opAlloc p e).d := by
  unfold Dev.opAlloc
  dsimp only
  refine .iteOp (.refl d) (.iteOp (.refl d) ?_)
  split
  · exact .op (d.logKpm_on _ _ _)
  · next h =>
    split
    · exact .refl d
    · refine (allocMany_on _ h).trans (.trans ?_ (Dev.writeP_on _ _ _ _ _))
      exact Works.On.foldl _ (fun d s => d.writeDesc_on _ _ _) _ _

theorem Dev.opAlloc_data (d : Dev) (p : Pkt) (e : Env) : DataStep d (d.opAlloc p e).d :=
  Dev.opAlloc_on (W := dataKpm) d p e

theorem Dev.opFree_on {W : KpmWorks} (d : Dev) (p : Pkt) (e : Env) : W.On d (d.opFree p e).d :=
  d.onDesc_on p e (fun d _ _ _ => .iteOp (.op (d.logKpm_on _ _ _)) (.iteOp (.op (d.logKpm_on _ _ _)) (.iteOp (.refl d) (.op (d.unref_on _ _ _ _)))))

theorem Dev.opFree_data (d : Dev) (p : Pkt) (e : Env) : DataStep d (d.opFree p e).d :=
  Dev.opFree_on (W := dataKpm) d p e

theorem Dev.writeRows_on (d : Dev) (acc : Acc) (po : Pool) (sat : Bool) (base t r0 rows : Nat) (vals : List Num) :
    W.On d (d.writeRows acc po sat base t r0 rows vals).d := by
  refine Works.On.foldlOn WrR.d _ (fun x hv => ?_) _ { d := d }
  exact (x.d.writeBytes_on _ _ _).trans (Dev.writeBytes_on _ _ _ _)

theorem Dev.unrecord_on (d : Dev) (a : Nat) : W.On d (d.unrecord a) := d.setDisp_on _

theorem Dev.opCommit_on (d : Dev) (p : Pkt) (e : Env) : W.On d (d.opCommit p e).d := by
  refine d.onDesc_on p e (fun d k a x => ?_)
  dsimp only
  refine .iteOp (.refl d) (.iteOp (.refl d) ((d.readP_on p e (p.f 2 47 0) (2 * p.f 3 6 0)).trans ?_))
  generalize (d.readP p e (p.f 2 47 0) (2 * p.f 3 6 0)) = r
  refine .iteOp (.refl _) (.iteOp (.refl _) (.iteOp (.refl _) ?_))
  exact .op (.ite (fun _ => r.d.commitRows_on _ _ _ _ _) (fun _ => (r.d.commitRows_on _ _ _ _ _).trans (Dev.unrecord_on _ _)))

theorem Dev.opCommit_data (d : Dev) (p : Pkt) (e : Env) : DataStep d (d.opCommit p e).d :=
  Dev.opCommit_on (W := dataWorks) d p e

theorem Dev.opRollback_on (d : Dev) (p : Pkt) (e : Env) : W.On d (d.opRollback p e).d :=
  d.onDesc_on p e (fun d _ _ _ => .iteOp (.refl d) (.iteOp (.refl d) (.op ((d.writeDesc_on _ _ _).trans (Dev.unrecord_on _ _)))))

theorem Dev.opRollback_data (d : Dev) (p : Pkt) (e : Env) : DataStep d (d.opRollback p e).d :=
  Dev.opRollback_on (W := dataWorks) d p e

/-- An append: the page or its copy is written, row by row, or what was written is given back. -/
theorem Dev.opAppend_on {W : KpmWorks} (d : Dev) (p : Pkt) (e : Env) (inside : Option (QRef × BitVec 16)) : W.On d (d.opAppend p e inside).d := by
  refine d.onDesc_on p e (fun z k a x => ?_)
  extract_lets po mine other full src vals pls c
  have hsrc : W.On z src.d := z.readP_on _ _ _ _
  refine .iteOp (.refl z) (.iteOp (.refl z) (.iteOp (.refl z) (.iteOp (.refl z) (.iteOp hsrc ?_))))
  have hc : ∀ y, c = some y → W.On z y.1.d := by
    intro y hy
    dsimp only [c] at hy
    split at hy
    · cases hy; exact hsrc
    split at hy
    · cases hy
    · next ha =>
      cases hy
      exact ((hsrc.trans (Dev.allocPage_on ha)).trans (Dev.copyRows_on _ _ _ _ _ _ _ _)).trans (Dev.copyRows_on _ _ _ _ _ _ _ _)
  clear_value c
  obtain _ | ⟨w, a2, y⟩ := c
  · exact .op (hsrc.trans (Dev.logKpm_on _ _ _ _))
  · have hw : W.On z w.d := hc _ rfl
    dsimp only
    refine .iteOp hsrc (.iteOp hsrc (.iteOp (.op (hw.trans (Dev.freePage_on _ _ _))) ?_))
    have h1 : W.On z (if a2 = a then w.d else w.d.writeDesc (d.kacc p e) a { x with ref := x.ref - 1 }) := hw.trans (.unless (Dev.writeDesc_on _ _ _ _))
    generalize (if a2 = a then w.d else _) = d1 at h1 ⊢
    have hr := h1.trans (d1.writeRows_on (d.kacc p e) po p.outSat y.base (2 ^ y.log2) (y.len + y.tlen) (p.f 3 15 0) vals)
    generalize d1.writeRows _ _ _ _ _ _ _ _ = r at hr ⊢
    refine .iteOp (.op (.ite (fun _ => hr) (fun _ => hr.trans (Dev.writeDesc_on _ _ _ _)))) (.op ?_)
    have h3 (v : PDesc) (n : Nat) : W.On z ((r.d.writeDesc (d.kacc p e) a2 v).count (some p.owner) 1 10 n) :=
      (hr.trans (Dev.writeDesc_on _ _ _ _)).trans (Dev.count_on _ _ _ _ _)
    split
    · exact h3 _ _
    · exact (h3 _ _).trans (Dev.setDisp_on _ _)

theorem Dev.opAppend_data (d : Dev) (p : Pkt) (e : Env) (inside : Option (QRef × BitVec 16)) : DataStep d (d.opAppend p e inside).d :=
  Dev.opAppend_on (W := dataKpm) d p e inside

/-! The Arbor (14 R309-R314). -/

theorem Dev.readNode_on (d : Dev) (acc : Acc) (a : Nat) : W.On d (d.readNode acc a).1 := d.readBytes_on _ _ _

theorem Dev.writeNode_on (d : Dev) (acc : Acc) (a : Nat) (x : ANode) : W.On d (d.writeNode acc a x) :=
  (Works.On.foldl _ (fun d _ => d.endHold_on _ _) _ d).trans (Dev.writeBytes_on _ _ _ _)

theorem Dev.probe_on {W : KpmWorks} (acc : Acc) (k h parent depth : Nat) (blk : List Byte) (f : Nat) :
    ∀ (d : Dev) (i : Nat), W.On d (d.probe acc k h parent depth blk f i).d := by
  induction f with
  | zero => exact fun d _ => .refl d
  | succ f ih =>
    intro d i
    unfold Dev.probe
    extract_lets o a r x y t
    have hr : W.On d r.1 := d.readNode_on _ _
    have hy : W.On d y.1 := hr.trans (Dev.readDesc_on _ _ _)
    have ht : W.On d t.d := hy.trans (Dev.readBytes_on _ _ _ _)
    refine .iteArb (.refl d) (.iteArb hr (.iteArb hr (.iteArb ?_ (hr.trans (ih _ _)))))
    refine .iteArb hr (.iteArb hy (.iteArb hy (.iteArb ht (.iteArb ht ?_))))
    exact (ht.trans (Dev.logKpm_on _ _ _ _)).trans (ih _ _)

theorem Dev.freeSlot_on (acc : Acc) (k h f : Nat) : ∀ (d : Dev) (i : Nat), W.On d (d.freeSlot acc k h f i).d := by
  induction f with
  | zero => exact fun d _ => .refl d
  | succ f ih =>
    intro d i
    unfold Dev.freeSlot
    extract_lets a r
    have hr : W.On d r.1 := d.readNode_on _ _
    exact .iteArb (.refl d) (.iteArb hr (.iteArb hr (hr.trans (ih _ _))))

theorem Dev.matchWalk_on {W : KpmWorks} (acc : Acc) (k key : Nat) (l : List (List Byte)) :
    ∀ (d : Dev) (h parent depth : Nat) (out : List Nat), W.On d (d.matchWalk acc k key l h parent depth out).1.d := by
  induction l with
  | nil => exact fun d _ _ _ _ => .refl d
  | cons blk l ih =>
    intro d h parent depth out
    unfold Dev.matchWalk
    extract_lets h2 r
    have hr : W.On d r.d := d.probe_on _ _ _ _ _ _ _ _
    clear_value r
    split
    · exact hr
    extract_lets n y
    have hy : W.On d y.1 := (hr.trans (Dev.readNode_on _ _ _)).trans (Dev.readDesc_on _ _ _)
    split
    · exact hy
    split
    · exact (hy.trans (Dev.writeDesc_on _ _ _ _)).trans (ih _ _ _ _ _)
    · exact hy

theorem Dev.opMatch_on {W : KpmWorks} (d : Dev) (p : Pkt) (e : Env) : W.On d (d.opMatch p e).d := by
  unfold Dev.opMatch
  extract_lets site k acc b n r m w
  have hr : W.On d r.d := d.readP_on _ _ _ _
  have hm : W.On d m.1.d := hr.trans (Dev.matchWalk_on _ _ _ _ _ _ _ _ _)
  have hw : W.On d w.d := hm.trans (Dev.writeP_on _ _ _ _ _)
  exact .iteOp (.refl d) (.iteOp (.refl d) (.iteOp hr (.op (hw.trans (Dev.count_on _ _ _ _ _)))))

theorem Dev.opMatch_data (d : Dev) (p : Pkt) (e : Env) : DataStep d (d.opMatch p e).d :=
  Dev.opMatch_on (W := dataKpm) d p e

theorem Dev.addChild_on (d : Dev) (acc : Acc) (a : Nat) (up : Bool) : W.On d (d.addChild acc a up).1 := by
  unfold Dev.addChild
  extract_lets r
  have hr : W.On d r.1 := d.readNode_on _ _
  clear_value r
  exact .iteFst (fun _ => hr) (fun _ => .iteFst (fun _ => hr) (fun _ => .fst (hr.trans (Dev.writeNode_on _ _ _ _))))

theorem insertBlock_on {W : KpmWorks} (acc : Acc) (k h parent depth dd : Nat) (z : PDesc) (x : InsR) :
    W.On x.d (insertBlock acc k h parent depth dd z x).1.d := by
  unfold insertBlock
  extract_lets c f y
  have hc : W.On x.d c.1 := by
    dsimp only [c]
    split
    · exact .refl x.d
    · exact x.d.addChild_on _ _ _
  clear_value c
  have hf : W.On x.d f.d := hc.trans (Dev.freeSlot_on _ _ _ _ _ _)
  clear_value f
  split
  · exact hc
  split
  · have hy : W.On x.d y := hf.trans (.unless (Dev.addChild_on _ _ _ _))
    exact hy.trans (.unless (Dev.logKpm_on _ _ _ _))
  · exact ((hf.trans (Dev.writeNode_on _ _ _ _)).trans (Dev.setPool_on _ _ _)).trans (Dev.writeDesc_on _ _ _ _)

theorem insertWalk_on {W : KpmWorks} (p : Pkt) (e : Env) (acc : Acc) (k key n : Nat) :
    ∀ (i h parent depth : Nat) (x : InsR), W.On x.d (insertWalk p e acc k key n i h parent depth x).d := by
  induction n with
  | zero => exact fun _ _ _ _ x => .refl x.d
  | succ n ih =>
    intro i h parent depth x
    unfold insertWalk
    extract_lets b t h2 r l dd y z w x2
    have ht : W.On x.d t.d := x.d.readP_on _ _ _ _
    clear_value t
    have hr : W.On x.d r.d := ht.trans (Dev.probe_on _ _ _ _ _ _ _ _ _)
    clear_value r
    have hl : W.On x.d l.d := hr.trans (Dev.readP_on _ _ _ _ _)
    clear_value l
    split
    · exact ht
    split
    · exact hr.trans (ih _ _ _ _ { x with d := r.d, pres := x.pres + 1 })
    split
    · exact hr
    split
    · exact hl
    split
    · split <;> exact hl
    have hy : W.On x.d y.1 := hl.trans (Dev.readDesc_on _ _ _)
    split
    · exact hy
    split
    · exact hy
    have hw : W.On x.d w.d := hy.trans (Dev.writeBytes_on _ _ _ _)
    split
    · exact hw
    have hb := hw.trans (insertBlock_on acc k h2 parent depth dd z { x2 with d := w.d })
    split
    · next hi => rw [hi] at hb; exact hb
    · next hi => rw [hi] at hb; exact hb.trans (ih _ _ _ _ _)

theorem Dev.opInsert_on {W : KpmWorks} (d : Dev) (p : Pkt) (e : Env) : W.On d (d.opInsert p e).d := by
  unfold Dev.opInsert
  extract_lets ntok r0 x dd
  have hx : W.On d x := d.readP_on _ _ _ _
  refine .iteOp (.refl d) (.iteOp hx ?_)
  split
  · exact .iteOp hx hx
  · exact .iteOp hx (.iteOp hx (hx.trans (insertWalk_on _ _ _ _ _ _ _ _ _ _ { d := x })))

theorem Dev.opInsert_data (d : Dev) (p : Pkt) (e : Env) : DataStep d (d.opInsert p e).d :=
  Dev.opInsert_on (W := dataKpm) d p e

theorem Dev.opRemove_on (d : Dev) (p : Pkt) (e : Env) : W.On d (d.opRemove p e).d := by
  refine d.onDesc_on p e (fun y k a x => ?_)
  extract_lets nd r src d1 po d2 c d3
  have hr : W.On y r.1 := y.readNode_on _ _
  have h2 : W.On y d2 := (hr.trans (Dev.writeNode_on _ _ _ _)).trans (Dev.setPool_on _ _ _)
  clear_value d2
  have hc : W.On y c.1 := by
    dsimp only [c]
    split
    · exact h2
    · exact h2.trans (Dev.addChild_on _ _ _ _)
  clear_value c
  refine .iteOp (.refl y) (.iteOp (.refl y) (.iteOp hr (.iteOp hr (.iteOp hr (.iteOp hr ?_)))))
  exact (hc.trans (Dev.purgeRange_on _ _ _)).trans (Dev.unref_on _ _ _ _ _)

theorem Dev.opRemove_data (d : Dev) (p : Pkt) (e : Env) : DataStep d (d.opRemove p e).d :=
  Dev.opRemove_on (W := dataWorks) d p e

/-! The agents of a KPM (10 R233-R235), pins and keys. -/

theorem Dev.arborCmd_data (d : Dev) (p : Pkt) (c : Contend) (e : Env) {f : Dev → OpR} (h : ∀ d, DataStep d (f d).d) : DataStep d (d.arborCmd p c e f) := by
  unfold Dev.arborCmd
  split
  · exact .unless ((h d).trans (Dev.conclude_data _ _))
  split
  · exact .refl d
  extract_lets x n d1 d2 kept y d3 r
  have h1 : DataStep d d1 := DataStep.foldl _ (fun d _ => d.countRsv_data _ _) _ d
  have h2 : DataStep d d2 := h1.trans (.when (Dev.countRsv_data _ _ _))
  have h3 : DataStep d d3 := h2.trans (Dev.setSlot_data _ _ _)
  have hr : DataStep d r.d := h3.trans (h _)
  exact .ite (fun _ => h3) (fun _ => .trans ((hr.trans (Dev.setSlot_data _ _ _)).trans (Dev.releaseHeld_data _ _)) (Dev.conclude_data p { r with d := _ }))

theorem Dev.expireRsv_data (d : Dev) (k : Nat) : DataStep d (d.expireRsv k) := by
  unfold Dev.expireRsv
  dsimp only
  split
  · exact (d.advTo_data _).trans (Dev.dropRsv_data _ _)
  · exact .refl d

theorem Dev.expireHold_data (d : Dev) (e : Env) (k : Nat) : DataStep d (d.expireHold e k) := d.endHold_data _ _

theorem Dev.wrPin_data (d : Dev) (e : Env) (fn : Fn) (v : Nat) : DataStep d (d.wrPin e fn v) := by
  unfold Dev.wrPin
  extract_lets key src x refuse a
  have hx : DataStep d x := d.setKpm_data _
  clear_value x
  have hrefuse (y : Dev) : DataStep y (refuse y) := y.setKpm_data _
  refine hx.trans (.ite (fun _ => .refl x) (fun _ => .ite (fun _ => hrefuse x) (fun _ => ?_)))
  split
  · exact hrefuse x
  · exact .ite (fun _ => (x.readDesc_data _ _).trans (hrefuse _)) (fun _ => (x.readDesc_data _ _).trans (Dev.writeDesc_data _ _ _ _))

theorem Dev.wrArbKey_data (d : Dev) (p w v : Nat) : DataStep d (d.wrArbKey p w v) :=
  .ite (fun _ => d.setKpm_data _) (fun _ => .ite (fun _ => d.setKpm_data _) (fun _ => d.setKpm_data _))

end Sys2Proof.Machine
end

section
/-!
Work on queues and packets: completion, cancellation and the steps of ABORT (11 R239-R256). It keeps memory in its canonical form.
-/
namespace Sys2Proof.Machine

/-! Store buffers drained, in every relation that the operations of the units respect (10 R225, R226). -/

section
variable {W : Works}

theorem Dev.setSb_on (d : Dev) (k : Nat) (l : List SbEntry) : W.On d (d.setSb k l) := W.rest rfl

theorem Dev.issueEntry_on (d : Dev) (env : Env) (k : Nat) (e : SbEntry) : W.On d (d.issueEntry env k e) := by
  unfold Dev.issueEntry
  extract_lets acc r
  have hr : W.On d r.d := by
    refine Works.On.foldlOn WrR.d _ (fun x run => ?_) _ { d := d }
    exact x.d.writeBytes_on _ _ _
  exact .ite (fun _ => hr) (fun _ => hr.trans (W.rest rfl))

theorem Dev.issueN_on (e : Env) (k n : Nat) : ∀ d : Dev, W.On d (d.issueN e k n) := by
  induction n with
  | zero => exact Works.On.refl
  | succ n ih =>
    intro d
    unfold Dev.issueN
    split
    · exact .refl d
    · exact ((d.setSb_on _ _).trans (Dev.issueEntry_on _ _ _ _)).trans (ih _)

theorem Dev.drainPkt_on (d : Dev) (e : Env) (p : Pkt) : W.On d (d.drainPkt e p) :=
  .foldl _ (fun d k => (d.issueN_on e k _).trans (Dev.awaitHeld_on _ _ _)) _ d

theorem Dev.settle_on (d : Dev) (e : Env) (p : Pkt) : W.On d (d.settle e p) := .unless ((d.drainPkt_on e p).trans (Dev.awaitHeld_on _ _ _))

theorem Dev.advTo_on (d : Dev) (t : Nat) : W.On d (d.advTo t) := .when (W.rest rfl)

theorem Dev.dropOwnRsv_on (d : Dev) (p : Pkt) : W.On d (d.dropOwnRsv p) := by
  unfold Dev.dropOwnRsv
  split
  · exact d.dropRsv_on _
  · exact .refl d

/-- A packet of the KPMs that an ABORT lets run to its end. -/
theorem Dev.runKpm_on {W : KpmWorks} (d : Dev) (p : Pkt) (e : Env) : W.On d (d.runKpm p e) := by
  unfold Dev.runKpm
  extract_lets x y r
  have hx : W.On d x := d.dropOwnRsv_on p
  clear_value x
  have hy : W.On d y := by
    dsimp only [y]
    split
    · exact hx.trans (Dev.setSlot_on _ _ _)
    · exact hx
  clear_value y
  have hr : W.On d r.d := by
    refine hy.trans ?_
    dsimp only [r]
    split
    · exact y.opAlloc_on _ _
    · exact y.opAppend_on _ _ _
    · exact y.opFree_on _ _
    · exact y.opCommit_on _ _
    · exact y.opRollback_on _ _
    · exact y.opMatch_on _ _
    · exact y.opInsert_on _ _
    · exact y.opRemove_on _ _
  clear_value r
  exact (hr.trans (Dev.releaseHeld_on _ e)).trans (Dev.conclude_on p { r with d := r.d.releaseHeld e })

theorem Dev.runKpm_data (d : Dev) (p : Pkt) (e : Env) : DataStep d (d.runKpm p e) :=
  Dev.runKpm_on (W := dataKpm) d p e

theorem Dev.cancelDma_on (d : Dev) (e : Env) (st : BitVec 16) (p : Pkt) : W.On d (d.cancelDma e st p) := by
  unfold Dev.cancelDma
  dsimp only
  have wait : W.On d ((d.setChan (chKey (p.f 2 11 8) (p.f 2 3 0)) { d.chan (chKey (p.f 2 11 8) (p.f 2 3 0)) with
      waiting := (d.chan (chKey (p.f 2 11 8) (p.f 2 3 0))).waiting.filter (fun w => w != (p.q, p.tag)) }).close p st 0) :=
    (d.setChan_on _ _).trans (Dev.close_on _ _ _ _)
  split
  · refine .ite (fun _ => .ite (fun _ => ?_) (fun _ => ?_)) (fun _ => wait)
    · exact ((d.setChan_on _ _).trans (Dev.nextJob_on _ _ _)).trans (Dev.close_on _ _ _ _)
    · exact (d.stopChan_on _ _).trans (Dev.drainChan_on _ _ _ _ _)
  · exact wait

theorem Dev.dropPrt_on (d : Dev) (p : Pkt) : W.On d (d.dropPrt p) := d.setZf_on _

theorem Dev.giveUpDma_on (d : Dev) (e : Env) (p : Pkt) : W.On d (d.giveUpDma e p) := (d.dropPrt_on p).trans (.when (Dev.drainChan_on _ _ _ _ _))

theorem Dev.countRolled_on (d : Dev) (o : Nat) : W.On d (d.countRolled o) := .when (d.setPart_on _ _)

theorem Dev.cancelVerify_on (d : Dev) (e : Env) (st : BitVec 16) (p : Pkt) : W.On d (d.cancelVerify e st p) := by
  unfold Dev.cancelVerify
  extract_lets x y
  have hx : W.On d x := by
    dsimp only [x]
    split
    · exact .refl d
    · exact d.rollbackAll_on _ _
  exact ((hx.trans (Dev.setDisp_on _ _)).trans (Dev.countRolled_on _ _)).trans (Dev.close_on _ _ _ _)

theorem Dev.cancelVerify_data (d : Dev) (e : Env) (st : BitVec 16) (p : Pkt) : DataStep d (d.cancelVerify e st p) :=
  Dev.cancelVerify_on (W := dataWorks) d e st p

theorem Dev.applyMix_on (d : Dev) (e : Env) (hit : List Pkt) (mix : List (Nat × Byte)) : W.On d (d.applyMix e hit mix) := by
  refine .foldl _ (fun x m => ?_) mix d
  split
  · exact x.writeBytes_on _ _ _
  · exact .refl x

theorem Dev.forcePkt_on (d : Dev) (e : Env) (p : Pkt) : W.On d (d.forcePkt e p) := by
  unfold Dev.forcePkt
  extract_lets x y n ch k src z src2 w
  have hx : W.On d x := (d.abandon_on _).trans (Dev.dropPrt_on _ _)
  clear_value x
  have hy : W.On d y := by
    dsimp only [y]
    split
    · exact ((hx.trans (Dev.dropRsv_on _ _)).trans (Dev.setSlot_on _ _ _)).trans (Dev.releaseHeld_on _ _)
    · exact hx
  clear_value y
  have hz : W.On d z := by
    refine hy.trans ?_
    exact .when (.ite (fun _ => (y.setChan_on _ _).trans (Dev.nextJob_on _ _ _)) (fun _ => y.setChan_on _ _))
  clear_value z
  have hw : W.On d w := hz.trans (W.rest rfl)
  exact .ite (fun _ => hw.trans (Dev.cancelVerify_on _ _ _ _)) (fun _ => hw.trans (Dev.close_on _ _ _ _))

end

/-! Queues, their rings and the completion of packets (11 R239-R249). -/

section
variable {W : QueueWorks}

theorem Dev.setQueue_on (d : Dev) (q : QRef) (x : Queue) : W.On d (d.setQueue q x) := W.setQueue d q x

theorem Dev.enterWindow_on (d : Dev) (p : Pkt) : W.On d (d.enterWindow p) := d.setQueue_on _ _

theorem Dev.setAbort_on (d : Dev) (j : AbortJob) : W.On d (d.setAbort j) := d.setDisp_on _

theorem Dev.signalEntry_on (d : Dev) (q : QRef) (irq : Bool) : W.On d (d.signalEntry q irq) :=
  .ite (fun _ => (d.setQueue_on _ _).trans (Dev.emit_on _ _)) (fun _ => d.setQueue_on _ _)

theorem Dev.writeEntry_on (d : Dev) (e : Env) (n : Nat) (q : QRef) (tag st : BitVec 16) (res : BitVec 64) (irq : Bool) :
    W.On d (d.writeEntry e n q tag st res irq) := by
  unfold Dev.writeEntry
  extract_lets a r x y z
  have hx : W.On d x := (d.writeBytes_on _ a _).trans (r.d.awaitHeld_on e _)
  exact (hx.trans (x.setQueue_on _ _)).trans (z.signalEntry_on q irq)

theorem Dev.retire_on (d : Dev) (e : Env) (p : Pkt) : W.On d (d.retire e p) := by
  unfold Dev.retire
  extract_lets x y z w
  have hx : W.On d x := d.writeEntry_on ..
  clear_value x
  have hy : W.On d y := hx.trans (.unless (x.enterWindow_on _))
  clear_value y
  exact ((hy.trans (y.count_on ..)).trans (Dev.setDisp_on _ _)).trans (Dev.setDisp_on _ _)

theorem Dev.completePkt_on (d : Dev) (e : Env) (q : QRef) (tag : BitVec 16) : W.On d (d.completePkt e q tag) := by
  unfold Dev.completePkt
  split
  · exact .refl d
  · refine .when ?_
    dsimp only
    split
    · exact d.settle_on ..
    · exact (d.settle_on ..).trans (Dev.retire_on ..)

theorem Dev.setRunning_on (d : Dev) (qs : List QRef) (old new : BitVec 2) : W.On d (d.setRunning qs old new) :=
  .foldl _ (fun x _ => .when (x.setQueue_on _ _)) qs d

/-- What an ABORT in a ring does: it enters its job and stops the queues it covers. -/
theorem Dev.findAborts_on (d : Dev) (q : QRef) : W.On d (d.findAborts q) := by
  refine .foldl _ (fun x s => .unless ?_) _ d
  dsimp only
  split
  · exact .refl x
  · exact ((x.setQueue_on _ _).trans (Dev.setDisp_on _ _)).trans (Dev.setRunning_on _ _ _ _)

theorem Dev.applyTail_on (d : Dev) (q : QRef) (v : Nat) : W.On d (d.applyTail q v) := (d.setQueue_on _ _).trans (Dev.findAborts_on _ q)

theorem Dev.releaseTails_on (d : Dev) (qs : List QRef) : W.On d (d.releaseTails qs) := by
  refine .foldl _ (fun x q => .unless ?_) qs d
  dsimp only
  split
  · exact (x.setRunning_on _ _ _).trans (Dev.applyTail_on _ _ _)
  · exact x.setRunning_on _ _ _

/-! Cancellation (11 R254-R256). -/

/-- A packet cancelled: by its phase, and in flight by its opcode. -/
theorem Dev.cancelPkt_on (d : Dev) (e : Env) (st : BitVec 16) (p : Pkt) : W.On d (d.cancelPkt e st p) := by
  unfold Dev.cancelPkt
  split
  · exact .unless (W.rest rfl)
  · exact .ite (fun _ => d.cancelVerify_on _ _ _) (fun _ => d.close_on _ _ _)
  · extract_lets x src y res
    have hy : W.On d y := (d.abandon_on _).trans (W.setWaits _ _ _)
    clear_value y
    refine .unless (hy.trans ?_)
    split
    · exact y.cancelVerify_on _ _ _
    · exact y.cancelDma_on _ _ _
    · exact y.cancelDma_on _ _ _
    · exact (y.setDisp_on _).trans (Dev.close_on _ _ _ _)
    · exact y.close_on _ _ _
    · exact .trans (.when (y.setPart_on _ _)) (Dev.close_on _ _ _ _)
    · refine .trans ?_ (Dev.close_on _ _ _ _)
      split
      · exact ((y.setDisp_on _).trans (Dev.setPart_on _ _ _)).trans (Dev.releaseTails_on _ _)
      · exact .refl y
    · exact y.close_on _ _ _

theorem Dev.countAborted_on (d : Dev) (q : QRef) (n : Nat) : W.On d (d.countAborted q n) := .unless (d.setQueue_on _ _)

theorem Dev.cancelSlot_on (d : Dev) (q : QRef) (st : BitVec 16) (h : Header) : W.On d (d.cancelSlot q st h) :=
  .trans (.when (d.countRolled_on (qOwner q))) (W.rest rfl)

theorem Dev.cancelRing_on (d : Dev) (q : QRef) (t : Nat) (st : BitVec 16) : W.On d (d.cancelRing q t st).1 := by
  unfold Dev.cancelRing
  extract_lets x ahead l y z w v
  have hy : W.On d y := .foldl _ (fun d _ => d.cancelSlot_on _ _ _) l d
  exact .iteFst (fun _ => .refl d) (fun _ => hy.trans (y.setQueue_on _ _))

/-- Each packet of a list cancelled by an operation, its cores' buffers drained, and counted. -/
theorem cancelEach_on {f : Dev → Pkt → Dev} (h : ∀ d p, W.On d (f d p)) (e : Env) (l : List Pkt) (d : Dev) :
    W.On d (l.foldl (fun d p => ((f d p).drainPkt e p).countAborted p.q 1) d) :=
  .foldl _ (fun d p => ((h d p).trans (Dev.drainPkt_on _ _ _)).trans (Dev.countAborted_on _ _ _)) l d

theorem Dev.cancelScope_on (d : Dev) (e : Env) (a : AbortEnv) (st : BitVec 16) (qs : List QRef) (limit : Option (QRef × Nat)) :
    W.On d (d.cancelScope e a st qs limit).1 := by
  unfold Dev.cancelScope
  extract_lets hit isStuck act stuck x y z r
  have hx : W.On d x := d.applyMix_on _ _ _
  have hy : W.On x y := .foldl _ (fun d p => d.dropOwnRsv_on p) _ x
  have hz : W.On y z := cancelEach_on (fun d p => d.cancelPkt_on e st p) e act y
  have hr : W.On z r.1 := by
    refine Works.On.foldlOn (fun x : Dev × Nat => x.1) _ (fun w q => ?_) qs (z, 0)
    exact (w.1.cancelRing_on q _ st).trans (Dev.countAborted_on _ _ _)
  exact ((hx.trans hy).trans hz).trans hr

theorem Dev.actAbort_on (d : Dev) (e : Env) (a : AbortEnv) (j : AbortJob) : W.On d (d.actAbort e a j) :=
  .unless ((d.cancelScope_on _ _ _ _ _).trans (Dev.setAbort_on _ _))

theorem Dev.forceAll_on (d : Dev) (e : Env) (start : Nat) (ords : List Nat) : W.On d (d.forceAll e start ords).1 := by
  unfold Dev.forceAll
  extract_lets l x
  have hx : W.On d x := (d.advTo_on _).trans (Dev.applyMix_on _ _ _ _)
  exact .iteFst (fun _ => .refl d) (fun _ => hx.trans (cancelEach_on (fun d p => d.forcePkt_on e p) e l x))

theorem Dev.forceAbort_on (d : Dev) (e : Env) (j : AbortJob) : W.On d (d.forceAbort e j) :=
  ((d.advTo_on _).trans (Dev.forceAll_on _ _ _ _)).trans (Dev.setAbort_on _ _)

theorem Dev.reportAbort_on (d : Dev) (e : Env) (j : AbortJob) (q : QRef) : W.On d (d.reportAbort e j q) := by
  unfold Dev.reportAbort
  extract_lets x src p irq y z
  have hx : W.On d x := d.setDisp_on _
  clear_value x
  have hy : W.On d y := (hx.trans (x.writeEntry_on _ _ _ _ _ _ _)).trans (Dev.enterWindow_on _ _)
  clear_value y
  have hz : W.On d z := by
    dsimp only [z]
    split
    · exact hx.trans (x.setQueue_on _ _)
    · exact (hy.trans (Dev.count_on _ _ _ _ _)).trans (Dev.setDisp_on _ _)
  exact hz.trans (Dev.releaseTails_on _ _)

theorem Dev.endAbort_on (d : Dev) (e : Env) (j : AbortJob) : W.On d (d.endAbort e j) := by
  unfold Dev.endAbort
  split
  · exact .refl d
  · exact .unless (d.reportAbort_on _ _ _)

theorem Dev.retireAll_on (d : Dev) (e : Env) (q : QRef) : W.On d (d.retireAll e q) := by
  refine .foldl _ (fun x p => ?_) _ d
  have hs : W.On x (x.settle e p) := x.settle_on e p
  dsimp only
  split
  · exact hs
  · exact .ite (fun _ => hs.trans (Dev.retire_on _ _ _)) (fun _ => hs.trans (Dev.setDisp_on _ _))

theorem Dev.finishAborts_on (d : Dev) (e : Env) (q : QRef) : W.On d (d.finishAborts e q) := by
  refine .foldl _ (fun x j => ?_) _ d
  extract_lets cur y z
  have hy : W.On x y := .unless (x.actAbort_on _ _ _)
  have hz : W.On y z := .unless (y.forceAbort_on _ _)
  exact (hy.trans hz).trans (Dev.reportAbort_on _ _ _ _)

theorem Dev.startQctlAbort_on (d : Dev) (e : Env) (q : QRef) : W.On d (d.startQctlAbort e q) := by
  unfold Dev.startQctlAbort
  extract_lets j src x src2 y
  have hx : W.On d x := d.setQueue_on _ _
  have hy : W.On d y := (hx.trans (x.setDisp_on _)).trans (Dev.setRunning_on _ _ _ _)
  clear_value y
  exact .ite (fun _ => d.setQueue_on _ _) (fun _ => .unless (hy.trans (Dev.actAbort_on _ _ _ _)))

end

section
variable {W : AbortWorks}

theorem Dev.cancelNow_on (d : Dev) (e : Env) (qs : List QRef) : W.On d (d.cancelNow e qs).1 := by
  unfold Dev.cancelNow
  extract_lets isStuck kp x r rest y
  have hx : W.On d x := .foldl _ (fun d p => Dev.runKpm_on (W := W.kpm) d p e) kp d
  have hr : W.On x r.1 := x.cancelScope_on _ _ _ _ _
  have hy : W.On r.1 y := .foldl _ (fun d p => d.giveUpDma_on e p) rest r.1
  exact ((hx.trans hr).trans hy).trans (.foldl _ (fun d q => d.retireAll_on e q) qs y)

theorem Dev.abortNow_on (d : Dev) (e : Env) (qs : List QRef) : W.On d (d.abortNow e qs).1 := by
  unfold Dev.abortNow
  extract_lets start x r f y
  have hx : W.On d x := .foldl _ (fun d q => d.finishAborts_on e q) qs d
  have hf : W.On x f.1 := (x.cancelNow_on e qs).trans (Dev.forceAll_on _ _ _ _)
  have hy : W.On f.1 y := .foldl _ (fun d q => d.retireAll_on e q) qs f.1
  exact ((hx.trans hf).trans hy).trans (y.setDisp_on _)

theorem Dev.disableQueue_on (d : Dev) (e : Env) (q : QRef) : W.On d (d.disableQueue e q) := .when ((d.abortNow_on e [q]).trans (Dev.setQueue_on _ _ _))

/-- ENABLE and ABORT of a queue (11 R240, R254). -/
theorem Dev.wrQctl_on (d : Dev) (e : Env) (q : QRef) (v : Nat) : W.On (d.setQueue q { d.queue q with ctx := BitVec.ofNat 4 (bf v 4 1) }) (d.wrQctl e q v) := by
  unfold Dev.wrQctl
  extract_lets x y c w z
  have hz : W.On y z := .ite (fun _ => .unless (.ite (fun _ => y.setQueue_on _ _) (fun _ => y.setQueue_on _ _))) (fun _ => y.disableQueue_on _ _)
  exact .ite (fun _ => hz.trans (z.startQctlAbort_on _ _)) (fun _ => hz)

end

/-! What all of it keeps: memory in its canonical form, and what lies apart from queues. -/

/-- Work on queues and packets, of every kind. -/
def queueWorks : AbortWorks where
  On := QueueStep
  acc := {
    refl := .refl
    trans := .trans
    readBytes := fun d acc a n => (d.readBytes_data acc a n).work
    writeBytes := fun d acc a b => (d.writeBytes_data acc a b).work
    poisonRange := fun d acc a n => (d.poisonRange_data acc a n).work
    readA := fun d p acc a n => (d.readA_data p acc a n).work
    readP := fun d p e a n => (d.readP_data p e a n).work
    writeP := fun d p e a b => (d.writeP_data p e a b).work
    poisonP := fun d p e a n => (d.poisonP_data p e a n).work
    count := fun d o g i n => (d.count_data o g i n).work
    rest := fun _ _ _ _ => .of_eq rfl rfl }
  rest h := (dataWorks.rest h : DataStep _ _).work
  putBytes d a b := (d.putBytes_data a b).work
  endHold d e k := (d.endHold_data e k).work
  releaseHeld d e := (d.releaseHeld_data e).work
  setQueue _ _ _ := .of_eq rfl rfl
  setWaits _ _ _ := .of_eq rfl rfl
  logKpm d k i desc := (Dev.logKpm_on (W := dataKpm) d k i desc : DataStep _ _).work

section
variable (d : Dev) (e : Env)

theorem Dev.setQueue_work (q : QRef) (x : Queue) : QueueStep d (d.setQueue q x) := Dev.setQueue_on (W := queueWorks.toQueueWorks) d q x

theorem Dev.setRunning_work (qs : List QRef) (old new : BitVec 2) : QueueStep d (d.setRunning qs old new) :=
  Dev.setRunning_on (W := queueWorks.toQueueWorks) d qs old new

theorem Dev.applyTail_work (q : QRef) (v : Nat) : QueueStep d (d.applyTail q v) := Dev.applyTail_on (W := queueWorks.toQueueWorks) d q v

theorem Dev.completePkt_work (q : QRef) (tag : BitVec 16) : QueueStep d (d.completePkt e q tag) :=
  Dev.completePkt_on (W := queueWorks.toQueueWorks) d e q tag

theorem Dev.cancelPkt_work (st : BitVec 16) (p : Pkt) : QueueStep d (d.cancelPkt e st p) := Dev.cancelPkt_on (W := queueWorks.toQueueWorks) d e st p

theorem Dev.countAborted_work (q : QRef) (n : Nat) : QueueStep d (d.countAborted q n) := Dev.countAborted_on (W := queueWorks.toQueueWorks) d q n

theorem Dev.actAbort_work (a : AbortEnv) (j : AbortJob) : QueueStep d (d.actAbort e a j) := Dev.actAbort_on (W := queueWorks.toQueueWorks) d e a j

theorem Dev.forceAbort_work (j : AbortJob) : QueueStep d (d.forceAbort e j) := Dev.forceAbort_on (W := queueWorks.toQueueWorks) d e j

theorem Dev.endAbort_work (j : AbortJob) : QueueStep d (d.endAbort e j) := Dev.endAbort_on (W := queueWorks.toQueueWorks) d e j

theorem Dev.retireAll_work (q : QRef) : QueueStep d (d.retireAll e q) := Dev.retireAll_on (W := queueWorks.toQueueWorks) d e q

theorem Dev.finishAborts_work (q : QRef) : QueueStep d (d.finishAborts e q) := Dev.finishAborts_on (W := queueWorks.toQueueWorks) d e q

theorem Dev.cancelNow_work (qs : List QRef) : QueueStep d (d.cancelNow e qs).1 := Dev.cancelNow_on (W := queueWorks) d e qs

theorem Dev.abortNow_work (qs : List QRef) : QueueStep d (d.abortNow e qs).1 := Dev.abortNow_on (W := queueWorks) d e qs

theorem Dev.disableQueue_work (q : QRef) : QueueStep d (d.disableQueue e q) := Dev.disableQueue_on (W := queueWorks) d e q

end

end Sys2Proof.Machine
end

section
/-!
The power-up sequence (03 R74-R77, R445), cores and sites that leave service (06 R155-R157, 08 R182) and the die fabric keep memory in its canonical form.
-/
namespace Sys2Proof.Machine

theorem Dev.endClock_mem (d : Dev) : MemStep d d.endClock := .when (.of_eq rfl)

theorem Dev.endFuse_mem (d : Dev) (r : PhaseResult) : MemStep d (d.endFuse r) := by
  unfold Dev.endFuse
  extract_lets bad x t failed prt src src2 src3 y
  have hx : MemStep d x := .when (d.advTo_data _).mem
  have hy : MemStep d y := .ite (hx.trans (.of_eq rfl)) (hx.trans (.of_eq rfl))
  exact .unless (.ite (hy.trans (y.sendRecord_mem _ _)) hy)

theorem Dev.sendCapx_mem (d : Dev) (o : PartnerOutcome) : MemStep d (d.sendCapx o) := by
  unfold Dev.sendCapx
  split
  · exact (d.emit_data _).mem
  · exact .refl d

theorem Dev.negotiate_mem (d : Dev) (o : PartnerOutcome) : MemStep d (d.negotiate o) := by
  unfold Dev.negotiate
  extract_lets c x src
  have hx : MemStep d x := d.sendCapx_mem _
  clear_value c
  split <;> exact hx.trans (.of_eq rfl)

theorem Dev.formRoutes_work (d : Dev) : QueueStep d d.formRoutes := .of_eq rfl rfl

theorem Dev.endZf_mem (d : Dev) (r : PhaseResult) : MemStep d (d.endZf r) := by
  unfold Dev.endZf
  extract_lets native ok1 src reach ok x st sites iso prt src2 src3 y z
  have hx : MemStep d x := .when (d.negotiate_mem _)
  have hy : MemStep d y := hx.trans (.of_eq rfl)
  have hz : MemStep d z := hy.trans (y.formRoutes_work).mem
  exact .unless (hz.trans (z.breakClass_data _).mem)

theorem Dev.logLanes_mem (d : Dev) (r : PhaseResult) (n p : Nat) : MemStep d (d.logLanes r n p) := by
  unfold Dev.logLanes
  extract_lets x
  have hx : MemStep d x := .foldl (fun x2 _ => (x2.logSlc_data _ _ _ _ _).mem) _ _
  exact hx.trans (.foldl (fun x2 _ => (x2.logSlc_data _ _ _ _ _).mem) _ _)

theorem Dev.replaceCore_mem (d : Dev) (n c : Nat) : MemStep d (d.replaceCore n c) := by
  unfold Dev.replaceCore
  extract_lets src src2 src3 x src4
  have hx : MemStep d x := (d.setSlice_data _ _ _).mem
  split
  · extract_lets sl y z
    have hy : MemStep d y := .of_eq rfl
    have hz : MemStep d z := hy.trans (y.setSlice_data _ _ _).mem
    exact (hz.trans (z.zeroFill_data _ _).mem).trans (Dev.zeroFill_data _ _ _).mem
  · exact hx.trans ((Dev.breakClass_data _ _).mem.after rfl)

theorem Dev.memSite_mem (d : Dev) (r : PhaseResult) (n : Nat) : MemStep d (d.memSite r n) := by
  unfold Dev.memSite
  extract_lets cs x src src2 spare src3 y z u v
  have hx : MemStep d x := .foldl (fun x2 _ => (x2.setSlice_data _ _ _).mem) _ _
  have hy : MemStep d y := .of_eq rfl
  have hz : MemStep d z := hy.trans (.foldl (fun x2 _ => .of_eq (by rfl)) _ _)
  have hu : MemStep d u := hz.trans (.foldl (fun x2 _ => (x2.setSlice_data _ _ _).mem) _ _)
  have hv : MemStep d v := hu.trans (.foldl (fun x2 _ => x2.replaceCore_mem _ _) _ _)
  exact .ite (hx.trans ((Dev.breakClass_data _ _).mem.after rfl)) (hv.trans (.foldl (fun x2 _ => x2.logLanes_mem _ _ _) _ _))

theorem Dev.memStack_mem (d : Dev) (r : PhaseResult) (h : Nat) : MemStep d (d.memStack r h) := by
  unfold Dev.memStack
  extract_lets all bad src x y
  have hx : MemStep d x := (d.setStack_data _ _).mem
  have hy : MemStep d y := hx.trans (.foldl (fun x2 _ => (x2.logHbm_data _ _ _ _ _ _).mem) _ _)
  exact .ite hy (hy.trans (y.breakClass_data _).mem)

theorem Dev.formMap_mem (d : Dev) : MemStep d d.formMap := by
  unfold Dev.formMap
  extract_lets src x src2
  have hx : MemStep d x := .of_eq rfl
  exact hx.trans (.of_eq rfl)

theorem Dev.memLinks_mem (d : Dev) (r : PhaseResult) : MemStep d (d.memLinks r) := by
  unfold Dev.memLinks
  extract_lets ls idle bad x src y
  have hx : MemStep d x := .foldl (fun x2 _ => .of_eq (by rfl)) _ _
  have hy : MemStep d y := hx.trans (.of_eq rfl)
  exact .ite hy (hy.trans (y.breakClass_data _).mem)

theorem Dev.endMem_mem (d : Dev) (r : PhaseResult) : MemStep d (d.endMem r) := by
  unfold Dev.endMem
  extract_lets x y z u src
  have hx : MemStep d x := (d.zeroFill_data _ _).mem
  have hy : MemStep d y := hx.trans (.foldl (fun x2 _ => x2.memSite_mem _ _) _ _)
  have hz : MemStep d z := hy.trans (.foldl (fun x2 _ => x2.memStack_mem _ _) _ _)
  have hu : MemStep d u := (hz.trans z.formMap_mem).trans (Dev.memLinks_mem _ _)
  exact .unless (hu.trans ((Dev.publishLive_data _).mem.after rfl))

theorem Dev.endAssay_mem (d : Dev) (r : PhaseResult) : MemStep d (d.endAssay r) := by
  unfold Dev.endAssay
  extract_lets sites x bad y dm z kp src src2 u
  have hx : MemStep d x := .foldl (fun x2 _ => .of_eq (by rfl)) _ _
  have hy : MemStep d y := hx.trans (.foldl (fun x2 _ => x2.replaceCore_mem _ _) _ _)
  have hz : MemStep d z := hy.trans (.foldl (fun x2 _ => .of_eq (by rfl)) _ _)
  have hu : MemStep d u := hz.trans (.of_eq rfl)
  exact .unless (hu.trans (u.breakClass_data _).mem)

theorem Dev.drawSession_mem (d : Dev) : MemStep d d.drawSession := by
  unfold Dev.drawSession
  extract_lets e x src
  have hx : MemStep d x := (d.draw_data).mem
  exact hx.trans (.of_eq rfl)

theorem Dev.supSend_mem (d : Dev) (typ : Byte) (payload : List Byte) : MemStep d (d.supSend typ payload) := by
  unfold Dev.supSend
  extract_lets u x src
  have hx : MemStep d x := (d.emit_data _).mem
  exact hx.trans (.of_eq rfl)

theorem Dev.vopReset_mem (d : Dev) : MemStep d d.vopReset := .of_eq rfl

theorem Dev.sendIdent_mem (d : Dev) : MemStep d d.sendIdent := d.supSend_mem _ _

theorem Dev.setReady_mem (d : Dev) : MemStep d d.setReady := by
  unfold Dev.setReady
  extract_lets src x
  have hx : MemStep d x := .of_eq rfl
  exact .unless ((((hx.trans x.vopReset_mem).trans (Dev.publishLive_data _).mem).trans (Dev.drawSession_mem _)).trans (Dev.sendIdent_mem _))

theorem Dev.deadline_mem (d : Dev) (r : PhaseResult) : MemStep d (d.deadline r) := by
  unfold Dev.deadline
  extract_lets x
  have hx : MemStep d x := (d.advTo_data _).mem
  split
  · exact hx.trans (x.endFuse_mem _)
  · exact hx.trans (x.endZf_mem _)
  · exact hx.trans (x.endMem_mem _)
  · exact hx.trans (x.endAssay_mem _)
  · exact hx.trans x.setReady_mem
  · exact .refl d

theorem Dev.latchPace_mem (d : Dev) (counts : List (Nat × BitVec 24)) : MemStep d (d.latchPace counts) := .of_eq rfl

/-! A core leaves service (06 R155), in every relation that work on queues respects. -/

section
variable {W : QueueWorks}

theorem Dev.mapPkts_on (d : Dev) (f : Pkt → Pkt) : W.On d (d.mapPkts f) := d.setDisp_on _

theorem Dev.setSlice_on (d : Dev) (n c : Nat) (x : Slice) : W.On d (d.setSlice n c x) := W.rest rfl

theorem Dev.publishLive_on (d : Dev) : W.On d d.publishLive := .ite (fun _ => W.rest rfl) (fun _ => W.rest rfl)

theorem Dev.abortCore_on (d : Dev) (e : Env) (n c : Nat) : W.On d (d.abortCore e n c) := by
  unfold Dev.abortCore
  extract_lets k run x y
  have hy : W.On x y := .foldl _ (fun x2 _ => x2.cancelPkt_on _ _ _) _ _
  exact ((d.mapPkts_on _).trans hy).trans (y.mapPkts_on _)

theorem Dev.stopDmaOf_on (d : Dev) (n c : Nat) : W.On d (d.stopDmaOf n c) := .foldl _ (fun x _ => x.stopChan_on _ _) _ _

theorem Dev.breakCoreRsv_on (d : Dev) (n c : Nat) : W.On d (d.breakCoreRsv n c) := .foldl _ (fun x _ => x.dropRsv_on _) _ _

theorem Dev.slicePass_on (d : Dev) : W.On d d.slicePass := by
  unfold Dev.slicePass
  extract_lets l x src
  have hx : W.On d x := .foldl _ (fun x2 _ => x2.setSlice_on _ _ _) _ _
  exact .when (hx.trans (W.rest rfl))

theorem Dev.breakClass_on (d : Dev) (m : BitVec 8) : W.On d (d.breakClass m) := W.rest rfl

theorem Dev.raiseSlc_on (d : Dev) (m : BitVec 8) : W.On d (d.raiseSlc m) := W.rest rfl

theorem Dev.setUnits_on (d : Dev) (x : Tbl CoreUnit) : W.On d { d with units := x } := W.rest rfl

theorem Dev.fenceCore_on (d : Dev) (e : Env) (n c : Nat) (brk : Bool) : W.On d (d.fenceCore e n c brk) := by
  unfold Dev.fenceCore
  extract_lets k x y z u src v w
  have hx : W.On d x := d.abortCore_on _ _ _
  have hy : W.On x y := (x.stopDmaOf_on _ _).trans (Dev.breakCoreRsv_on _ _ _)
  have hu : W.On y u := (y.setSb_on _ _).trans (Dev.setUnits_on _ _)
  have hv : W.On u v := (u.setSlice_on _ _ _).trans (Dev.raiseSlc_on _ _)
  have hw : W.On v w := v.publishLive_on.trans (Dev.slicePass_on _)
  have hall : W.On d w := (((hx.trans hy).trans hu).trans hv).trans hw
  exact .unless (.ite (fun _ => hall.trans (w.breakClass_on _)) (fun _ => hall))

end

theorem Dev.slicePass_work (d : Dev) : QueueStep d d.slicePass := Dev.slicePass_on (W := queueWorks.toQueueWorks) d

theorem Dev.fenceCore_work (d : Dev) (e : Env) (n c : Nat) (brk : Bool) : QueueStep d (d.fenceCore e n c brk) :=
  Dev.fenceCore_on (W := queueWorks.toQueueWorks) d e n c brk

theorem Dev.fenceSite_work (d : Dev) (e : Env) (n : Nat) : QueueStep d (d.fenceSite e n) := .foldl (fun x _ => x.fenceCore_work _ _ _ _) _ _

theorem Dev.loseStack_work (d : Dev) (e : Env) (n : Nat) : QueueStep d (d.loseStack e n) := by
  unfold Dev.loseStack
  extract_lets x src
  have hx : QueueStep d x := (d.fenceSite_work _ _).trans (Dev.raiseSlc_data _ _).work
  exact .when (hx.trans ((Dev.breakClass_data _ _).work.after rfl rfl))

theorem Dev.mapOutSite_work (d : Dev) (n : Nat) : QueueStep d (d.mapOutSite n) := .foldl (fun _ _ => .foldl (fun x2 _ => (x2.mapOut_data _ _ _ _).work) _ _) _ _

theorem Dev.dropDma_work (d : Dev) (n : Nat) (st : BitVec 16) : QueueStep d (d.dropDma n st) := by
  unfold Dev.dropDma
  exact .foldl (fun x _ => .foldl (fun x2 _ => by
      extract_lets k c l y
      have hy : QueueStep x2 y := .when (x2.setChan_data _ _).work
      exact hy.trans (.foldl (fun x3 _ => by
      split
      · exact .unless (x3.close_data _ _ _).work
      · exact .refl x3) _ _)) _ _) _ _

theorem Dev.dropLinks_work (d : Dev) (n : Nat) : QueueStep d (d.dropLinks n) := .foldl (fun x _ => (x.dropLink_data _ _).work) _ _

theorem Dev.isolate_work (d : Dev) (e : Env) (n : Nat) : QueueStep d (d.isolate e n) := by
  unfold Dev.isolate
  extract_lets x src src2 y src3 z
  have hx : QueueStep d x := (d.fenceSite_work _ _).trans (Dev.mapOutSite_work _ _)
  have hy : QueueStep d y := hx.trans (.of_eq rfl rfl)
  have hz : QueueStep d z := .of_eq rfl rfl
  exact .ite (((hy.trans (y.dropDma_work _ _)).trans (Dev.publishLive_data _).work).trans (Dev.breakClass_data _ _).work) (.when ((((hz.trans (z.dropDma_work _ _)).trans (Dev.dropLinks_work _ _)).trans (Dev.publishLive_data _).work).trans (Dev.breakClass_data _ _).work))

theorem Dev.portDown_work (d : Dev) (e : Env) (j : Nat) (hit : List Nat) : QueueStep d (d.portDown e j hit) := by
  unfold Dev.portDown
  extract_lets src x l y reach lost z
  have hx : QueueStep d x := .of_eq rfl rfl
  have hy : QueueStep d y := hx.trans (.foldl (fun x2 _ => .ite (x2.close_data _ _ _).work (x2.cancelPkt_work _ _ _)) _ _)
  have hz : QueueStep d z := hy.trans (.foldl (fun x2 _ => x2.isolate_work _ _) _ _)
  exact (hz.trans z.formRoutes_work).trans (Dev.raiseZf_data _ _).work

theorem Dev.zfParity_mem (d : Dev) (j : Nat) (hit : List Nat) : MemStep d (d.zfParity j hit) := by
  unfold Dev.zfParity
  extract_lets x times down x2 src y
  have hy : MemStep d y := .of_eq rfl
  exact .unless (.ite (hy.trans ((y.portDown_work _ _ _).mem)) hy)

end Sys2Proof.Machine
end

section
/-!
Parameters of packets (12 R267), queues, the thermal scan and resets (21 R440) keep memory in its canonical form.
-/
namespace Sys2Proof.Machine

/-- Every field but memory replaced. -/
theorem MemStep.rest {d x : Dev} (h : MemStep d x) {fuse : Fuses} {pins : Pins} {fc : FC} {rails : Rails} {sup : Sup} {pwr : Pwr} {time : TimeB} {sys
    : Sys} {pcie : Pcie} {thm : Thm} {slc : Slc} {hbm : Hbm} {zf : Zf} {parts : Tbl Part} {queues : Tbl Queue} {disp : Disp} {sb : Tbl (List SbEntry)}
    {units : Tbl CoreUnit} {kpm : Kpm} {dma : Tbl DmaCx} {dmaCh : Tbl DmaCh} {lnk : Lnk} {cnt : Cnt} {lpe : Tbl Watch} {snp : Tbl SnpFn} {lck : Lck}
    {out : List Out} {free : Nat} : MemStep d (.mk fuse pins fc rails sup pwr time sys pcie thm slc hbm zf parts queues disp sb units kpm dma dmaCh
    lnk cnt lpe snp lck x.mem out free) := ⟨h.wf⟩

/-- Fields that Kept does not name replaced. -/
theorem DataStep.rest {d x : Dev} (h : DataStep d x) {time : TimeB} {sys : Sys} {slc : Slc} {hbm : Hbm} {zf : Zf} {parts : Tbl Part} {disp : Disp} {sb
    : Tbl (List SbEntry)} {units : Tbl CoreUnit} {kpm : Kpm} {dma : Tbl DmaCx} {dmaCh : Tbl DmaCh} {lnk : Lnk} {cnt : Cnt} {lpe : Tbl Watch} {out :
    List Out} {free : Nat} : DataStep d (.mk x.fuse x.pins x.fc x.rails x.sup x.pwr time sys x.pcie x.thm slc hbm zf parts x.queues disp sb units kpm
    dma dmaCh lnk cnt lpe x.snp x.lck x.mem out free) := h.trans (.of_eq rfl rfl rfl rfl rfl rfl rfl rfl rfl rfl rfl rfl)

theorem MemStep.fst {β : Type} {d x : Dev} (h : MemStep d x) {b : β} : MemStep d (x, b).1 := h

/-- The second of two operations on data, then the first. -/
theorem DataStep.since {d x y : Dev} (g : DataStep x y) (h : DataStep d x) : DataStep d y := h.trans g

/-! Parameters. -/

/-- The packets of a stream are translated and read one after the other. -/
theorem streamBytes_data (acc : Acc) (o k n : Nat) : ∀ (a : Nat) (x : XlState), DataStep x.d (streamBytes acc o k n a x).1.d := by
  induction n with
  | zero => exact fun a x => .refl x.d
  | succ n ih =>
    intro a x
    unfold streamBytes
    extract_lets y r len z
    have hy : DataStep x.d y.d := xlRanges_data _ _ _ _ x
    have hr : DataStep x.d r.d := hy.trans (y.d.readDva_data _ _ _ _)
    split
    · exact hy
    · split
      · exact hr
      · exact hr.trans (ih _ (y.on r.d))

/-- What a packet whose ranges depend on what it names reads before it starts. -/
theorem XlState.second_data (x : XlState) (e : Env) (p : Pkt) (ctx : Nat) (ncand : Option Nat) : DataStep x.d (x.second e p ctx ncand).x.d := by
  unfold XlState.second
  extract_lets acc d ls at_ r s b r' b' seqs bk y mask rows els q1
  split
  · have hr : DataStep x.d r.d := d.readDva_data _ _ _ _
    have hs : DataStep x.d s.1.d := hr.trans (streamBytes_data _ _ _ _ _ (x.on r.d))
    split
    · exact hr
    · split
      · exact hr
      · exact hs
  · split <;> exact .refl x.d
  · exact .refl x.d
  · clear_value b
    split <;> exact .refl x.d
  · have hr : DataStep x.d r'.d := d.readDva_data _ _ _ _
    have hb : DataStep x.d b'.d := by
      dsimp only [b']
      split
      · exact hr.trans (r'.d.readDva_data _ _ _ _)
      · exact hr
    split
    · exact hb
    · split
      · exact hb
      · split <;> exact hb

/-- Taking a packet's parameters: its ranges are translated, and what it names is read. -/
theorem Dev.capture_data (d : Dev) (e : Env) (p : Pkt) (ctx : Nat) (ncand : Option Nat) : DataStep d (d.capture e p ctx ncand).1 := by
  unfold Dev.capture
  extract_lets acc rs starts x s y v
  have hx : DataStep d x.d := xlRanges_data _ _ _ _ { d := d }
  have hs : DataStep d s.x.d := by
    dsimp only [s]
    split
    · exact hx.trans (x.second_data _ _ _ _)
    · exact hx
  have hy : DataStep d y.d := by
    dsimp only [y]
    split
    · exact hs
    · exact hs.trans (xlRanges_data _ _ _ _ s.x)
  have hv : DataStep d v.1 := hy.trans (y.verdict_data _)
  split
  · exact d.countXlt_data _ _
  · split
    · exact hv
    · exact hv

/-! Queues, the scan, resets. -/

theorem Dev.ringError_mem (d : Dev) (q : QRef) : MemStep d (d.ringError q) := (d.setQueue_work _ _).mem

theorem Dev.setDom_mem (d : Dev) (n : Nat) (x : Domain) : MemStep d (d.setDom n x) := .of_eq rfl

theorem Dev.raiseThm_mem (d : Dev) (m : BitVec 6) : MemStep d (d.raiseThm m) := .of_eq rfl

theorem Dev.mapDom_mem (d : Dev) (f : Nat → Domain → Domain) : MemStep d (d.mapDom f) := .foldl (fun x _ => x.setDom_mem _ _) _ _

theorem Dev.hostReq_mem (d : Dev) (n lvl : Nat) (halt : Bool) (owner : Nat) : MemStep d (d.hostReq n lvl halt owner) := d.setDom_mem _ _

theorem Dev.dropReqs_mem (d : Dev) (p : Nat) (ns : List Nat) : MemStep d (d.dropReqs p ns) := d.mapDom_mem _

theorem Dev.staleTlb_mem (d : Dev) (sel : Tlb → Bool) : MemStep d (d.staleTlb sel) := .of_eq rfl

theorem Dev.dropQueues_mem (d : Dev) (gone : Nat → Bool) : MemStep d (d.dropQueues gone) := .of_eq rfl

theorem Dev.badDoorbell_mem (d : Dev) (q : QRef) : MemStep d (d.badDoorbell q) := (d.setQueue_work _ _).mem

theorem Dev.ringTail_mem (d : Dev) (e : Env) (q : QRef) (bits v : Nat) : MemStep d (d.ringTail e q bits v) := by
  unfold Dev.ringTail
  extract_lets x x2
  have hx : MemStep d x := (d.awaitHeld_data _ _).mem
  exact .ite (hx.trans (x.badDoorbell_mem _)) (.ite (hx.trans (x.setQueue_work _ _).mem) (hx.trans (x.applyTail_work _ _).mem))

theorem Dev.ringHead_mem (d : Dev) (q : QRef) (bits v : Nat) : MemStep d (d.ringHead q bits v) := .ite (d.badDoorbell_mem _) (d.setQueue_work _ _).mem

theorem Dev.takeTurn_mem (d : Dev) (q : QRef) (h : Header) : MemStep d (d.takeTurn q h) := .of_eq rfl

theorem Dev.enterPkt_mem (d : Dev) (p : Pkt) : MemStep d (d.enterPkt p) := .of_eq rfl

theorem Dev.takePacket_mem (d : Dev) (e : Env) (q : QRef) (h : Header) : MemStep d (d.takePacket e q h) := by
  unfold Dev.takePacket
  extract_lets x slot r y x2 tag x3 z o dep p s u s2 t src c src2
  have hr : MemStep d r.1 := (d.readPacket_data _ _ _ _).mem
  have hy : MemStep d y := hr.trans (Dev.takeTurn_mem _ _ _)
  have hz : MemStep d z := hy.trans (y.setQueue_work _ _).mem
  have hu : MemStep d u := hz.trans (z.setQueue_work _ _).mem
  have hc : MemStep d c.1 := hz.trans ((z.capture_data _ _ _ _).mem)
  split
  · exact hr.trans (Dev.ringError_mem _ _)
  · split
    · exact (hz.trans (z.draw_data).mem).trans (Dev.enterPkt_mem _ _)
    · split
      · extract_lets src3
        exact hu.trans (u.enterPkt_mem _)
      · split
        · exact (hz.trans (z.draw_data).mem).trans (Dev.enterPkt_mem _ _)
        · split
          · exact hz.trans ((Dev.setRunning_work _ _ _ _).mem.after rfl)
          · split
            · exact hc.trans (Dev.enterPkt_mem _ _)
            · exact hc.trans (Dev.enterPkt_mem _ _)

theorem Dev.takeNext_mem (d : Dev) (e : Env) : MemStep d (d.takeNext e) := by
  unfold Dev.takeNext
  split
  · exact .refl d
  · exact d.takePacket_mem _ _ _

theorem Dev.startPkt_mem (d : Dev) (p : Pkt) : MemStep d (d.startPkt p) := .unless (.ite (d.finish_data _ _ _).mem (.unless (.ite (d.close_data _ _ _).mem (.unless ((Dev.modPkt_data _ _ _).mem.after rfl)))))

theorem Dev.irqTime_mem (d : Dev) (q : QRef) : MemStep d (d.irqTime q) := by
  unfold Dev.irqTime
  extract_lets x
  split
  · exact .refl d
  · extract_lets y
    have hy : MemStep d y := (d.advTo_data _).mem
    exact .when ((hy.trans (y.setQueue_work _ _).mem).trans (Dev.emit_data _ _).mem)

theorem Dev.sendCrossing_mem (d : Dev) (n : Nat) (x : ClassScan) (code : Nat) : MemStep d (d.sendCrossing n x code) := by
  unfold Dev.sendCrossing
  extract_lets y
  have hy : MemStep d y := d.supSend_mem _ _
  exact hy.trans (y.raiseThm_mem _)

theorem Dev.beginStop_mem (d : Dev) (e : Env) (n c : Nat) (scan : List ClassScan) (sens : List (Nat × Sensor)) : MemStep d (d.beginStop e n c scan sens) := by
  unfold Dev.beginStop
  extract_lets t trig x rec0 y src z hit u act v w y2 src2
  have hy : MemStep d y := d.setDom_mem _ _
  have hz : MemStep d z := .ite hy (.rest hy)
  have hu : MemStep d u := hz.trans (.foldl (fun x2 _ => (x2.runKpm_data _ _).mem) _ _)
  have hv : MemStep d v := hu.trans (.foldl (fun x2 _ => (x2.cancelPkt_work _ _ _).mem.trans (Dev.countAborted_work _ _ _).mem) _ _)
  have hw : MemStep d w := hv.trans (.foldl (fun x2 _ => (x2.drain_data _ _).mem) _ _)
  exact hw.trans (w.setDom_mem _ _)

theorem Dev.portsDown_work (d : Dev) (e : Env) (n : Nat) : QueueStep d (d.portsDown e n) := .foldl (fun x _ => .when (x.portDown_work _ _ _)) _ _

/-- The rails of a domain go off: its state says so, and the rest of the thermal supervision stays. -/
theorem Dev.domainOff_work (d : Dev) (e : Env) (n : Nat) : QueueStep (d.setDom n { d.dom n with st := 3 }) (d.domainOff e n) := by
  unfold Dev.domainOff
  extract_lets src x y src2 z
  have hy : QueueStep x y := ((x.loseStack_work _ _).trans (Dev.mapOutSite_work _ _)).trans (Dev.dropDma_work _ _ _)
  clear_value y
  have hz : QueueStep x z := hy.trans (.of_eq rfl rfl)
  split
  · exact ((hz.trans (z.portsDown_work _ _)).trans (Dev.publishLive_data _).work).trans (Dev.breakClass_data _ _).work
  · exact ((((x.dropDma_work _ _).trans (Dev.dropLinks_work _ _)).trans (Dev.portsDown_work _ _ _)).trans (Dev.publishLive_data _).work).trans (Dev.breakClass_data _ _).work
  · exact (x.partnerLost_data _).work

theorem Dev.domainOff_mem (d : Dev) (e : Env) (n : Nat) : MemStep d (d.domainOff e n) := (d.setDom_mem _ _).trans (d.domainOff_work e n).mem

theorem Dev.writeStop_mem (d : Dev) (e : Env) (n : Nat) : MemStep d (d.writeStop e n) := by
  unfold Dev.writeStop
  extract_lets x b src y
  have hy : MemStep d y := ((d.setDom_mem _ _).trans (Dev.raiseThm_mem _ _)).trans (Dev.sendRecord_mem _ _ _)
  exact .unless (.ite hy (hy.trans (y.domainOff_mem _ _)))

theorem Dev.scanDom_mem (d : Dev) (r : ScanEnv) (e : Env) (n : Nat) : MemStep d (d.scanDom r e n) := by
  unfold Dev.scanDom
  extract_lets cs fresh new sus brk x scan target th free th' src y z u v
  have hy : MemStep d y := .of_eq rfl
  have hz : MemStep d z := hy.trans (y.setDom_mem _ _)
  have hu : MemStep d u := hz.trans (z.raiseThm_mem _)
  have hv : MemStep d v := hu.trans (.foldl (fun x2 _ => .foldl (fun x3 _ => x3.sendCrossing_mem _ _ _) _ _) _ _)
  split
  · exact .refl d
  · split
    · exact hv.trans (v.beginStop_mem _ _ _ _ _)
    · exact hv

theorem Dev.applyThmCtl_mem (d : Dev) : MemStep d d.applyThmCtl := .unless (.of_eq rfl)

theorem Dev.scan_mem (d : Dev) (r : ScanEnv) (e : Env) : MemStep d (d.scan r e) := by
  unfold Dev.scan
  extract_lets x src y z p src2
  have hx : MemStep d x := (d.advTo_data _).mem
  have hy : MemStep d y := .rest hx
  have hz : MemStep d z := (hy.trans y.applyThmCtl_mem).trans (.foldl (fun x2 _ => x2.scanDom_mem _ _ _) _ _)
  exact .unless (.rest hz)

theorem Dev.releasePart_mem (d : Dev) (p : Nat) : MemStep d (d.releasePart p) := by
  unfold Dev.releasePart
  extract_lets src src2 x y
  have hx : MemStep d x := .of_eq rfl
  have hy : MemStep d y := (hx.trans (x.dropQueues_mem _)).trans (Dev.dropPools_data _ _).mem
  exact (hy.trans (y.dropReqs_mem _ _)).trans (Dev.setPart_data _ _ _).mem

theorem Dev.table214_mem (d : Dev) : MemStep d d.table214 := by
  unfold Dev.table214
  extract_lets x src y
  have hx : MemStep d x := .foldl (fun x2 _ => .unless (x2.releasePart_mem _)) _ _
  have hy : MemStep d y := .rest hx
  exact ((hy.trans (y.mapDom_mem _)).trans (Dev.staleTlb_mem _ _)).trans (Dev.vopReset_mem _)

theorem Dev.endAll_mem (d : Dev) : MemStep d d.endAll := (d.abortNow_work _ _).mem.trans (Dev.table214_mem _)

theorem Dev.warmBegin_mem (d : Dev) (start : Option Nat) : MemStep d (d.warmBegin start) := by
  unfold Dev.warmBegin
  extract_lets x src
  have hx : MemStep d x := d.endAll_mem
  exact .rest hx

theorem Dev.perstAssert_mem (d : Dev) : MemStep d d.perstAssert := by
  unfold Dev.perstAssert
  extract_lets src x src2
  have hx : MemStep d x := .of_eq rfl
  exact .ite hx (.ite (hx.trans (x.warmBegin_mem _)) (.ite (.rest hx) hx))

theorem Dev.perstDeassert_mem (d : Dev) : MemStep d d.perstDeassert := by
  unfold Dev.perstDeassert
  extract_lets src x src2
  have hx : MemStep d x := .of_eq rfl
  exact .ite (.rest hx) hx

theorem Dev.warmReady_mem (d : Dev) : MemStep d d.warmReady := by
  unfold Dev.warmReady
  extract_lets src
  split
  · extract_lets x
    have hx : MemStep d x := .of_eq rfl
    exact .ite (.of_eq rfl) (.when ((((hx.trans x.vopReset_mem).trans (Dev.publishLive_data _).mem).trans (Dev.drawSession_mem _)).trans (Dev.sendIdent_mem _)))
  · exact .refl d

theorem Dev.vfFlr_mem (d : Dev) (p : Nat) : MemStep d (d.vfFlr p) := by
  unfold Dev.vfFlr
  extract_lets qs x src src2 src3 y x2
  have hx : MemStep d x := (d.abortNow_work _ _).mem
  have hy : MemStep d y := .rest hx
  exact ((hy.trans (y.dropReqs_mem _ _)).trans (Dev.setPart_data _ _ _).mem).trans (Dev.staleTlb_mem _ _)

theorem Dev.pfFlr_mem (d : Dev) : MemStep d d.pfFlr := by
  unfold Dev.pfFlr
  extract_lets x y src
  have hx : MemStep d x := .of_eq rfl
  have hy : MemStep d y := hx.trans x.endAll_mem
  exact .ite (.ite (hx.trans (x.warmBegin_mem _)) (.rest hy)) (hx.trans x.endAll_mem)

theorem Dev.cfgRequest_mem (d : Dev) (fn : Fn) (op : CfgOp) : MemStep d (d.cfgRequest fn op) := by
  unfold Dev.cfgRequest
  extract_lets src x
  have hx : MemStep d x := by
    dsimp only [x]
    split
    · exact .refl d
    · exact .of_eq rfl
    · exact .when (.of_eq rfl)
  exact .ite (d.emit_data _).mem (.ite (d.emit_data _).mem (.ite (d.emit_data _).mem (hx.trans (x.emit_data _).mem)))

end Sys2Proof.Machine
end

section
/-!
The field lock (19 R407-R420) and the memory tiers' own work (06 R141-R153, 07 R160-R175) keep memory in its canonical form.
-/
namespace Sys2Proof.Machine

theorem Dev.setLck_mem (d : Dev) (x : Lck) : MemStep d (d.setLck x) := .of_eq rfl

theorem Dev.lckStat_mem (d : Dev) (op : Nat) (s : BitVec 16) : MemStep d (d.lckStat op s) := d.setLck_mem _

/-- A lock command by either path. -/
theorem Dev.lockPath_mem {f : Dev → Dev} (h : ∀ d, MemStep d (f d)) (d : Dev) (src : LockPath) : MemStep d (d.lockPath src f) := by
  unfold Dev.lockPath
  split
  · exact Dev.hostReq?_mem h d _
  · exact .when (h d)

theorem Dev.lckDone_mem (d : Dev) : MemStep d d.lckDone := by
  unfold Dev.lckDone
  split
  · exact .refl _
  · extract_lets x x2 ok x3 lvl judge src src2
    have hx : MemStep d x := .when (d.advTo_data _).mem
    split
    · exact hx.trans (x.setLck_mem _)
    · exact hx.trans (x.setLck_mem _)
    · exact hx.trans (x.setLck_mem _)
    · exact hx.trans ((Dev.setLck_mem _ _).after rfl)
    · exact hx.trans (x.setLck_mem _)

theorem Dev.chalExpire_mem (d : Dev) : MemStep d d.chalExpire := by
  unfold Dev.chalExpire
  extract_lets x src
  have hx : MemStep d x := (d.advTo_data _).mem
  exact .when (hx.trans (x.setLck_mem _))

theorem Dev.testEnSet_mem (d : Dev) (on : Bool) : MemStep d (d.testEnSet on) := (Dev.setLck_mem _ _).after rfl

theorem Dev.tapShiftEnd_mem (d : Dev) (tdo : BitVec 32) : MemStep d (d.tapShiftEnd tdo) := .when (d.setLck_mem _)

theorem Dev.tapRefuse_mem (d : Dev) (s : BitVec 16) : MemStep d (d.tapRefuse s) := (d.setLck_mem _).trans (Dev.lckStat_mem _ _ _)

theorem Dev.tapUpdate_mem (d : Dev) (ir : BitVec 8) : MemStep d (d.tapUpdate ir) := by
  unfold Dev.tapUpdate
  extract_lets src x y src2 src3
  have hx : MemStep d x := d.setLck_mem _
  have hy : MemStep d y := hx.trans (x.abortNow_work _ _).mem
  split
  · exact d.setLck_mem _
  · exact .ite (d.tapRefuse_mem _) (.ite (d.tapRefuse_mem _) (.ite (hy.trans ((Dev.setLck_mem _ _).after rfl)) hx))

/-! The memory tiers' own work. -/

theorem Dev.scrubSlice_mem (d : Dev) (e : Env) (n c : Nat) : MemStep d (d.scrubSlice e n c) := by
  unfold Dev.scrubSlice
  extract_lets s b x acc y s2
  have hx : MemStep d x := .when (d.setSlice_data _ _ _).mem
  have hy : MemStep d y := hx.trans (.foldl (fun x2 _ => by
      extract_lets off
      exact (x2.touchWord_data _ _ _).mem) _ _)
  exact .unless (.ite ((hy.trans (y.setSlice_data _ _ _).mem).trans ((Dev.slicePass_work _).mem)) (hy.trans (y.setSlice_data _ _ _).mem))

theorem Dev.sweepDone_mem (d : Dev) (n c o : Nat) : MemStep d (d.sweepDone n c o) := by
  unfold Dev.sweepDone
  extract_lets s ws x src
  have hx : MemStep d x := .foldl (fun x2 _ => (x2.correctWord_data _ _).mem.trans (Dev.count_data _ _ _ _ _).mem) _ _
  exact .unless (hx.trans (x.setSlice_data _ _ _).mem)

theorem Dev.replaceCa_mem (n c o : Nat) (need : List Nat) : ∀ (d : Dev) (free : List Nat), MemStep d (d.replaceCa n c o need free) := by
  induction need with
  | nil => exact fun d free => .refl d
  | cons l r ih =>
    intro d free
    unfold Dev.replaceCa
    extract_lets x s
    have hx : MemStep d x := (d.logSlc_data _ _ _ _ _).mem
    split
    · exact (hx.trans (x.goReadOnly_data _ _).mem).trans (ih _ _)
    · exact (hx.trans (x.setSlice_data _ _ _).mem).trans (ih _ _)

theorem Dev.testCa_mem (d : Dev) (n c o : Nat) (fails : List Nat) : MemStep d (d.testCa n c o fails) := (d.setSlice_data _ _ _).mem.trans (Dev.replaceCa_mem _ _ _ _ _ _)

theorem Dev.caParity_mem (d : Dev) (n c o : Nat) (f : CaFault) : MemStep d (d.caParity n c o f) := by
  unfold Dev.caParity
  extract_lets x s times
  have hx : MemStep d x := .when (.foldl (fun x2 _ => by
      extract_lets w
      exact ((x2.logSlc_data _ _ _ _ _).mem.trans (Dev.count_data _ _ _ _ _).mem).trans (Dev.poisonWord_data _ _ _).mem) _ _)
  exact .unless (.ite (hx.trans (x.setSlice_data _ _ _).mem) ((hx.trans (x.setSlice_data _ _ _).mem).trans (Dev.testCa_mem _ _ _ _ _)))

theorem Dev.scrubPc_mem (d : Dev) (e : Env) (h p : Nat) : MemStep d (d.scrubPc e h p) := by
  unfold Dev.scrubPc
  extract_lets s w x acc y s2
  have hx : MemStep d x := .when (d.setStack_data _ _).mem
  have hy : MemStep d y := hx.trans (.foldl (fun x2 _ => by
      split
      · exact (x2.touchWord_data _ _ _).mem
      · exact .refl _) _ _)
  exact .unless (.ite ((hy.trans (y.setStack_data _ _).mem).trans (Dev.hbmPass_data _).mem) (hy.trans (y.setStack_data _ _).mem))

theorem Dev.caRetrain_mem (d : Dev) (h p : Nat) (ok : Bool) : MemStep d (d.caRetrain h p ok) := by
  unfold Dev.caRetrain
  extract_lets x
  have hx : MemStep d x := (d.logHbm_data _ _ _ _ _ _).mem
  exact .unless (.ite hx (hx.trans (x.mapOut_data _ _ _ _).mem))

theorem Dev.badTemp_mem (d : Dev) (h : Nat) : MemStep d (d.badTemp h) := (d.setStack_data _ _).mem.trans (Dev.raiseHbm_data _ _).mem

theorem Dev.portFree_mem (d : Dev) : MemStep d d.portFree := .of_eq rfl

theorem Dev.readTemp_mem (d : Dev) (h : Nat) (t : Int) : MemStep d (d.readTemp h t) := by
  unfold Dev.readTemp
  extract_lets x src
  have hx : MemStep d x := d.portFree_mem
  exact .ite hx (.ite (hx.trans (x.setStack_data _ _).mem) (hx.trans (x.badTemp_mem _)))

theorem Dev.reformed_mem (d : Dev) : MemStep d d.reformed := by
  unfold Dev.reformed
  extract_lets x src y
  have hx : MemStep d x := d.formMap_mem.trans (Dev.draw_data _).mem
  have hy : MemStep d y := ⟨fun w => Mem.fill_wf _ _ _ _ (hx.wf w)⟩
  exact .unless (hy.trans (y.raiseHbm_data _).mem)

theorem Dev.bar4Read_mem (d : Dev) (fn : Fn) (e : Env) (off n : Nat) : MemStep d (d.bar4Read fn e off n).1 := by
  unfold Dev.bar4Read
  extract_lets r
  have hr : MemStep d r.1 := .foldlOn Prod.fst (fun x _ => by
      split
      · exact .refl _
      · extract_lets y
        have hy : MemStep x.1 y.1 := (Dev.readWord_data _ _ _).mem
        exact hy) _ ((d, [], false))
  exact .iteFst (.refl _) (.fst (hr.trans (Dev.count_data _ _ _ _ _).mem))

theorem Dev.bar4Write_mem (d : Dev) (fn : Fn) (e : Env) (off : Nat) (b : List Byte) : MemStep d (d.bar4Write fn e off b) := by
  unfold Dev.bar4Write
  extract_lets x
  have hx : MemStep d x := .foldl (fun x2 _ => by
      split
      · exact .refl _
      · exact (x2.writeWord_data _ _ _ _).mem) _ _
  exact hx.trans (x.count_data _ _ _ _).mem

end Sys2Proof.Machine
end

section
/-!
Tensors, observability and writes of registers keep memory in its canonical form; what only reads and writes data changes nothing else.
-/
namespace Sys2Proof.Machine

section
variable {R : Dev → Dev → Prop} (S : Accesses R)
include S

/-- A tensor is read row by row, its scales last. -/
theorem readTensor_step {rd : Nat → Dev → Nat → Nat → RdR} (h : ∀ i d a n, R d (rd i d a n).d) (d : Dev) (t : TD) (alongRows : Bool) :
    R d (readTensor rd d t alongRows).d := by
  unfold readTensor
  extract_lets x y n r
  have hx : R d x.d := S.foldlOn MatR.d (fun x _ => h _ x.d _ _) _ { d := d }
  split
  · exact hx
  · exact S.trans hx (h _ x.d _ _)

theorem Dev.readMat_step (d : Dev) (p : Pkt) (e : Env) (t : TD) (alongRows : Bool) : R d (d.readMat p e t alongRows).d :=
  readTensor_step S (fun _ d a n => S.readP d _ _ a n) d t alongRows

theorem Dev.readVec_step (d : Dev) (p : Pkt) (e : Env) (dva fmt n : Nat) : R d (d.readVec p e dva fmt n).d := S.readP d _ _ _ _

theorem Dev.writeMat_step (d : Dev) (p : Pkt) (e : Env) (t : TD) (rows : List (List Num)) : R d (d.writeMat p e t rows).d := by
  unfold Dev.writeMat
  extract_lets enc x y
  have hx : R d x.d := by
    refine S.foldlOn WrR.d (fun x r => ?_) _ { d := d }
    exact S.writeP x.d _ _ _ _
  split
  · exact S.trans hx (S.writeP x.d _ _ _ _)
  · exact hx

end

/-! Counters, digests and snapshots (18 R386-R404). -/

theorem Dev.clearGroup_data (d : Dev) (bank g : Nat) : DataStep d (d.clearGroup bank g) := .rest (.refl _)

theorem Dev.clearBank_data (d : Dev) (bank : Nat) : DataStep d (d.clearBank bank) := .foldl _ (fun x _ => x.clearGroup_data _ _) _ _

theorem Dev.opCntSnap_data (d : Dev) (p : Pkt) (e : Env) : DataStep d (d.opCntSnap p e).d := by
  unfold Dev.opCntSnap
  extract_lets g bank rec_ x w
  have hx : DataStep d x := .when (d.clearGroup_data _ _)
  exact hx.trans (x.writeP_data _ _ _ _)

theorem Dev.digest_data (d : Dev) (e : Env) (o s : Nat) : DataStep d (d.digest e o s) := by
  unfold Dev.digest
  extract_lets w t x gen bad b y
  have hx : DataStep d x.d := by
    dsimp only [x]
    split
    · exact readTensor_step dataAccesses (fun _ d a n => d.readDva_data _ _ a n) d t true
    · exact .refl d
  exact .unless (.rest hx)

theorem Dev.takeDigest_data (d : Dev) (e : Env) (p : Pkt) (s : Nat) : DataStep d (d.takeDigest e p s) := by
  unfold Dev.takeDigest
  extract_lets x
  have hx : DataStep d x := (d.drainPkt_data _ _).trans (Dev.awaitHeld_data _ _ _)
  split
  · exact hx
  · extract_lets y
    have hy : DataStep d y := .ite (fun _ => hx) (fun _ => hx.trans (x.digest_data _ _ _))
    exact hy.trans (y.modPkt_data _ _)

theorem Dev.opWatch_data (d : Dev) (p : Pkt) (e : Env) : DataStep d (d.opWatch p e).d := by
  unfold Dev.opWatch
  extract_lets s k ps w x
  have hx : DataStep d x := .foldl _ (fun x _ => x.takeDigest_data _ _ _) _ _
  split
  · exact d.writeP_data _ _ _ _
  · exact .rest hx
  · exact .rest hx

/-- A record written to what a packet's address names. -/
theorem Dev.writeRecord_data (d : Dev) (p : Pkt) (e : Env) (dva : Nat) (b : List Byte) : DataStep d (d.writeRecord p e dva b).d :=
  .foldlOn (fun x : WrR × List Byte => x.1.d) _ (fun x _ => writeUntil_data _ _ _ x.1) _ ({ d := d }, b)

/-- A packet's operation concluded. -/
theorem MemStep.conclude {d x : Dev} (h : MemStep d x) {p : Pkt} {st : BitVec 16} {res : Nat} {wrote : List (Nat × Nat)} :
    MemStep d (Dev.conclude p (.mk x st res wrote)) := h.trans (Dev.conclude_data p (.mk x st res wrote)).mem

theorem Dev.setSnp_mem (d : Dev) (k : Nat) (x : SnpFn) : MemStep d (d.setSnp k x) := .of_eq rfl

theorem Dev.snpStart_mem (d : Dev) (k : Nat) (cmd : Option (QRef × BitVec 16)) : MemStep d (d.snpStart k cmd) := d.setSnp_mem _ _

theorem Dev.opSnapshot_mem (d : Dev) (p : Pkt) : MemStep d (d.opSnapshot p) := .unless (d.snpStart_mem _ _)

/-- The end of a snapshot: its record is written, and its engine is free. -/
theorem Dev.snpDone_mem (d : Dev) (fn : Fn) (e : Env) : MemStep d (d.snpDone fn e) := by
  unfold Dev.snpDone
  extract_lets k o x idle a b w y x2 z
  have hidle (u : Dev) : MemStep u (idle u) := u.setSnp_mem _ _
  clear_value idle
  have hw : MemStep d w.d := (writeUntil_data _ _ _ { d := d }).mem
  have hy : MemStep d y := hw.trans (hidle _)
  have hz : MemStep d z := hy.trans (y.setSnp_mem _ _)
  split
  · exact .refl d
  · split
    · split
      · exact hidle d
      · extract_lets b2 w2 u src v
        have hu : MemStep d u := (d.writeRecord_data _ _ _ _).mem.trans (hidle _)
        have hv : MemStep d v := .ite hu (hu.trans (u.setSnp_mem _ _))
        exact hv.conclude
    · exact .ite (hy.trans (y.setSnp_mem _ _)) (.ite hz (hz.trans (z.emit_data _).mem))

/-! Writes of registers (21 Table 21-3). -/

/-- The stored bytes, the queues and the last event logged by a KPM: what a register write reaches by work of its own, if at all. -/
def Dev.stores (d : Dev) : Mem × Tbl Queue × BitVec 56 := (d.mem, d.queues, d.kpm.last)

/-- A relation that writes of registers respect. -/
structure RegWorks extends QueueWorks where
  /-- Stored bytes, queues and the last event stay. -/
  beside : ∀ {d x}, x.stores = d.stores → On d x
  /-- A queue is enabled, disabled or aborted. -/
  wrQctl : ∀ (d : Dev) e q v, On d (d.wrQctl e q v)

/-- Writes of registers keep memory in its canonical form. -/
def memWorks : RegWorks where
  On := MemStep
  acc := {
    refl := .refl
    trans := .trans
    readBytes := fun d acc a n => (d.readBytes_data acc a n).mem
    writeBytes := fun d acc a b => (d.writeBytes_data acc a b).mem
    poisonRange := fun d acc a n => (d.poisonRange_data acc a n).mem
    readA := fun d p acc a n => (d.readA_data p acc a n).mem
    readP := fun d p e a n => (d.readP_data p e a n).mem
    writeP := fun d p e a b => (d.writeP_data p e a b).mem
    poisonP := fun d p e a n => (d.poisonP_data p e a n).mem
    count := fun d o g i n => (d.count_data o g i n).mem
    rest := fun _ _ _ _ => .of_eq rfl }
  rest h := (dataWorks.rest h : DataStep _ _).mem
  putBytes d a b := (d.putBytes_data a b).mem
  endHold d e k := (d.endHold_data e k).mem
  releaseHeld d e := (d.releaseHeld_data e).mem
  setQueue _ _ _ := .of_eq rfl
  setWaits _ _ _ := .of_eq rfl
  beside h := .of_eq (congrArg Prod.fst h)
  wrQctl d e q v := ((d.setQueue_work _ _).trans (Dev.wrQctl_on (W := queueWorks) d e q v)).mem

section
variable {W : RegWorks}

/-- One of two states. -/
theorem Works.On.either {W : Works} {d a b : Dev} {c : Prop} [Decidable c] (ha : W.On d a) (hb : W.On d b) : W.On d (if c then a else b) := ite_step ha hb

theorem Dev.wrPwrReq_on (d : Dev) (v : Nat) : W.On d (d.wrPwrReq v) := .unless (.either (W.beside rfl) (W.beside rfl))

theorem Dev.wrPwrVop_on (d : Dev) (v : Nat) : W.On d (d.wrPwrVop v) := .foldl (fun d n => d.vopRequest n _ _) (fun _ _ => W.beside rfl) _ d

theorem Dev.wrRlcCtl_on (d : Dev) (v : Nat) : W.On d (d.wrRlcCtl v) := .when (W.beside rfl)

theorem Dev.wrNode_on (d : Dev) (v : Nat) : W.On d (d.wrNode v) := .either (W.beside rfl) (W.beside rfl)

theorem Dev.wrSlcCtl_on (d : Dev) (v : Nat) : W.On d (d.wrSlcCtl v) := by
  unfold Dev.wrSlcCtl
  extract_lets src x
  have hx : W.On d x := W.beside rfl
  exact .either (hx.trans (x.fenceCore_on _ _ _ _)) hx

theorem Dev.wrHbmCtl_on (d : Dev) (v : Nat) : W.On d (d.wrHbmCtl v) := .either (W.beside rfl) (.either (W.beside rfl) (W.beside rfl))

theorem Dev.wrEscReq_on (d : Dev) (owner n v : Nat) : W.On d (d.wrEscReq owner n v) := .when (W.beside rfl)

theorem Dev.wrCntVal_on (d : Dev) (fn : Fn) (v : Nat) : W.On d (d.wrCntVal fn v) := by
  unfold Dev.wrCntVal
  split
  · exact .when (W.beside rfl)
  · exact .refl d

theorem Dev.wrSnpCtl_on (d : Dev) (fn : Fn) (v : Nat) : W.On d (d.wrSnpCtl fn v) :=
  .either (W.beside rfl) (.either (W.beside rfl) (.either (W.beside rfl) (W.beside rfl)))

/-- A lock command that the gate lets through. -/
theorem Dev.lockGate_on {f : Dev → Dev} (h : ∀ d, W.On d (f d)) (d : Dev) (op : Nat) (unlock : Bool) : W.On d (d.lockGate op unlock f) :=
  .either (W.beside rfl) (h d)

theorem Dev.lckOpen_on (d : Dev) : W.On d d.lckOpen := by
  unfold Dev.lckOpen
  refine Dev.lockGate_on (fun _ => ?_) d _ _
  exact W.beside rfl

theorem Dev.lckReqChal_on (d : Dev) (lvl : Nat) : W.On d (d.lckReqChal lvl) := by
  unfold Dev.lckReqChal
  refine Dev.lockGate_on (fun _ => ?_) d _ _
  exact .either (W.beside rfl) (.either (W.beside rfl) (W.beside rfl))

theorem Dev.lckSubmit_on (d : Dev) : W.On d d.lckSubmit := by
  unfold Dev.lckSubmit
  refine Dev.lockGate_on (fun _ => ?_) d _ _
  exact W.beside rfl

theorem Dev.lckSetPw_on (d : Dev) : W.On d d.lckSetPw := by
  unfold Dev.lckSetPw
  refine Dev.lockGate_on (fun _ => ?_) d _ _
  exact .either (W.beside rfl) (.either (W.beside rfl) (W.beside rfl))

theorem Dev.lckRelock_on (d : Dev) : W.On d d.lckRelock := by
  unfold Dev.lckRelock
  refine Dev.lockGate_on (fun _ => ?_) d _ _
  exact W.beside rfl

theorem Dev.wrLckCmd_on (d : Dev) (v : Nat) : W.On d (d.wrLckCmd v) := by
  unfold Dev.wrLckCmd
  split
  · exact d.lckOpen_on
  · exact d.lckReqChal_on _
  · exact d.lckSubmit_on
  · exact d.lckSetPw_on
  · exact d.lckRelock_on
  · exact .refl d

theorem Dev.wrTapCtl_on (d : Dev) (v : Nat) : W.On d (d.wrTapCtl v) := W.beside rfl

theorem Dev.wrCtx_on (d : Dev) (o i v : Nat) : W.On d (d.wrCtx o i v) := W.beside rfl

theorem Dev.wrQirq_on (d : Dev) (q : QRef) (v : Nat) : W.On d (d.wrQirq q v) := .unless (d.setQueue_on _ _)

theorem Dev.wrQueue_on (d : Dev) (e : Env) (q : QRef) (r v : Nat) : W.On d (d.wrQueue e q r v) := by
  unfold Dev.wrQueue
  extract_lets x
  split
  · exact .refl d
  split
  · exact W.wrQctl d e q v
  · exact d.wrQirq_on _ _
  split
  · exact .refl d
  split
  · exact d.setQueue_on _ _
  · exact d.setQueue_on _ _
  · exact d.setQueue_on _ _
  · exact d.setQueue_on _ _
  · exact d.setQueue_on _ _
  · exact .refl d

theorem Dev.wrStride_on (d : Dev) (e : Env) (p r v : Nat) : W.On d (d.wrStride e p r v) := by
  unfold Dev.wrStride
  split
  · exact .refl d
  split
  · exact d.wrCtx_on _ _ _
  split
  · exact d.wrQueue_on _ _ _ _
  · exact .refl d

theorem Dev.wrPoolCtl_on (d : Dev) (n k : Nat) (pf : Bool) (v : Nat) : W.On d (d.wrPoolCtl n k pf v) := by
  unfold Dev.wrPoolCtl
  exact .either (.either (d.setPool_on _ _) (.either (d.setPool_on _ _) (d.setPool_on _ _)))
    (.either (.either (d.setPool_on _ _) (d.setPool_on _ _)) (d.setPool_on _ _))

theorem Dev.wrPool_on (d : Dev) (fn : Fn) (n k r v : Nat) : W.On d (d.wrPool fn n k r v) := by
  unfold Dev.wrPool
  extract_lets x
  split
  · exact .refl d
  split
  · exact d.wrPoolCtl_on _ _ _ _
  split
  · exact .refl d
  split
  · exact d.setPool_on _ _
  · exact d.setPool_on _ _
  · exact d.setPool_on _ _
  · exact d.setPool_on _ _
  · exact d.setPool_on _ _
  · exact d.setPool_on _ _
  · exact d.setPool_on _ _
  · exact .refl d

theorem Dev.wrPin_on (d : Dev) (e : Env) (fn : Fn) (v : Nat) : W.On d (d.wrPin e fn v) := by
  unfold Dev.wrPin
  extract_lets key src x refuse a
  have hx : W.On d x := W.beside rfl
  clear_value x
  have hrefuse (y : Dev) : W.On y (refuse y) := W.beside rfl
  refine hx.trans (.unless (.either (hrefuse x) ?_))
  split
  · exact hrefuse x
  · exact .either ((x.readDesc_on _ _).trans (hrefuse _)) ((x.readDesc_on _ _).trans (Dev.writeDesc_on _ _ _ _))

theorem Dev.wrArbKey_on (d : Dev) (p w v : Nat) : W.On d (d.wrArbKey p w v) := .either (W.beside rfl) (.either (W.beside rfl) (W.beside rfl))

theorem Dev.wrKpm_on (d : Dev) (e : Env) (fn : Fn) (off v : Nat) : W.On d (d.wrKpm e fn off v) := by
  unfold Dev.wrKpm
  extract_lets src
  split
  · exact d.wrPool_on _ _ _ _ _
  split
  · exact .unless (d.setPart_on _ _)
  split
  · exact d.wrArbKey_on _ _ _
  · exact .either (W.beside rfl) (.either (d.wrPin_on _ _ _) (.either (W.beside rfl) (.when (W.beside rfl))))

theorem Dev.wrTrn_on (d : Dev) (off v : Nat) : W.On d (d.wrTrn off v) := by
  unfold Dev.wrTrn
  split
  · exact d.setPart_on _ _
  split
  · exact d.wrCtx_on _ _ _
  · exact .refl d

theorem Dev.wrHbm_on (d : Dev) (r v : Nat) : W.On d (d.wrHbm r v) := by
  unfold Dev.wrHbm
  split
  · exact W.beside rfl
  split
  · exact d.wrHbmCtl_on _
  split
  · exact .unless (W.beside rfl)
  · exact .refl d

theorem Dev.wrZf_on (d : Dev) (r v : Nat) : W.On d (d.wrZf r v) := by
  unfold Dev.wrZf
  split
  · exact W.beside rfl
  · exact d.wrRlcCtl_on _
  · exact W.beside rfl
  · exact W.beside rfl
  · exact W.beside rfl
  · exact .refl d

theorem Dev.wrLnk_on (d : Dev) (r v : Nat) : W.On d (d.wrLnk r v) := by
  unfold Dev.wrLnk
  split
  · exact W.beside rfl
  · exact W.beside rfl
  · exact W.beside rfl
  split
  · exact W.beside rfl
  · exact .refl d

theorem Dev.wrThm_on (d : Dev) (r v : Nat) : W.On d (d.wrThm r v) := by
  unfold Dev.wrThm
  split
  · exact W.beside rfl
  · exact W.beside rfl
  · exact W.beside rfl
  · exact W.beside rfl
  · exact .refl d

theorem Dev.wrCnt_on (d : Dev) (fn : Fn) (r v : Nat) : W.On d (d.wrCnt fn r v) := by
  unfold Dev.wrCnt
  extract_lets c
  split
  · exact W.beside rfl
  · exact d.wrCntVal_on _ _
  · exact W.beside rfl
  · exact W.beside rfl
  · exact .refl d

theorem Dev.wrSnp_on (d : Dev) (fn : Fn) (r v : Nat) : W.On d (d.wrSnp fn r v) := by
  unfold Dev.wrSnp
  extract_lets k x
  split
  · exact W.beside rfl
  · exact W.beside rfl
  · exact d.wrSnpCtl_on _ _
  · exact W.beside rfl
  · exact .refl d

theorem Dev.wrLck_on (d : Dev) (r v : Nat) : W.On d (d.wrLck r v) := by
  unfold Dev.wrLck
  split
  · exact d.wrLckCmd_on _
  · exact d.wrTapCtl_on _
  · exact W.beside rfl
  · exact W.beside rfl
  split
  · exact W.beside rfl
  split
  · exact W.beside rfl
  · exact .refl d

theorem Dev.wrSys_on (d : Dev) (e : Env) (fn : Fn) (off v : Nat) : W.On d (d.wrSys e fn off v) := by
  unfold Dev.wrSys
  split
  · exact .refl d
  split
  · exact W.beside rfl
  · exact d.wrNode_on _
  · exact W.beside rfl
  split
  · exact d.wrQueue_on _ _ _ _
  · exact .refl d

theorem Dev.wrPwr_on (d : Dev) (r v : Nat) : W.On d (d.wrPwr r v) := by
  unfold Dev.wrPwr
  split
  · exact d.wrPwrVop_on _
  · exact W.beside rfl
  · exact d.wrPwrReq_on _
  · exact .refl d

theorem Dev.regWrite_on (d : Dev) (e : Env) (fn : Fn) (off v : Nat) : W.On d (d.regWrite e fn off v) := by
  unfold Dev.regWrite
  generalize v % 2 ^ 32 = w
  refine .unless <| .either (d.wrSys_on _ _ _ _) <| .either (d.wrPwr_on _ _) <| .either (.when (d.wrThm_on _ _)) <| .either ?_ <| .unless <|
    .either (d.wrStride_on _ _ _ _) <| .unless <| .either (d.wrKpm_on _ _ _ _) <| .unless <| .either (d.wrTrn_on _ _) <| .either (d.wrHbm_on _ _) <|
    .either ?_ <| .either (d.wrZf_on _ _) <| .either (d.wrLnk_on _ _) <| .either (d.wrCnt_on _ _ _) <| .unless <| .either (d.wrSnp_on _ _ _) <|
    .when (.when (d.wrLck_on _ _))
  · split
    · exact .unless (d.wrEscReq_on _ _ _)
    · exact .refl d
  · generalize off - 0x380000 = r
    split
    · exact W.beside rfl
    · exact d.wrSlcCtl_on _
    · exact .refl d

theorem Dev.regWriteBytes_on (d : Dev) (e : Env) (fn : Fn) (map : Nat → Option Nat) (off : Nat) (b : List Byte) :
    W.On d (d.regWriteBytes e fn map off b) := by
  refine .foldl _ (fun x s => .when ?_) _ d
  split
  · exact x.regWrite_on _ _ _ _
  · exact .refl x

/-- The register writes of units, applied one after the other (21 R436). -/
theorem Dev.applyRegq_on (e : Env) (n : Nat) : ∀ d : Dev, W.On d (Dev.applyRegq e n d) := by
  induction n with
  | zero => exact fun d => d.setDisp_on _
  | succ n ih =>
    intro d
    unfold Dev.applyRegq
    split
    · exact .refl d
    · exact ((d.setDisp_on _).trans (Dev.regWriteBytes_on _ _ _ _ _ _)).trans (ih _)

theorem Dev.flushRegs_on (d : Dev) (e : Env) : W.On d (d.flushRegs e) := Dev.applyRegq_on e _ d

end

theorem Dev.flushRegs_mem (d : Dev) (e : Env) : MemStep d (d.flushRegs e) := Dev.flushRegs_on (W := memWorks) d e

theorem Dev.regReadBytes_data (d : Dev) (fn : Fn) (map : Nat → Option Nat) (off n : Nat) : DataStep d (d.regReadBytes fn map off n).1 := by
  refine .foldlOn (Prod.fst : Dev × List Byte → Dev) _ (fun x s => ?_) _ (d, [])
  split
  · exact .refl x.1
  · split
    · exact x.1.regSide_data _ _
    · exact .refl x.1

end Sys2Proof.Machine
end

section
/-!
Packets that order, signal, invalidate and manage partitions (10 R229-R237, 09 R207, 12 R269-R276).
-/
namespace Sys2Proof.Machine

/-- A packet's operation on data concluded. -/
theorem DataStep.conclude {d x : Dev} (h : DataStep d x) {p : Pkt} {st : BitVec 16} {res : Nat} {wrote : List (Nat × Nat)} :
    DataStep d (Dev.conclude p (.mk x st res wrote)) := h.trans (Dev.conclude_data p (.mk x st res wrote))

/-- A command on a packet, where its operation is one on data. -/
theorem Dev.onPkt_data {f : Dev → Pkt → Dev} (h : ∀ d p, DataStep d (f d p)) (d : Dev) (ops : List Nat) (q : QRef) (tag : BitVec 16) :
    DataStep d (d.onPkt ops q tag f) := by
  unfold Dev.onPkt
  split
  · exact .when (h d _)
  · exact .refl d

theorem Dev.breakAll_data (d : Dev) : DataStep d d.breakAll := .foldl _ (fun x _ => x.dropRsv_data _) _ _

theorem Dev.drainQueue_data (d : Dev) (e : Env) (q : QRef) : DataStep d (d.drainQueue e q) := .foldl _ (fun x _ => x.drain_data _ _) _ _

theorem Dev.opBarrier_data (d : Dev) (p : Pkt) (e : Env) : DataStep d (d.opBarrier p e) := by
  unfold Dev.opBarrier
  extract_lets x
  have hx : DataStep d x := d.drainQueue_data _ _
  exact .ite (fun _ => (hx.trans x.breakAll_data).trans (Dev.finish_data _ _ _ _)) (fun _ => hx)

theorem Dev.opFlush_data (d : Dev) (p : Pkt) : DataStep d (d.opFlush p) := .unless (d.close_data _ _ _)

theorem Dev.pollWait_data (d : Dev) (p : Pkt) (e : Env) : DataStep d (d.pollWait p e) := by
  unfold Dev.pollWait
  extract_lets src
  split
  · exact d.close_data _ _ _
  · extract_lets a r v p2 x
    have hr : DataStep d r.d := d.readBytes_data _ _ _
    have hx : DataStep d x := hr.trans (Dev.modPkt_data _ _ _)
    exact .ite (fun _ => d.close_data _ _ _) (fun _ => .ite (fun _ => hx.trans (x.close_data _ _ _)) (fun _ => .ite (fun _ => hx.trans (x.finish_data _ _ _)) (fun _ => hx)))

theorem Dev.expireWait_data (d : Dev) (p : Pkt) : DataStep d (d.expireWait p) := by
  unfold Dev.expireWait
  split
  · exact .unless ((d.advTo_data _).trans (Dev.close_data _ _ _ _))
  · exact .refl _

theorem Dev.wakeWaits_data (d : Dev) (e : Env) (a : Nat) : DataStep d (d.wakeWaits e a) := .foldl _ (fun x _ => x.pollWait_data _ _) _ _

theorem Dev.opSignal_data (d : Dev) (p : Pkt) (e : Env) : DataStep d (d.opSignal p e) := by
  unfold Dev.opSignal
  extract_lets add x y
  have hx : DataStep d x := d.drainQueue_data _ _
  have hy : DataStep d y := hx.trans (x.modPkt_data _ _)
  split
  · exact d.close_data _ _ _
  · extract_lets a r
    have hr : DataStep d r.1 := hx.trans (x.atomicAt_data _ _ _ _ _ _)
    exact .ite (fun _ => d.close_data _ _ _) (fun _ => .ite (fun _ => d.close_data _ _ _) (fun _ => .unless (.ite (fun _ => hx) (fun _ => .ite (fun _ => .ite (fun _ => hr.trans (Dev.close_data _ _ _ _)) (fun _ => hr.conclude.trans (Dev.wakeWaits_data _ _ _))) (fun _ => .ite (fun _ => hx.trans (x.close_data _ _ _)) (fun _ => (hy.trans (y.request_data _)).trans (Dev.sendAll_data _)))))))

theorem Dev.unmapTaken_data (d : Dev) (sel : Pkt → Bool) : DataStep d (d.unmapTaken sel).1 := .fst (.foldl _ (fun x _ => x.close_data _ _ _) _ _)

theorem Dev.opInvalidate_data (d : Dev) (p : Pkt) : DataStep d (d.opInvalidate p) := by
  unfold Dev.opInvalidate
  extract_lets o k lo hi hit limit sel purge r
  have hpurge (x : Dev) : DataStep x (purge x) := (DataStep.foldl _ (fun x _ => x.purgeRange_data _ _) _ _).since (.rest (.refl x))
  have hr : DataStep d r.1 := .iteFst (fun _ => .refl _) (fun _ => (hpurge d).trans (Dev.unmapTaken_data _ _))
  exact .ite (fun _ => hr.trans (Dev.modPkt_data _ _ _)) (fun _ => hr.trans (Dev.close_data _ _ _ _))

theorem Dev.fillSet_data (d : Dev) (s : PartSet) : DataStep d (d.fillSet s) := .foldl _ (fun x _ => (x.breakRsv_data _ _ _).trans (Dev.zeroFill_data _ _ _)) _ _

theorem Dev.opPartCreate_data (d : Dev) (p : Pkt) : DataStep d (d.opPartCreate p) := by
  unfold Dev.opPartCreate
  extract_lets n s x
  have hx : DataStep d x := (d.fillSet_data _).trans (Dev.clearBank_data _ _)
  exact .unless (.ite (fun _ => d.close_data _ _ _) (fun _ => (hx.trans (x.setPart_data _ _)).trans (Dev.close_data _ _ _ _)))

theorem Dev.dropAbort_mem (d : Dev) (j : AbortJob) : MemStep d (d.dropAbort j) := .of_eq rfl

theorem Dev.finishResize_mem (d : Dev) (p : Pkt) (e : Env) (n : Nat) (s : PartSet) : MemStep d (d.finishResize p e n s) := by
  unfold Dev.finishResize
  extract_lets old rem lost qs x y src z u
  have hx : MemStep d x := .foldl (fun x2 _ => (x2.disableQueue_work _ _).mem) _ _
  have hy : MemStep d y := hx.trans (x.dropQueues_mem _)
  have hz : MemStep d z := .rest hy
  have hu : MemStep d u := (hz.trans (z.dropReqs_mem _ _)).trans (Dev.fillSet_data _ _).mem
  exact (hu.trans (u.setPart_data _ _).mem).trans (Dev.close_data _ _ _ _).mem

theorem Dev.opPartResize_mem (d : Dev) (p : Pkt) (e : Env) : MemStep d (d.opPartResize p e) := by
  unfold Dev.opPartResize
  extract_lets n s x add y sel r
  have hy : MemStep d y := (d.setPart_data _ _).mem.trans (Dev.modPkt_data _ _ _).mem
  have hr : MemStep d r.1 := hy.trans (y.unmapTaken_data _).mem
  exact .unless (.ite (d.close_data _ _ _).mem (.ite (d.close_data _ _ _).mem (.ite ((d.setPart_data _ _).mem.trans (Dev.close_data _ _ _ _).mem) (.ite hr (hr.trans (Dev.finishResize_mem _ _ _ _ _))))))

theorem Dev.endDestroy_mem (d : Dev) (e : Env) (p : Pkt) (j : AbortJob) : MemStep d (d.endDestroy e p j) := by
  unfold Dev.endDestroy
  extract_lets x
  have hx : MemStep d x := .foldl (fun x2 _ => (x2.retireAll_work _ _).mem) _ _
  exact .ite hx (((hx.trans (x.dropAbort_mem _)).trans (Dev.releasePart_mem _ _)).trans (Dev.close_data _ _ _ _).mem)

theorem Dev.opPartDestroy_mem (d : Dev) (p : Pkt) (e : Env) : MemStep d (d.opPartDestroy p e) := by
  unfold Dev.opPartDestroy
  extract_lets n qs start src x r j y src2
  have hx : MemStep d x := ((d.setPart_data _ _).mem.trans (.foldl (fun x2 _ => (x2.finishAborts_work _ _).mem) _ _)).trans (Dev.setRunning_work _ _ _ _).mem
  have hr : MemStep d r.1 := hx.trans (x.cancelNow_work _ _).mem
  have hy : MemStep d y := hr
  split
  · exact d.endDestroy_mem _ _ _
  · exact .unless (.ite (d.close_data _ _ _).mem (hy.trans ((Dev.endDestroy_mem _ _ _ _).after rfl)))

theorem Dev.opSetVop_mem (d : Dev) (p : Pkt) : MemStep d (d.opSetVop p) := .unless ((d.modPkt_data _ _).mem.trans (Dev.vopRequest_mem _ _ _ _))

theorem Dev.opEscRequest_mem (d : Dev) (p : Pkt) : MemStep d (d.opEscRequest p) := by
  unfold Dev.opEscRequest
  extract_lets n x
  have hx : MemStep d x := d.hostReq_mem _ _ _ _
  exact hx.trans (x.finish_data _ _ _).mem

end Sys2Proof.Machine
end

section
/-!
Operations of the arrays and the vector unit (05 R115-R127) are operations on data.
-/
namespace Sys2Proof.Machine

section
variable {R : Dev → Dev → Prop} (S : Accesses R)
include S

theorem Dev.endOps_step (d : Dev) (owner : Nat) (l : List (Nat × Nat × List Nat)) : R d (d.endOps owner l) := by
  unfold Dev.endOps
  exact S.foldl (fun x _ => by
      extract_lets lv ps y last
      have hy : R x y := S.count x _ _ _ _
      exact ite_step hy (S.trans hy (S.rest y _ y.parts y.free))) _ _

theorem Dev.srcFail_step (d : Dev) (p : Pkt) (e : Env) (st : BitVec 16) (rs : List Range) :
    R d (d.srcFail p e st rs).d :=
  ite_step (S.foldl (fun x _ => S.poisonP x _ _ _ _) _ _) (S.refl d)

theorem Dev.countTrees_step (d : Dev) (p : Pkt) : R d (d.countTrees p) := S.foldl (fun _ _ => S.foldl (fun x2 _ => S.count x2 _ _ _ _) _ _) _ _

theorem Dev.opGemm_step (d : Dev) (p : Pkt) (e : Env) : R d (d.opGemm p e).d := by
  unfold Dev.opGemm
  extract_lets conv s cv ta tb td tc m k n cEn bEn bf x y c bi st la cvals bv epi rows w tiles ops z
  have hx : R d x.d := Dev.readMat_step S d _ _ _ _
  have hy : R d y.d := S.trans hx (Dev.readMat_step S _ _ _ _ _)
  have hc : R d c.d := by
    dsimp only [c]
    split
    · exact S.trans hy (Dev.readMat_step S _ _ _ _ _)
    · exact hy
  have hbi : R d bi.d := by
    dsimp only [bi]
    split
    · exact S.trans hc (Dev.readVec_step S _ _ _ _ _ _)
    · exact hc
  have hw : R d w.d := S.trans hbi (Dev.writeMat_step S _ _ _ _ _)
  have hz : R d z := S.trans (S.trans (S.trans hw (Dev.countTrees_step S _ _)) (S.count _ _ _ _ _)) (Dev.endOps_step S _ _ _)
  exact iteOp_step (S.trans hbi (Dev.srcFail_step S _ _ _ _ _)) hz

theorem Dev.opVxu_step (d : Dev) (p : Pkt) (e : Env) : R d (d.opVxu p e).d := by
  unfold Dev.opVxu
  extract_lets op tx ty tz t yEn x y z st xs ys zs k rows w els u
  have hx : R d x.d := Dev.readMat_step S d _ _ _ _
  have hy : R d y.d := by
    dsimp only [y]
    split
    · exact S.trans hx (Dev.readMat_step S _ _ _ _ _)
    · exact hx
  have hz : R d z.d := by
    dsimp only [z]
    split
    · exact S.trans hy (Dev.readMat_step S _ _ _ _ _)
    · exact hy
  have hw : R d w.d := S.trans hz (Dev.writeMat_step S _ _ _ _ _)
  have hu : R d u := S.trans (S.trans hw (S.count _ _ _ _ _)) (Dev.endOps_step S _ _ _)
  exact iteOp_step (S.trans hz (Dev.srcFail_step S _ _ _ _ _)) hu

theorem Dev.opNorm_step (d : Dev) (p : Pkt) (e : Env) : R d (d.opNorm p e).d := by
  unfold Dev.opNorm
  extract_lets tx t v aff x g b st dst kind xs stats gs bs beta rows w w2 els y
  have hx : R d x.d := Dev.readMat_step S d _ _ _ _
  have hg : R d g.d := by
    dsimp only [g]
    split
    · exact S.trans hx (Dev.readVec_step S _ _ _ _ _ _)
    · exact hx
  have hb : R d b.d := by
    dsimp only [b]
    split
    · exact S.trans hg (Dev.readVec_step S _ _ _ _ _ _)
    · exact hg
  have hw : R d w.d := S.trans hb (Dev.writeMat_step S _ _ _ _ _)
  have hw2 : R d w2.d := by
    dsimp only [w2]
    split
    · exact hw
    · exact S.trans hw (S.writeP _ _ _ _ _)
  have hy : R d y := S.trans (S.trans hw2 (S.count _ _ _ _ _)) (Dev.endOps_step S _ _ _)
  exact iteOp_step (S.trans hb (Dev.srcFail_step S _ _ _ _ _)) hy

theorem Dev.opOptim_step (d : Dev) (p : Pkt) (e : Env) : R d (d.opOptim p e).d := by
  unfold Dev.opOptim
  extract_lets n adam cp gf a dst w g m v st vs out put w2 r r2 r3 r4 x
  have hw : R d w.d := Dev.readVec_step S d _ _ _ _ _
  have hg : R d g.d := S.trans hw (Dev.readVec_step S _ _ _ _ _ _)
  have hm : R d m.d := S.trans hg (Dev.readVec_step S _ _ _ _ _ _)
  have hv : R d v.d := by
    dsimp only [v]
    split
    · exact S.trans hm (Dev.readVec_step S _ _ _ _ _ _)
    · exact hm
  have hput (x : WrR) (dva fmt : Nat) (l : List Num) : R x.d (put x dva fmt l).d := S.writeP x.d _ _ _ _
  have hr : R d r.d := S.trans hv (hput { d := v.d } _ _ _)
  have hr2 : R d r2.d := S.trans hr (hput r _ _ _)
  have hr3 : R d r3.d := by
    dsimp only [r3]
    split
    · exact S.trans hr2 (hput r2 _ _ _)
    · exact hr2
  have hr4 : R d r4.d := by
    dsimp only [r4]
    split
    · exact hr3
    · exact S.trans hr3 (hput r3 _ _ _)
  have hx : R d x := S.trans (S.trans hr4 (S.count _ _ _ _ _)) (Dev.endOps_step S _ _ _)
  exact iteOp_step (S.trans hv (Dev.srcFail_step S _ _ _ _ _)) hx

end

theorem Dev.opGemm_data (d : Dev) (p : Pkt) (e : Env) : DataStep d (d.opGemm p e).d := d.opGemm_step dataAccesses p e
theorem Dev.opVxu_data (d : Dev) (p : Pkt) (e : Env) : DataStep d (d.opVxu p e).d := d.opVxu_step dataAccesses p e
theorem Dev.opNorm_data (d : Dev) (p : Pkt) (e : Env) : DataStep d (d.opNorm p e).d := d.opNorm_step dataAccesses p e
theorem Dev.opOptim_data (d : Dev) (p : Pkt) (e : Env) : DataStep d (d.opOptim p e).d := d.opOptim_step dataAccesses p e

/-- A command on the arrays or the vector unit, where its operation is one on data. -/
theorem Dev.onCores_data {f : Dev → Pkt → OpR} (h : ∀ d p, DataStep d (f d p).d) (d : Dev) (ops : List Nat) (q : QRef) (tag : BitVec 16) :
    DataStep d (d.onCores ops q tag f) :=
  Dev.onPkt_data (fun d p => .unless ((h d p).trans (Dev.conclude_data _ _))) d ops q tag

end Sys2Proof.Machine
end

section
/-!
Attention, VERIFY and the packets that use the links (15 R328-R340, 16 R349-R363) are operations on data.
-/
namespace Sys2Proof.Machine

section
variable {R : Dev → Dev → Prop} (S : Accesses R)
include S

theorem Dev.pageAt_step (d : Dev) (p : Pkt) (e : Env) (entry : Nat) : R d (d.pageAt p e entry).d := by
  unfold Dev.pageAt
  extract_lets r raw a y x st
  have hr : R d r.d := S.readA d _ _ _ _
  have hy : R d y.d := S.trans hr (S.readA _ _ _ _ _)
  split
  · exact S.refl _
  · split
    · exact hr
    · split
      · exact hr
      · split
        · exact hr
        · split
          · exact hy
          · split
            · exact hy
            · split
              · exact hy
              · exact hy

theorem Dev.slotPages_step (d : Dev) (p : Pkt) (e : Env) (pages i ng : Nat) : R d (d.slotPages p e pages i ng).d := by
  unfold Dev.slotPages
  extract_lets kvh r
  have hr : R d r.d := Dev.pageAt_step S d _ _ _
  split
  · exact hr
  · extract_lets gs ng2
    split
    · exact hr
    · exact S.trans hr (S.foldlOn Got.d (fun x _ => by
      extract_lets y
      have hy : R x.d y.d := Dev.pageAt_step S _ _ _ _
      split
      · exact S.refl _
      · split
        · exact hy
        · split
          · exact hy
          · exact hy) _ r)

/-- The slots of a sequence, read one after the other until their rows are found. -/
theorem walkSlots_step (p : Pkt) (e : Env) (pages fuel : Nat) :
    ∀ (i n : Nat) (x : Got (List (List PageUse))), R x.d (walkSlots p e pages fuel i n x).d := by
  induction fuel with
  | zero =>
    intro i n x
    unfold walkSlots
    split <;> exact S.refl x.d
  | succ fuel ih =>
    intro i n x
    unfold walkSlots
    extract_lets first y g
    have hy : R x.d y.d := Dev.slotPages_step S x.d _ _ _ _ _
    split
    · exact S.refl x.d
    · split
      · exact hy
      · split
        · exact hy
        · exact S.trans hy (ih _ _ { d := y.d, v := x.v ++ [y.v], st := thenSt x.st y.st })

theorem Dev.planeRows_step (d : Dev) (p : Pkt) (e : Env) (g : PageUse) (hv r0 n : Nat) : R d (d.planeRows p e g hv r0 n).d := by
  unfold Dev.planeRows
  extract_lets po t f o src acc r s rows scs
  have hr : R d r.d := S.readA d _ _ _ _
  have hs : R d s.d := by
    dsimp only [s]
    split
    · exact hr
    · exact S.trans hr (S.readA _ _ _ _ _)
  exact hs

theorem Dev.stampPage_step (d : Dev) (p : Pkt) (e : Env) (g : PageUse) : R d (d.stampPage p e g) :=
  ite_step (S.writeBytes d _ _ _) (S.refl d)

theorem Dev.slotRows_step (d : Dev) (p : Pkt) (e : Env) (l : List PageUse) (r0 n : Nat) (ofTent : Bool) : R d (d.slotRows p e l r0 n ofTent).d := by
  unfold Dev.slotRows
  exact S.foldlOn Got.d (fun x _ => by
      extract_lets x2 r02
      have hx2 : R x.d x2.d := by
        dsimp only [x2]
        split
        · exact S.refl _
        · exact Dev.stampPage_step S _ _ _ _
      exact S.trans hx2 (S.foldlOn Got.d (fun x3 _ => by
      extract_lets a b
      have ha : R x3.d a.d := Dev.planeRows_step S _ _ _ _ _ _ _
      have hb : R x3.d b.d := S.trans ha (Dev.planeRows_step S _ _ _ _ _ _ _)
      exact hb) _ x2)) _ ({ d := d, v := [] })

theorem Dev.keyRows_step (d : Dev) (p : Pkt) (e : Env) (slots : List (List PageUse)) (n : Nat) : R d (d.keyRows p e slots n).d :=
  S.foldlOn (fun x : Got (List (List KV)) × Nat => x.1.d) (fun x _ => Dev.slotRows_step S x.1.d _ _ _ _ _ _) _ ({ d := d, v := [] }, n)

theorem Dev.tentSlot_step (d : Dev) (p : Pkt) (e : Env) (s : SeqEntry) (v : RunVerify) (slots : List (List PageUse)) (ncand : Nat) : R d (d.tentSlot p e s v slots ncand).d := by
  unfold Dev.tentSlot
  extract_lets sum last lx fresh y
  have hy : R d y.d := by
    dsimp only [y]
    split
    · exact S.refl _
    · exact Dev.slotPages_step S d _ _ _ _ _
  split
  · exact S.refl _
  · split
    · exact hy
    · split
      · exact hy
      · exact hy

theorem Dev.opSeq_step (d : Dev) (p : Pkt) (e : Env) (inside : Option RunVerify) (tree : Option TreeUse) (sort : Option (Nat × Bool × Nat × Nat)) (base : Nat) (s : SeqEntry) : R d (d.opSeq p e inside tree sort base s).d := by
  unfold Dev.opSeq
  extract_lets w t sorts sort2 k u qf rb q st src
  have hw : R d w.d := walkSlots_step S _ _ _ _ _ _ { d := d, v := [] }
  have ht : R d t.d := by
    dsimp only [t]
    split
    · split
      · exact hw
      · exact S.trans hw (Dev.tentSlot_step S _ _ _ _ _ _ _)
    · exact hw
  have hk : R d k.d := S.trans ht (Dev.keyRows_step S _ _ _ _ _)
  have hu : R d u.d := by
    dsimp only [u]
    split
    · exact S.trans hk (Dev.slotRows_step S _ _ _ _ _ _ _)
    · exact hk
  have hq : R d q.d := S.trans hu (S.readP _ _ _ _ _)
  split
  · exact ht
  · split
    · exact ht
    · split
      · exact hq
      · exact hq

theorem Dev.writeRuns_step (d : Dev) (p : Pkt) (e : Env) (l : List (Nat × List Byte)) : R d (d.writeRuns p e l).d := by
  unfold Dev.writeRuns
  exact S.foldlOn WrR.d (fun x _ => by
      extract_lets y
      have hy : R x.d y.d := S.writeP _ _ _ _ _
      exact hy) _ ({ d := d })

theorem Dev.countEmpty_step (d : Dev) (o n : Nat) : R d (d.countEmpty o n) :=
  ite_step (S.rest d d.units _ d.free) (S.refl d)

theorem Dev.endAtu_step (d : Dev) (p : Pkt) : R d (d.endAtu p) :=
  S.trans (S.draw d) (Dev.endOps_step S _ _ _)

theorem Dev.mixRuns_step (d : Dev) (p : Pkt) (e : Env) (l : List (Nat × List Byte)) : R d (d.mixRuns p e l) :=
  S.foldl (fun x _ => ite_step (S.trans (S.draw x) (S.writeP _ _ _ _ _)) (S.draw x)) _ _

theorem Dev.attendTree_step (d : Dev) (p : Pkt) (e : Env) (inside : Option RunVerify) (depth : Nat) : R d (d.attendTree p e inside depth).d := by
  unfold Dev.attendTree
  split
  · exact S.refl _
  · extract_lets r t
    have hr : R d r.d := S.readP d _ _ _ _
    split
    · exact S.refl _
    · split
      · exact hr
      · split
        · exact hr
        · exact hr

theorem Dev.opAttend_step (d : Dev) (p : Pkt) (e : Env) (inside : Option RunVerify) (depth : Nat) : R d (d.opAttend p e inside depth).d := by
  unfold Dev.opAttend
  extract_lets t r g f w x
  have ht : R d t.d := Dev.attendTree_step S d _ _ _ _
  have hr : R d r.1.d := by
    refine S.trans ht (S.foldlOn (fun x : Got SeqOut × Nat => x.1.d) (fun x s => ?_) _ ({ d := t.d, v := {}, st := t.st }, 0))
    split
    · exact S.refl x.1.d
    · extract_lets y
      have hy : R x.1.d y.d := Dev.opSeq_step S x.1.d _ _ _ _ _ _ _
      split <;> exact hy
  have hg : R d g.d := hr
  have hf : R d f.d := iteOp_step (S.trans hg (Dev.srcFail_step S _ _ _ _ _)) ((S.trans hg (Dev.mixRuns_step S _ _ _ _)))
  have hw : R d w.d := S.trans hg (Dev.writeRuns_step S _ _ _ _)
  have hx : R d x := S.trans (S.trans (S.trans hw (Dev.countEmpty_step S _ _ _)) (S.count _ _ _ _ _)) (Dev.endAtu_step S _ _)
  exact iteOp_step (hf) (hx)

theorem Dev.readStream_step (d : Dev) (p : Pkt) (e : Env) (o n : Nat) : R d (d.readStream p e o n).d := by
  unfold Dev.readStream
  extract_lets r
  have hr : R d r.d := S.readP d _ _ _ _
  exact hr

theorem Dev.targetRow_step (d : Dev) (p : Pkt) (e : Env) (v : RunVerify) (i : Nat) : R d (d.targetRow p e v i).d := by
  unfold Dev.targetRow
  extract_lets r z
  have hr : R d r.d := S.readP d _ _ _ _
  split
  · exact hr
  · split
    · exact hr
    · exact hr

/-- Acceptance goes from node to node along the tree. -/
theorem acceptFrom_step (p : Pkt) (e : Env) (v : RunVerify) (mode : Nat) (u : List Num) (fuel : Nat) :
    ∀ (cur : Nat) (d : Dev) (path : List Nat) (st : BitVec 16), R d (acceptFrom p e v mode u fuel cur d path st).d := by
  induction fuel with
  | zero => exact fun _ d _ _ => S.refl d
  | succ fuel ih =>
    intro cur d path st
    unfold acceptFrom
    extract_lets g kids r
    have hg : R d g.d := Dev.targetRow_step S d _ _ _ _
    split
    · exact hg
    · split
      · exact S.trans hg (ih _ _ _ _)
      · exact hg

theorem Dev.pagesFull_step (d : Dev) (p : Pkt) (e : Env) (v : RunVerify) : R d (d.pagesFull p e v).d := by
  unfold Dev.pagesFull
  exact S.foldlOn Got.d (fun x _ => by
      extract_lets r
      have hr : R x.d r.1 := Dev.readDesc_step S _ _ _
      split
      · exact S.refl _
      · exact hr) _ ({ d := d, v := () })

theorem Dev.verifyU_step (d : Dev) (p : Pkt) (e : Env) (n : Nat) : R d (d.verifyU p e n).d := by
  unfold Dev.verifyU
  extract_lets r u
  have hr : R d r.d := S.readP d _ _ _ _
  split
  · exact hr
  · exact S.refl _
  · exact S.refl _

theorem Dev.commitAll_step (d : Dev) (p : Pkt) (e : Env) (v : RunVerify) (l : List Nat) : R d (d.commitAll p e v l).d := by
  unfold Dev.commitAll
  exact S.foldlOn Got.d (fun x _ => by
      extract_lets r
      have hr : R x.d r.1 := Dev.readDesc_step S _ _ _
      split
      · exact hr
      · extract_lets w
        have hw : R x.d w.d := S.trans hr (Dev.commitRows_step S _ _ _ _ _ _)
        split
        · exact hr
        · exact hw) _ ({ d := d, v := 0 })

end

theorem Dev.opAttend_data (d : Dev) (p : Pkt) (e : Env) (inside : Option RunVerify) (depth : Nat) : DataStep d (d.opAttend p e inside depth).d :=
  d.opAttend_step dataAccesses p e inside depth

theorem Dev.modVerify_data (d : Dev) (p : Pkt) (f : RunVerify → RunVerify) : DataStep d (d.modVerify p f) := .rest (.refl _)

theorem Dev.rejectTree_data (d : Dev) (p : Pkt) (st : BitVec 16) : DataStep d (d.rejectTree p st) := d.draw_data.trans (Dev.finish_data _ _ _ _)

theorem Dev.opVerify_data (d : Dev) (p : Pkt) (e : Env) : DataStep d (d.opVerify p e) := by
  unfold Dev.opVerify
  extract_lets r t v x src
  have hr : DataStep d r.d := d.readP_data _ _ _ _
  have hx : DataStep d x := hr
  exact .unless (.ite (fun _ => hr.trans (Dev.rejectTree_data _ _ _)) (fun _ => .ite (fun _ => hr.trans (Dev.rejectTree_data _ _ _)) (fun _ => .rest hx)))

theorem Dev.opStream_data (d : Dev) (sp : Pkt) (e : Env) (v : RunVerify) (depth : Nat) : DataStep d (d.opStream sp e v depth).d := by
  unfold Dev.opStream
  split
  · exact d.opVxu_data _ _
  · exact d.opNorm_data _ _
  · exact d.opOptim_data _ _
  · exact d.opAttend_data _ _ _ _
  · exact d.opAttend_data _ _ _ _
  · exact d.opAppend_data _ _ _
  · exact .op d.breakAll_data
  · exact d.opGemm_data _ _

/-- The end of a packet of a stream: it fails the VERIFY, or the stream goes on behind it. -/
theorem endStream_data (p sp : Pkt) (e : Env) (len : Nat) (st : BitVec 16) (r : OpR) : DataStep r.d (endStream p sp e len st r) := by
  unfold endStream
  extract_lets x fell st2 y
  have hx : DataStep r.d x := (r.d.drainPkt_data _ _).trans (Dev.awaitHeld_data _ _ _)
  have hy : DataStep r.d y := hx.trans (x.modPkt_data _ _)
  exact .ite (fun _ => hx.trans (x.cancelVerify_data _ _ _)) (fun _ => hy.trans (y.modVerify_data _ _))

theorem Dev.stepStream_data (d : Dev) (p : Pkt) (e : Env) : DataStep d (d.stepStream p e) := by
  unfold Dev.stepStream
  split
  · exact .refl _
  · extract_lets h0 h s b sp ps c cores src sp2
    have hh0 : DataStep d h0.d := d.readStream_step dataAccesses _ _ _ _
    have hb : DataStep d b.d := by
      dsimp only [b]
      split
      · exact hh0
      · exact hh0.trans (Dev.readStream_step dataAccesses _ _ _ _ _)
    have hc : DataStep d c.1 := hb.trans (Dev.capture_data _ _ _ _ _)
    split
    · exact .refl _
    · split
      · exact hh0.trans (Dev.cancelVerify_data _ _ _ _)
      · split
        · exact hh0.trans (Dev.cancelVerify_data _ _ _ _)
        · split
          · exact hb.trans (Dev.cancelVerify_data _ _ _ _)
          · split
            · exact hb.trans (Dev.cancelVerify_data _ _ _ _)
            · split
              · exact hc.trans (Dev.cancelVerify_data _ _ _ _)
              · exact .ite (fun _ => hc.trans (Dev.cancelVerify_data _ _ _ _)) (fun _ => .unless ((hc.trans (Dev.opStream_data _ _ _ _ _)).trans (endStream_data _ _ _ _ _ _)))

theorem Dev.commitVerify_data (d : Dev) (p : Pkt) (e : Env) (v : RunVerify) (a : Accepted) (st : BitVec 16) : DataStep d (d.commitVerify p e v a st) := by
  unfold Dev.commitVerify
  extract_lets c toks w x src y n x2 z st2 res wrote
  have hc : DataStep d c.d := d.commitAll_step dataAccesses _ _ _ _
  have hw : DataStep d w.d := hc.trans (Dev.writeP_data _ _ _ _ _)
  have hx : DataStep d x := hw
  have hy : DataStep d y := .rest hx
  have hz : DataStep d z := .ite (fun _ => hy.trans (y.setPart_data _ _)) (fun _ => hy)
  exact .ite (fun _ => (hz.trans z.draw_data).trans (Dev.finish_data _ _ _ _)) (fun _ => hz.conclude)

theorem Dev.acceptVerify_data (d : Dev) (p : Pkt) (e : Env) : DataStep d (d.acceptVerify p e) := by
  unfold Dev.acceptVerify
  split
  · exact .refl _
  · extract_lets a u g
    have ha : DataStep d a.d := d.pagesFull_step dataAccesses _ _ _
    have hu : DataStep d u.d := ha.trans (Dev.verifyU_step dataAccesses _ _ _ _)
    have hg : DataStep d g.d := hu.trans (acceptFrom_step dataAccesses _ _ _ _ _ _ _ _ _ _)
    exact .unless (.ite (fun _ => ha.trans (Dev.cancelVerify_data _ _ _ _)) (fun _ => .ite (fun _ => hu.trans (Dev.cancelVerify_data _ _ _ _)) (fun _ => .ite (fun _ => hu.trans (Dev.cancelVerify_data _ _ _ _)) (fun _ => .ite (fun _ => hg.trans (Dev.cancelVerify_data _ _ _ _)) (fun _ => hg.trans (Dev.commitVerify_data _ _ _ _ _ _))))))

theorem Dev.opSend_data (d : Dev) (p : Pkt) (e : Env) : DataStep d (d.opSend p e) := by
  unfold Dev.opSend
  extract_lets segs note st r job x src y
  have hr : DataStep d r.d := d.readP_data _ _ _ _
  have hx : DataStep d x := hr
  have hy : DataStep d y := .rest hx
  exact .unless (.ite (fun _ => d.close_data _ _ _) (fun _ => .ite (fun _ => hr.trans (Dev.close_data _ _ _ _)) (fun _ => (hy.trans (.foldlOn Prod.fst _ (fun x2 _ => .fst (Dev.request_data _ _)) _ ((y, r.bytes)))).trans (Dev.sendAll_data _))))

theorem Dev.opRemoteAtomic_data (d : Dev) (p : Pkt) (e : Env) : DataStep d (d.opRemoteAtomic p e) := by
  unfold Dev.opRemoteAtomic
  extract_lets op wide x
  have hx : DataStep d x := d.drainQueue_data _ _
  split
  · exact d.close_data _ _ _
  · extract_lets a r
    have hr : DataStep d r.1 := hx.trans (x.atomicAt_data _ _ _ _ _ _)
    exact .ite (fun _ => d.close_data _ _ _) (fun _ => .ite (fun _ => d.close_data _ _ _) (fun _ => .unless (.ite (fun _ => hx) (fun _ => .ite (fun _ => .ite (fun _ => hr.trans (Dev.close_data _ _ _ _)) (fun _ => hr.conclude.trans (Dev.wakeWaits_data _ _ _))) (fun _ => .ite (fun _ => hx.trans (x.close_data _ _ _)) (fun _ => ((hx.trans (x.modPkt_data _ _)).trans (Dev.request_data _ _)).trans (Dev.sendAll_data _)))))))

theorem Dev.opRouteSet_data (d : Dev) (p : Pkt) : DataStep d (d.opRouteSet p) := .ite (fun _ => (Dev.close_data _ _ _ _).since (.rest (.refl _))) (fun _ => d.close_data _ _ _)

end Sys2Proof.Machine
end

section
/-!
Every command, and so every step, keeps memory in its canonical form.
-/
namespace Sys2Proof.Machine

theorem Dev.latchTime_mem (d : Dev) (fn : Fn) : MemStep d (d.latchTime fn) := .of_eq rfl

theorem Dev.raisePwr_mem (d : Dev) (m : BitVec 6) : MemStep d (d.raisePwr m) := .of_eq rfl

theorem Dev.fcSend_mem (d : Dev) (typ : Byte) (payload : List Byte) : MemStep d (d.fcSend typ payload) := by
  unfold Dev.fcSend
  extract_lets u x src
  have hx : MemStep d x := (d.emit_data _).mem
  exact .rest hx

theorem Dev.canSend_mem (d : Dev) (id : Nat) (data : List Byte) : MemStep d (d.canSend id data) := (d.emit_data _).mem

theorem Dev.sendStatus_mem (d : Dev) (power : BitVec 16) : MemStep d (d.sendStatus power) := by
  unfold Dev.sendStatus
  extract_lets p x src
  have hx : MemStep d x := d.supSend_mem _ _
  exact .rest hx

theorem Dev.toSup_mem (d : Dev) (f : Frame) : MemStep d (d.toSup f) := d.supFrame_mem _

theorem Dev.toFc_mem (d : Dev) (f : Frame) : MemStep d (d.toFc f) := d.fcFrame_mem _

theorem Dev.lasting_mem (d : Dev) : MemStep d d.lasting := .of_eq rfl

theorem Dev.loseAux_mem (d : Dev) : MemStep d d.loseAux := .of_eq rfl

theorem Dev.powerDown_mem (d : Dev) : MemStep d d.powerDown := by
  unfold Dev.powerDown
  extract_lets x src
  have hx : MemStep d x := d.lasting_mem.trans (Dev.loseAux_mem _)
  exact .rest hx

theorem Dev.disableConverter_mem (d : Dev) (st : FcState) : MemStep d (d.disableConverter st) := by
  unfold Dev.disableConverter
  extract_lets x src src2
  have hx : MemStep d x := d.powerDown_mem
  exact .rest hx

/-- A command ends in a next state, which differs in the module alone and whose memory is in canonical form if it was. -/
def KeepsForm (s : State) (o : Host.Outcome State Fault Refusal) : Prop := ∃ d : Dev, o = .next { s with dev := d } ∧ MemStep s.dev d

theorem onDev_keepsForm {f : Dev → Dev} (h : ∀ d, MemStep d (f d)) (s : State) : KeepsForm s (onDev s f) := ⟨_, rfl, h _⟩

theorem onUp_keepsForm {f : Dev → Dev} (h : ∀ d, MemStep d (f d)) (s : State) : KeepsForm s (onUp s f) := onDev_keepsForm (fun d => .when (h d)) s

theorem onRun_keepsForm {f : Dev → Dev} (h : ∀ d, MemStep d (f d)) (s : State) (e : Env) : KeepsForm s (onRun s e f) :=
  onUp_keepsForm (fun d => (h d).trans (Dev.flushRegs_mem _ _)) s

theorem onHost_keepsForm {f : Dev → Dev} (h : ∀ d, MemStep d (f d)) (s : State) (fn : Fn) (e : Env) : KeepsForm s (onHost s fn e f) :=
  onDev_keepsForm (fun d => Dev.hostReq?_mem (fun x => (h x).trans (Dev.flushRegs_mem _ _)) d fn) s

/-- Every command keeps memory in its canonical form: its operation does, and so do the register writes that wait for it. -/
theorem exec_keepsForm (c : Instr) (s : State) : KeepsForm s (exec c s) := by
  unfold exec
  cases c with
  | fcHousekeepingUp =>
    refine onDev_keepsForm (fun d => ?_) s
    exact .unless (.of_eq rfl)
  | uvRising =>
    refine onDev_keepsForm (fun d => ?_) s
    extract_lets src x
    have hx : MemStep d x := .of_eq rfl
    exact .when (.ite hx (hx.trans x.wantConverter_mem))
  | uvFalling =>
    refine onDev_keepsForm (fun d => ?_) s
    exact (Dev.disableConverter_mem _ _).after rfl
  | ovRising =>
    refine onDev_keepsForm (fun d => ?_) s
    exact (Dev.disableConverter_mem _ _).after rfl
  | ovFalling =>
    refine onDev_keepsForm (fun d => ?_) s
    extract_lets src x src2
    have hx : MemStep d x := .of_eq rfl
    exact .when (.ite (.rest hx) (hx.trans x.wantConverter_mem))
  | converterReenableDelay =>
    refine onDev_keepsForm (fun d => ?_) s
    extract_lets src x
    have hx : MemStep d x := .of_eq rfl
    exact .when (.ite (hx.trans x.enableConverter_mem) hx)
  | railPowerGood =>
    refine onDev_keepsForm (fun d => ?_) s
    extract_lets src x
    have hx : MemStep d x := .of_eq rfl
    exact .when (.ite (hx.trans x.suppliesValid_mem) hx)
  | inputBelow44V _ =>
    refine onDev_keepsForm (fun d => ?_) s
    exact .when (.ite (.of_eq rfl) ((Dev.sendCapIfMoved_mem _).after rfl))
  | derivedCapTick _ =>
    refine onDev_keepsForm (fun d => ?_) s
    exact .when ((Dev.sendCapIfMoved_mem _).after rfl)
  | hostPowerDown =>
    refine onDev_keepsForm (fun d => ?_) s
    exact d.powerDown_mem
  | facStatusPeriod _ =>
    refine onDev_keepsForm (fun d => ?_) s
    exact .when (d.fcSend_mem _ _)
  | fcStateFramePeriod _ =>
    refine onDev_keepsForm (fun d => ?_) s
    exact .when (d.canSend_mem _ _)
  | hstStatusPeriod _ =>
    refine onDev_keepsForm (fun d => ?_) s
    exact .when (d.sendStatus_mem _)
  | canFacShedNow _ =>
    refine onDev_keepsForm (fun d => ?_) s
    exact .when (d.fcSend_mem _ _)
  | canFacIsolateWarn _ =>
    refine onDev_keepsForm (fun d => ?_) s
    exact .when (d.fcSend_mem _ _)
  | canFacPowerCap _ =>
    refine onDev_keepsForm (fun d => ?_) s
    exact .when ((Dev.sendCapIfMoved_mem _).after rfl)
  | canFacIdentReq _ =>
    refine onDev_keepsForm (fun d => ?_) s
    exact .when ((Dev.fcSend_mem _ _ _).after rfl)
  | facStatus _ =>
    refine onDev_keepsForm (fun d => ?_) s
    exact d.toSup_mem _
  | facPowerCap _ =>
    refine onDev_keepsForm (fun d => ?_) s
    exact d.toSup_mem _
  | facShedNow _ =>
    refine onDev_keepsForm (fun d => ?_) s
    exact d.toSup_mem _
  | facCoolant _ =>
    refine onDev_keepsForm (fun d => ?_) s
    exact d.toSup_mem _
  | facIsolateWarn _ =>
    refine onDev_keepsForm (fun d => ?_) s
    exact d.toSup_mem _
  | facIdentReq _ =>
    refine onDev_keepsForm (fun d => ?_) s
    exact d.toSup_mem _
  | facAck _ =>
    refine onDev_keepsForm (fun d => ?_) s
    exact d.toSup_mem _
  | hstStatus _ =>
    refine onDev_keepsForm (fun d => ?_) s
    exact d.toFc_mem _
  | hstStopRecord _ =>
    refine onDev_keepsForm (fun d => ?_) s
    exact d.toFc_mem _
  | hstTripRecord _ =>
    refine onDev_keepsForm (fun d => ?_) s
    exact d.toFc_mem _
  | hstIdent _ =>
    refine onDev_keepsForm (fun d => ?_) s
    exact d.toFc_mem _
  | hstPowerReq _ =>
    refine onDev_keepsForm (fun d => ?_) s
    exact d.toFc_mem _
  | hstThermal _ =>
    refine onDev_keepsForm (fun d => ?_) s
    exact d.toFc_mem _
  | hstAck _ =>
    refine onDev_keepsForm (fun d => ?_) s
    exact d.toFc_mem _
  | barrierRetransmitTimeout _ _ =>
    refine onDev_keepsForm (fun d => ?_) s
    exact d.retransmit_mem _ _
  | barrierLostTimeout =>
    refine onDev_keepsForm (fun d => ?_) s
    exact .when ((Dev.raisePwr_mem _ _).after rfl)
  | hostSilentTimeout =>
    refine onDev_keepsForm (fun d => ?_) s
    exact .when ((Dev.serveRetained_mem _).after rfl)
  | identAnswerTimeout =>
    refine onDev_keepsForm (fun d => ?_) s
    extract_lets src x
    have hx : MemStep d x := .of_eq rfl
    exact .when (.ite (hx.trans (x.canSend_mem _ _)) (hx.trans x.serveRetained_mem))
  | isolateHalt =>
    refine onDev_keepsForm (fun d => ?_) s
    split
    · exact .refl _
    · extract_lets x src
      have hx : MemStep d x := (d.advTo_data _).mem
      exact .when (.rest hx)
  | pwrReqGo _ _ =>
    refine onDev_keepsForm (fun d => ?_) s
    exact Dev.hostReq?_mem (fun x => .when (x.wrPwrReq_on (W := memWorks) _)) _ _
  | pwrVopWrite _ _ =>
    refine onDev_keepsForm (fun d => ?_) s
    exact Dev.hostReq?_mem (fun x => .when (x.wrPwrVop_on (W := memWorks) _)) _ _
  | vopChangeDone _ =>
    refine onUp_keepsForm (fun d => ?_) s
    exact d.vopDone_mem _
  | smbusReady =>
    refine onDev_keepsForm (fun d => ?_) s
    exact .when (.of_eq rfl)
  | smbusBlockRead _ _ =>
    refine onDev_keepsForm (fun d => ?_) s
    extract_lets a b pec
    exact .when (d.emit_data _).mem
  | smbusWrite _ _ _ =>
    refine onDev_keepsForm (fun d => ?_) s
    exact .when (d.emit_data _).mem
  | clockPhaseEnd =>
    refine onDev_keepsForm (fun d => ?_) s
    exact d.endClock_mem
  | fusePhaseEnd _ =>
    refine onUp_keepsForm (fun d => ?_) s
    exact d.endFuse_mem _
  | zfPhaseEnd _ =>
    refine onUp_keepsForm (fun d => ?_) s
    exact d.endZf_mem _
  | memPhaseEnd _ =>
    refine onUp_keepsForm (fun d => ?_) s
    exact d.endMem_mem _
  | assayPhaseEnd _ =>
    refine onUp_keepsForm (fun d => ?_) s
    exact d.endAssay_mem _
  | sysReadySet =>
    refine onUp_keepsForm (fun d => ?_) s
    exact d.setReady_mem
  | phaseDeadline _ =>
    refine onUp_keepsForm (fun d => ?_) s
    exact d.deadline_mem _
  | sessionQuietEnd =>
    refine onUp_keepsForm (fun d => ?_) s
    exact .when ((Dev.sendAll_data _).mem.after rfl)
  | pcieConfigRequest _ _ =>
    refine onDev_keepsForm (fun d => ?_) s
    exact d.cfgRequest_mem _ _
  | perstAssert =>
    refine onDev_keepsForm (fun d => ?_) s
    exact d.perstAssert_mem.trans (Dev.flushRegs_mem _ _)
  | perstDeassert =>
    refine onDev_keepsForm (fun d => ?_) s
    exact d.perstDeassert_mem.trans (Dev.flushRegs_mem _ _)
  | warmRestartReady =>
    refine onRun_keepsForm (fun d => ?_) s _
    exact d.warmReady_mem
  | vfFlr _ =>
    refine onRun_keepsForm (fun d => ?_) s _
    exact .when (d.vfFlr_mem _)
  | pfFlr =>
    refine onRun_keepsForm (fun d => ?_) s _
    exact .when d.pfFlr_mem
  | bar4Resize _ _ =>
    refine onUp_keepsForm (fun d => ?_) s
    exact .when (.of_eq rfl)
  | refclkLoss =>
    refine onDev_keepsForm (fun d => ?_) s
    extract_lets src x src2
    have hx : MemStep d x := .of_eq rfl
    exact .ite (hx.trans ((Dev.emit_data _ _).mem.after rfl)) hx
  | refclkReturn =>
    refine onDev_keepsForm (fun d => ?_) s
    extract_lets src x src2
    have hx : MemStep d x := .of_eq rfl
    exact .ite (.rest hx) hx
  | paceWindow _ =>
    refine onUp_keepsForm (fun d => ?_) s
    exact .when ((d.advTo_data _).mem.trans (Dev.latchPace_mem _ _))
  | sysTimeLoRead _ =>
    refine onDev_keepsForm (fun d => ?_) s
    exact Dev.hostReq?_mem (fun x => (x.latchTime_mem _).trans (Dev.emit_data _ _).mem) _ _
  | sliceRefresh =>
    refine onUp_keepsForm (fun d => ?_) s
    exact .of_eq rfl
  | hbmRefresh =>
    refine onUp_keepsForm (fun d => ?_) s
    exact .of_eq rfl
  | sliceScrubBurst _ _ _ =>
    refine onUp_keepsForm (fun d => ?_) s
    exact (d.applyEnv_data _).mem.trans (Dev.scrubSlice_mem _ _ _ _)
  | repairSweepDone _ _ _ _ =>
    refine onUp_keepsForm (fun d => ?_) s
    exact (d.applyEnv_data _).mem.trans (Dev.sweepDone_mem _ _ _ _)
  | caParityError _ _ _ _ _ =>
    refine onUp_keepsForm (fun d => ?_) s
    exact (d.applyEnv_data _).mem.trans (Dev.caParity_mem _ _ _ _ _)
  | evacExpiry _ _ =>
    refine onRun_keepsForm (fun d => ?_) s _
    split
    · exact .when ((d.advTo_data _).mem.trans ((Dev.fenceCore_work _ _ _ _ _).mem))
    · exact .refl _
  | slcCtlFenceNow _ _ =>
    refine onHost_keepsForm (fun d => ?_) s _ _
    exact .when (d.wrSlcCtl_on (W := memWorks) _)
  | layerResourceFail _ =>
    refine onRun_keepsForm (fun d => ?_) s _
    exact (d.loseStack_work _ _).mem
  | hbmScrubBurst _ _ _ =>
    refine onUp_keepsForm (fun d => ?_) s
    exact (d.applyEnv_data _).mem.trans (Dev.scrubPc_mem _ _ _ _)
  | hbmCaRetrainDone _ _ _ =>
    refine onUp_keepsForm (fun d => ?_) s
    exact d.caRetrain_mem _ _ _
  | hbmTempRead _ _ =>
    refine onUp_keepsForm (fun d => ?_) s
    extract_lets x
    have hx : MemStep d x := d.readTemp_mem _ _
    exact .ite (hx.trans (x.tripCut_mem _ _)) hx
  | hbmTempReadTimeout _ =>
    refine onUp_keepsForm (fun d => ?_) s
    exact .when (d.portFree_mem.trans (Dev.badTemp_mem _ _))
  | hbmCtlReform _ _ =>
    refine onDev_keepsForm (fun d => ?_) s
    exact Dev.hostReq?_mem (fun x => .when (x.wrHbmCtl_on (W := memWorks) _)) _ _
  | reformDone =>
    refine onUp_keepsForm (fun d => ?_) s
    exact d.reformed_mem
  | bar4Read _ _ _ _ =>
    refine onDev_keepsForm (fun d => ?_) s
    exact Dev.hostReq?_mem (fun x => by
      extract_lets r
      have hr : MemStep x r.1 := (x.applyEnv_data _).mem.trans (Dev.bar4Read_mem _ _ _ _ _)
      exact hr.trans (Dev.emit_data _ _).mem) _ _
  | bar4Write _ _ _ _ =>
    refine onDev_keepsForm (fun d => ?_) s
    exact Dev.hostReq?_mem (fun x => (x.applyEnv_data _).mem.trans (Dev.bar4Write_mem _ _ _ _ _)) _ _
  | zfParityFail _ _ =>
    refine onRun_keepsForm (fun d => ?_) s _
    exact d.zfParity_mem _ _
  | zfRlcPurgeAll _ _ =>
    refine onHost_keepsForm (fun d => ?_) s _ _
    exact .when (d.wrRlcCtl_on (W := memWorks) _)
  | partnerResponse _ _ =>
    refine onUp_keepsForm (fun d => ?_) s
    exact (d.applyEnv_data _).mem.trans (Dev.prtResponse_data _ _).mem
  | partnerResponseTimeout _ _ =>
    refine onUp_keepsForm (fun d => ?_) s
    exact (d.applyEnv_data _).mem.trans (Dev.prtTimeout_data _ _).mem
  | partnerInboundRequest _ _ =>
    refine onUp_keepsForm (fun d => ?_) s
    exact (d.meet_data _ _).mem.trans (Dev.prtInbound_data _ _ _).mem
  | partnerLinkLoss _ =>
    refine onUp_keepsForm (fun d => ?_) s
    exact (d.applyEnv_data _).mem.trans (Dev.partnerLost_data _ _).mem
  | sysNodeWrite _ _ =>
    refine onHost_keepsForm (fun d => ?_) s _ _
    exact .when (d.wrNode_on (W := memWorks) _)
  | qCtlEnable _ _ _ =>
    refine onHost_keepsForm (fun d => ?_) s _ _
    exact .when (memWorks.wrQctl d _ _ _)
  | qCtlDisable _ _ _ =>
    refine onHost_keepsForm (fun d => ?_) s _ _
    exact .when ((d.applyEnv_data _).mem.trans (memWorks.wrQctl _ _ _ _))
  | qCtlAbort _ _ _ =>
    refine onHost_keepsForm (fun d => ?_) s _ _
    exact .when ((d.applyEnv_data _).mem.trans (memWorks.wrQctl _ _ _ _))
  | qIrqWrite _ _ _ =>
    refine onHost_keepsForm (fun d => ?_) s _ _
    exact .when (d.wrQirq_on (W := memWorks) _ _)
  | sqTail _ _ _ _ _ =>
    refine onHost_keepsForm (fun d => ?_) s _ _
    split
    · exact .when ((d.applyEnv_data _).mem.trans (Dev.ringTail_mem _ _ _ _ _))
    · exact .refl _
  | cqHead _ _ _ _ =>
    refine onHost_keepsForm (fun d => ?_) s _ _
    split
    · exact .when (d.ringHead_mem _ _ _)
    · exact .refl _
  | packetTake _ =>
    refine onRun_keepsForm (fun d => ?_) s _
    exact (d.applyEnv_data _).mem.trans (Dev.takeNext_mem _ _)
  | packetStart _ _ =>
    refine onRun_keepsForm (fun d => ?_) s _
    split
    · exact d.startPkt_mem _
    · exact .refl _
  | packetComplete _ _ _ =>
    refine onRun_keepsForm (fun d => ?_) s _
    exact (d.applyEnv_data _).mem.trans (Dev.completePkt_work _ _ _ _).mem
  | irqTimeTrigger _ =>
    refine onRun_keepsForm (fun d => ?_) s _
    exact d.irqTime_mem _
  | ringReadError _ =>
    refine onRun_keepsForm (fun d => ?_) s _
    exact .when (d.ringError_mem _)
  | nop _ _ =>
    refine onRun_keepsForm (fun d => ?_) s _
    exact (Dev.onPkt_mem (fun x _ => (x.finish_data _ _ _).mem) _ _ _ _)
  | barrier _ _ _ =>
    refine onRun_keepsForm (fun d => ?_) s _
    exact (d.applyEnv_data _).mem.trans (Dev.onPkt_mem (fun x _ => (x.opBarrier_data _ _).mem) _ _ _ _)
  | storeBufferIssue _ _ _ =>
    refine onRun_keepsForm (fun d => ?_) s _
    exact (d.applyEnv_data _).mem.trans (Dev.issueN_data _ _ _ _).mem
  | signal _ _ _ =>
    refine onRun_keepsForm (fun d => ?_) s _
    exact (d.meet_data _ _).mem.trans (Dev.onPkt_mem (fun x _ => (x.opSignal_data _ _).mem) _ _ _ _)
  | wait _ _ _ =>
    refine onRun_keepsForm (fun d => ?_) s _
    exact (d.meet_data _ _).mem.trans (Dev.onPkt_mem (fun x _ => (x.pollWait_data _ _).mem) _ _ _ _)
  | waitPoll _ _ _ =>
    refine onRun_keepsForm (fun d => ?_) s _
    exact (d.meet_data _ _).mem.trans (Dev.onPkt_mem (fun x _ => .unless (x.pollWait_data _ _).mem) _ _ _ _)
  | waitTimeout _ _ =>
    refine onRun_keepsForm (fun d => ?_) s _
    exact (Dev.onPkt_mem (fun x _ => (x.expireWait_data _).mem) _ _ _ _)
  | flush _ _ =>
    refine onRun_keepsForm (fun d => ?_) s _
    exact (Dev.onPkt_mem (fun x _ => (x.opFlush_data _).mem) _ _ _ _)
  | invalidate _ _ _ =>
    refine onRun_keepsForm (fun d => ?_) s _
    exact (d.applyEnv_data _).mem.trans (Dev.onPkt_mem (fun x _ => (x.opInvalidate_data _).mem) _ _ _ _)
  | gemm _ _ _ =>
    refine onRun_keepsForm (fun d => ?_) s _
    exact (d.meet_data _ _).mem.trans (Dev.onCores_data (fun x _ => x.opGemm_data _ _) _ _ _ _).mem
  | gemmT _ _ _ =>
    refine onRun_keepsForm (fun d => ?_) s _
    exact (d.meet_data _ _).mem.trans (Dev.onCores_data (fun x _ => x.opGemm_data _ _) _ _ _ _).mem
  | convAsGemm _ _ _ =>
    refine onRun_keepsForm (fun d => ?_) s _
    exact (d.meet_data _ _).mem.trans (Dev.onCores_data (fun x _ => x.opGemm_data _ _) _ _ _ _).mem
  | escapementPauseEnd _ _ _ =>
    refine onRun_keepsForm (fun d => ?_) s _
    exact .unless (.of_eq rfl)
  | vxuOp _ _ _ =>
    refine onRun_keepsForm (fun d => ?_) s _
    exact (d.meet_data _ _).mem.trans (Dev.onCores_data (fun x _ => x.opVxu_data _ _) _ _ _ _).mem
  | norm _ _ _ =>
    refine onRun_keepsForm (fun d => ?_) s _
    exact (d.meet_data _ _).mem.trans (Dev.onCores_data (fun x _ => x.opNorm_data _ _) _ _ _ _).mem
  | optimStep _ _ _ =>
    refine onRun_keepsForm (fun d => ?_) s _
    exact (d.meet_data _ _).mem.trans (Dev.onCores_data (fun x _ => x.opOptim_data _ _) _ _ _ _).mem
  | attend _ _ _ =>
    refine onRun_keepsForm (fun d => ?_) s _
    exact (d.meet_data _ _).mem.trans (Dev.onCores_data (fun x _ => x.opAttend_data _ _ _ _) _ _ _ _).mem
  | attendBuckets _ _ _ =>
    refine onRun_keepsForm (fun d => ?_) s _
    exact (d.meet_data _ _).mem.trans (Dev.onCores_data (fun x _ => x.opAttend_data _ _ _ _) _ _ _ _).mem
  | verify _ _ _ =>
    refine onRun_keepsForm (fun d => ?_) s _
    exact (d.meet_data _ _).mem.trans (Dev.onPkt_mem (fun x _ => .unless (x.opVerify_data _ _).mem) _ _ _ _)
  | verifyStreamPacket _ _ _ =>
    refine onRun_keepsForm (fun d => ?_) s _
    exact (d.meet_data _ _).mem.trans (Dev.onPkt_mem (fun x _ => (x.stepStream_data _ _).mem) _ _ _ _)
  | verifyAcceptance _ _ _ =>
    refine onRun_keepsForm (fun d => ?_) s _
    exact (d.meet_data _ _).mem.trans (Dev.onPkt_mem (fun x _ => .unless (x.acceptVerify_data _ _).mem) _ _ _ _)
  | kvAlloc _ _ _ =>
    refine onRun_keepsForm (fun d => ?_) s _
    exact (d.meet_data _ _).mem.trans (Dev.onPkt_mem (fun x _ => (x.opAlloc_data _ _).mem.trans (Dev.conclude_data _ _).mem) _ _ _ _)
  | kvAppend _ _ _ =>
    refine onRun_keepsForm (fun d => ?_) s _
    exact (d.meet_data _ _).mem.trans (Dev.onPkt_mem (fun x _ => (x.opAppend_data _ _ _).mem.trans (Dev.conclude_data _ _).mem) _ _ _ _)
  | kvFree _ _ _ =>
    refine onRun_keepsForm (fun d => ?_) s _
    exact (d.meet_data _ _).mem.trans (Dev.onPkt_mem (fun x _ => (x.opFree_data _ _).mem.trans (Dev.conclude_data _ _).mem) _ _ _ _)
  | kvCommit _ _ _ =>
    refine onRun_keepsForm (fun d => ?_) s _
    exact (d.meet_data _ _).mem.trans (Dev.onPkt_mem (fun x _ => (x.opCommit_data _ _).mem.trans (Dev.conclude_data _ _).mem) _ _ _ _)
  | kvRollback _ _ _ =>
    refine onRun_keepsForm (fun d => ?_) s _
    exact (d.meet_data _ _).mem.trans (Dev.onPkt_mem (fun x _ => (x.opRollback_data _ _).mem.trans (Dev.conclude_data _ _).mem) _ _ _ _)
  | arborMatch _ _ _ =>
    refine onRun_keepsForm (fun d => ?_) s _
    exact (d.meet_data _ _).mem.trans (Dev.onPkt_mem (fun x _ => (x.opMatch_data _ _).mem.trans (Dev.conclude_data _ _).mem) _ _ _ _)
  | arborInsert _ _ _ _ =>
    refine onRun_keepsForm (fun d => ?_) s _
    exact (d.meet_data _ _).mem.trans (Dev.onPkt_mem (fun x _ => (x.arborCmd_data _ _ _ (fun y => y.opInsert_data _ _)).mem) _ _ _ _)
  | arborRemove _ _ _ _ =>
    refine onRun_keepsForm (fun d => ?_) s _
    exact (d.meet_data _ _).mem.trans (Dev.onPkt_mem (fun x _ => (x.arborCmd_data _ _ _ (fun y => y.opRemove_data _ _)).mem) _ _ _ _)
  | reservationExpiry _ _ =>
    refine onRun_keepsForm (fun d => ?_) s _
    exact (d.expireRsv_data _).mem
  | exclusiveHoldExpiry _ _ _ =>
    refine onRun_keepsForm (fun d => ?_) s _
    exact (d.applyEnv_data _).mem.trans (Dev.expireHold_data _ _ _).mem
  | kpmPoolEnable _ _ _ _ =>
    refine onHost_keepsForm (fun d => ?_) s _ _
    exact d.wrPool_on (W := memWorks) _ _ _ _ _
  | kpmPoolReady _ _ _ =>
    refine onRun_keepsForm (fun d => ?_) s _
    exact (d.applyEnv_data _).mem.trans (Dev.poolReady_data _ _ _).mem
  | kpmPoolDisable _ _ _ _ =>
    refine onHost_keepsForm (fun d => ?_) s _ _
    exact d.wrPool_on (W := memWorks) _ _ _ _ _
  | kpmPinLoWrite _ _ _ =>
    refine onHost_keepsForm (fun d => ?_) s _ _
    exact (d.applyEnv_data _).mem.trans (Dev.wrPin_data _ _ _ _).mem
  | arbKeyWrite _ _ _ =>
    refine onHost_keepsForm (fun d => ?_) s _ _
    exact .when (d.wrArbKey_data _ _ _).mem
  | dmaRun _ _ _ =>
    refine onRun_keepsForm (fun d => ?_) s _
    exact (d.applyEnv_data _).mem.trans (Dev.onPkt_mem (fun x _ => (x.dmaBegin_data _).mem) _ _ _ _)
  | dmaChain _ _ _ =>
    refine onRun_keepsForm (fun d => ?_) s _
    exact (d.applyEnv_data _).mem.trans (Dev.onPkt_mem (fun x _ => (x.dmaBegin_data _).mem) _ _ _ _)
  | dmaDescriptorStart _ _ _ =>
    refine onRun_keepsForm (fun d => ?_) s _
    exact (d.meet_data _ _).mem.trans (Dev.startDesc_data _ _ _ _).mem
  | dmaBlockRead _ _ _ =>
    refine onRun_keepsForm (fun d => ?_) s _
    exact (d.meet_data _ _).mem.trans (Dev.readBlock_data _ _ _ _).mem
  | dmaBlockWrite _ _ _ =>
    refine onRun_keepsForm (fun d => ?_) s _
    exact (d.meet_data _ _).mem.trans (Dev.writeBlock_data _ _ _ _).mem
  | dmaDescriptorEnd _ _ _ =>
    refine onRun_keepsForm (fun d => ?_) s _
    exact (d.meet_data _ _).mem.trans (Dev.endDesc_data _ _ _ _).mem
  | send _ _ _ =>
    refine onRun_keepsForm (fun d => ?_) s _
    exact (d.meet_data _ _).mem.trans (Dev.onPkt_mem (fun x _ => (x.opSend_data _ _).mem) _ _ _ _)
  | remoteAtomic _ _ _ =>
    refine onRun_keepsForm (fun d => ?_) s _
    exact (d.meet_data _ _).mem.trans (Dev.onPkt_mem (fun x _ => (x.opRemoteAtomic_data _ _).mem) _ _ _ _)
  | routeSet _ _ =>
    refine onRun_keepsForm (fun d => ?_) s _
    exact (Dev.onPkt_mem (fun x _ => (x.opRouteSet_data _).mem) _ _ _ _)
  | partCreate _ _ =>
    refine onRun_keepsForm (fun d => ?_) s _
    exact (Dev.onPkt_mem (fun x _ => (x.opPartCreate_data _).mem) _ _ _ _)
  | partResize _ _ _ =>
    refine onRun_keepsForm (fun d => ?_) s _
    exact (d.applyEnv_data _).mem.trans (Dev.onPkt_mem (fun x _ => x.opPartResize_mem _ _) _ _ _ _)
  | partDestroy _ _ _ =>
    refine onRun_keepsForm (fun d => ?_) s _
    exact (d.applyEnv_data _).mem.trans (Dev.onPkt_mem (fun x _ => x.opPartDestroy_mem _ _) _ _ _ _)
  | loupeWatch _ _ _ =>
    refine onRun_keepsForm (fun d => ?_) s _
    exact (d.meet_data _ _).mem.trans (Dev.onPkt_mem (fun x _ => .when ((x.opWatch_data _ _).mem.trans (Dev.conclude_data _ _).mem)) _ _ _ _)
  | loupeDigest _ _ _ _ =>
    refine onRun_keepsForm (fun d => ?_) s _
    extract_lets x
    have hx : MemStep d x := (d.meet_data _ _).mem
    split
    · exact .ite (hx.trans (x.takeDigest_data _ _ _).mem) hx
    · exact hx
  | cntSnap _ _ _ =>
    refine onRun_keepsForm (fun d => ?_) s _
    exact (d.meet_data _ _).mem.trans (Dev.onPkt_mem (fun x _ => (x.opCntSnap_data _ _).mem.trans (Dev.conclude_data _ _).mem) _ _ _ _)
  | snapshot _ _ =>
    refine onRun_keepsForm (fun d => ?_) s _
    exact (Dev.onPkt_mem (fun x _ => x.opSnapshot_mem _) _ _ _ _)
  | setVop _ _ =>
    refine onRun_keepsForm (fun d => ?_) s _
    exact (Dev.onPkt_mem (fun x _ => x.opSetVop_mem _) _ _ _ _)
  | escRequest _ _ =>
    refine onRun_keepsForm (fun d => ?_) s _
    exact (Dev.onPkt_mem (fun x _ => x.opEscRequest_mem _) _ _ _ _)
  | abort _ _ _ _ =>
    refine onRun_keepsForm (fun d => ?_) s _
    split
    · exact (d.applyEnv_data _).mem.trans (Dev.actAbort_work _ _ _ _).mem
    · exact .refl _
  | abortResetTimeout _ _ _ =>
    refine onRun_keepsForm (fun d => ?_) s _
    split
    · exact .when ((d.applyEnv_data _).mem.trans (Dev.forceAbort_work _ _ _).mem)
    · exact .refl _
  | abortComplete _ _ _ =>
    refine onRun_keepsForm (fun d => ?_) s _
    split
    · exact (d.applyEnv_data _).mem.trans (Dev.endAbort_work _ _ _).mem
    · exact .refl _
  | linkTrained _ _ _ =>
    refine onUp_keepsForm (fun d => ?_) s
    exact (d.linkUp_data _ _ _).mem
  | linkDown _ =>
    refine onUp_keepsForm (fun d => ?_) s
    exact .when (d.dropLink_data _ _).mem
  | linkAckTimeout _ =>
    refine onUp_keepsForm (fun d => ?_) s
    exact .when (d.dropLink_data _ _).mem
  | linkHoldExpiry _ =>
    refine onUp_keepsForm (fun d => ?_) s
    extract_lets x src
    have hx : MemStep d x := (d.advTo_data _).mem
    exact .when (hx.trans (x.setLink_data _ _).mem)
  | flitReceive _ _ _ =>
    refine onUp_keepsForm (fun d => ?_) s
    exact (d.rxFlit_data _ _ _).mem
  | inboundRequest _ _ =>
    refine onUp_keepsForm (fun d => ?_) s
    extract_lets x
    have hx : MemStep d x := (d.applyEnv_data _).mem
    split
    · exact .ite hx (.ite (hx.trans (x.freeHeld_data _ _).mem) (.ite (hx.trans (x.inRequest_data _ _).mem) hx))
    · exact hx
  | inboundResponse _ _ =>
    refine onUp_keepsForm (fun d => ?_) s
    extract_lets x
    have hx : MemStep d x := (d.applyEnv_data _).mem
    split
    · exact .ite (hx.trans (x.inResponse_data _).mem) hx
    · exact hx
  | messageHoldExpiry _ =>
    refine onUp_keepsForm (fun d => ?_) s
    split
    · exact (d.dropHeld_data _).mem
    · exact .refl _
  | transactionTimeout _ _ =>
    refine onUp_keepsForm (fun d => ?_) s
    extract_lets x
    have hx : MemStep d x := (d.applyEnv_data _).mem
    split
    · exact hx.trans (x.endRid_data _ _ _ _).mem
    · exact hx
  | thermalScan _ _ =>
    refine onRun_keepsForm (fun d => ?_) s _
    exact (d.applyEnv_data _).mem.trans (Dev.scan_mem _ _ _)
  | stopRecordWrite _ _ =>
    refine onRun_keepsForm (fun d => ?_) s _
    exact (d.applyEnv_data _).mem.trans (Dev.writeStop_mem _ _ _)
  | domain5PowerDown _ =>
    refine onDev_keepsForm (fun d => ?_) s
    extract_lets x src
    have hx : MemStep d x := d.lasting_mem.trans (Dev.loseAux_mem _)
    exact .when (.rest hx)
  | trip _ _ =>
    refine onDev_keepsForm (fun d => ?_) s
    exact d.tripCut_mem _ _
  | tripRelease =>
    refine onDev_keepsForm (fun d => ?_) s
    exact .when (.of_eq rfl)
  | escReqWrite _ _ _ =>
    refine onHost_keepsForm (fun d => ?_) s _ _
    exact d.wrEscReq_on (W := memWorks) _ _ _
  | cntValLoWrite _ _ =>
    refine onHost_keepsForm (fun d => ?_) s _ _
    exact d.wrCntVal_on (W := memWorks) _ _
  | cntValLoRead fn =>
    refine onHost_keepsForm (fun d => ?_) s _ _
    exact (d.regSide_data fn 0x500008).mem.trans (Dev.emit_data _ _).mem
  | snpCtlGo _ _ =>
    refine onHost_keepsForm (fun d => ?_) s _ _
    exact d.wrSnpCtl_on (W := memWorks) _ _
  | snapshotDone _ _ =>
    refine onRun_keepsForm (fun d => ?_) s _
    exact (d.meet_data _ _).mem.trans (Dev.snpDone_mem _ _ _)
  | openObserve _ =>
    refine onDev_keepsForm (fun d => ?_) s
    exact Dev.lockPath_mem (fun x => x.lckOpen_on (W := memWorks)) _ _
  | reqChal _ _ =>
    refine onDev_keepsForm (fun d => ?_) s
    exact Dev.lockPath_mem (fun x => x.lckReqChal_on (W := memWorks) _) _ _
  | submitResp _ =>
    refine onDev_keepsForm (fun d => ?_) s
    exact Dev.lockPath_mem (fun x => x.lckSubmit_on (W := memWorks)) _ _
  | setPw _ =>
    refine onDev_keepsForm (fun d => ?_) s
    exact Dev.lockPath_mem (fun x => x.lckSetPw_on (W := memWorks)) _ _
  | relock _ =>
    refine onDev_keepsForm (fun d => ?_) s
    exact Dev.lockPath_mem (fun x => x.lckRelock_on (W := memWorks)) _ _
  | lockCommandDone =>
    refine onUp_keepsForm (fun d => ?_) s
    exact d.lckDone_mem
  | challengeExpiry =>
    refine onUp_keepsForm (fun d => ?_) s
    exact d.chalExpire_mem
  | testEnChange _ =>
    refine onDev_keepsForm (fun d => ?_) s
    exact d.testEnSet_mem _
  | lckTapGo _ _ =>
    refine onDev_keepsForm (fun d => ?_) s
    exact Dev.hostReq?_mem (fun x => .when (x.wrTapCtl_on (W := memWorks) _)) _ _
  | tapShiftDone _ =>
    refine onUp_keepsForm (fun d => ?_) s
    exact d.tapShiftEnd_mem _
  | tapInstructionUpdate _ =>
    refine onUp_keepsForm (fun d => ?_) s
    exact d.tapUpdate_mem _
  | registerWrite _ _ _ _ _ =>
    refine onHost_keepsForm (fun d => ?_) s _ _
    exact (d.applyEnv_data _).mem.trans (Dev.regWriteBytes_on (W := memWorks) _ _ _ _ _ _)
  | registerRead _ _ _ =>
    refine onHost_keepsForm (fun d => ?_) s _ _
    extract_lets r
    have hr : MemStep d r.1 := (d.regReadBytes_data _ _ _ _).mem
    exact hr.trans (Dev.emit_data _ _).mem
  | fcHousekeepingDown =>
    refine onDev_keepsForm (fun d => ?_) s
    extract_lets x src
    have hx : MemStep d x := d.powerDown_mem
    exact .rest hx
  | coolantEvent _ =>
    refine onDev_keepsForm (fun d => ?_) s
    exact .when ((d.fcSend_mem _ _).trans (Dev.canSend_mem _ _ _))
  | purgeAllDone =>
    refine onRun_keepsForm (fun d => ?_) s _
    exact .of_eq rfl

/-- Settles O58: a step that runs a command is that command, and an idle step leaves memory alone. -/
theorem stepKeepsMemoryForm : Obligations.StepKeepsMemoryForm := by
  intro s t hwf hstep
  unfold step at hstep
  split at hstep
  · cases hstep
    exact (s.dev.advTo_data _).wf hwf
  · next c rest _ =>
    obtain ⟨d, hd, hmem⟩ := exec_keepsForm c (s.setPending rest)
    rw [hd] at hstep
    cases hstep
    exact hmem.wf hwf

end Sys2Proof.Machine
end

section
/-!
The queue of commands, register writes that wait, and what reset leaves.
-/
namespace Sys2Proof.Machine

/-- Settles O1: it is how a step is defined. -/
theorem stepRunsFront : Obligations.StepRunsFront := by
  intro s c rest h
  unfold step
  rw [h]
  rfl

/-- A step on an empty queue lets time pass. -/
theorem step_of_empty {s : State} (h : s.pending = []) : step s = .next { s with dev := s.dev.advTo (s.dev.time.base + 1) } := by
  unfold step
  simp only [h]
  simp only [idle, Dev.tick, State.setDev, h]

/-- Settles O2: the tick moves the timebase only where it runs. -/
theorem idleTicks : Obligations.IdleTicks := by
  intro s h
  rw [step_of_empty h]
  constructor
  · intro hrun
    simp [Dev.advTo, hrun]
  · intro hrun
    simp [Dev.advTo, hrun]

/-- Every command ends in a next state, which differs in the module alone. -/
theorem exec_next (c : Instr) (s : State) : ∃ d : Dev, exec c s = .next { s with dev := d } := by
  cases c <;> exact ⟨_, rfl⟩

/-- A step that runs a command takes it from the queue and leaves the rest. -/
theorem step_next {s : State} {c : Instr} {rest : List Instr} (h : s.pending = c :: rest) : ∃ t : State, step s = .next t ∧ t.pending = rest := by
  obtain ⟨d, hd⟩ := exec_next c { s with pending := rest }
  exact ⟨_, (stepRunsFront s c rest h).trans hd, rfl⟩

/-- A run whose first step reaches u goes on from u. -/
theorem run_succ {M : Host.Core} {s u : M.State} (h : M.step s = .next u) (n : Nat) : M.run (n + 1) s = M.run n u := by
  rw [Host.Core.run, h]

/-- n steps on a queue of at least n commands leave what stands behind the first n. -/
theorem run_drops_pending (n : Nat) : ∀ s : State, n ≤ s.pending.length →
    ∃ t : State, Host.Core.run core n s = .next t ∧ t.pending = s.pending.drop n := by
  induction n with
  | zero => exact fun s _ => ⟨s, rfl, rfl⟩
  | succ n ih =>
    intro s hlen
    obtain ⟨c, rest, hq⟩ : ∃ c rest, s.pending = c :: rest := by
      cases hp : s.pending with
      | nil => simp [hp] at hlen
      | cons c rest => exact ⟨c, rest, rfl⟩
    obtain ⟨u, hstep, hu⟩ := step_next hq
    obtain ⟨t, hrun, ht⟩ := ih u (by simpa [hu, hq] using hlen)
    refine ⟨t, ?_, by rw [ht, hu, hq, List.drop_succ_cons]⟩
    exact (run_succ (M := core) hstep n).trans hrun

/-- Settles O3: every command ends in a next state with the same queue, and by induction on n so do n steps. -/
theorem queueRunsInOrder : Obligations.QueueRunsInOrder := ⟨exec_next, run_drops_pending⟩

/-- After the register writes are applied none waits: they are applied until none is left, or the rest is given up. -/
theorem Dev.applyRegq_regq (e : Env) (n : Nat) : ∀ d : Dev, (Dev.applyRegq e n d).disp.regq = [] := by
  induction n with
  | zero => exact fun d => rfl
  | succ n ih =>
    intro d
    unfold Dev.applyRegq
    split
    · assumption
    · exact ih _

/-- Settles O27: with none waiting nothing is applied, and the writes of the writes are applied in their turn. -/
theorem noRegisterWriteWaits : Obligations.NoRegisterWriteWaits := ⟨fun d e h => d.flushRegs_nil e h, fun d e => Dev.applyRegq_regq e _ d⟩

/-- A queue that no write has touched. -/
theorem reset_queue (q : QRef) : State.reset.dev.queue q = {} := rfl

/-- Settles O57: each register named has its reset value in the state after reset, by the definition of that state. -/
theorem resetValues : Obligations.ResetValues := by
  unfold Obligations.ResetValues
  refine ⟨rfl, rfl, rfl, rfl, rfl, rfl, rfl, rfl, by decide, ?_, fun q => ?_, rfl, rfl, rfl, rfl, rfl, rfl, rfl, rfl, rfl, rfl⟩
  · intro n _
    rfl
  · rw [reset_queue]
    exact ⟨rfl, rfl, rfl, rfl⟩

end Sys2Proof.Machine
end

section
/-!
Bytes and numbers, fields of bytes, fields of bits; and from them that records decode from their bytes to what was encoded.
-/
namespace Sys2Proof.Machine

@[simp] theorem length_leBytes (k n : Nat) : (leBytes k n).length = k := by simp [leBytes]

/-- The least significant byte comes first. -/
theorem leBytes_succ (k n : Nat) : leBytes (k + 1) n = BitVec.ofNat 8 n :: leBytes k (n / 256) := by
  rw [leBytes, List.range_succ_eq_map]
  simp only [List.map_cons, List.map_map, leBytes, Nat.mul_zero, Nat.shiftRight_zero, List.cons.injEq, true_and]
  refine List.map_congr_left fun i _ => ?_
  rw [Function.comp_apply, Nat.mul_succ, Nat.add_comm, Nat.shiftRight_add, Nat.shiftRight_eq_div_pow n 8]

/-- k bytes hold a number modulo 256 ^ k. -/
theorem leNat_leBytes (k : Nat) : ∀ n : Nat, leNat (leBytes k n) = n % 256 ^ k := by
  induction k with
  | zero =>
    intro n
    rw [Nat.pow_zero, Nat.mod_one]
    rfl
  | succ k ih =>
    intro n
    rw [leBytes_succ]
    have hmod : n % 256 ^ (k + 1) = n % 256 + 256 * (n / 256 % 256 ^ k) := by rw [Nat.pow_succ', Nat.mod_mul]
    change (BitVec.ofNat 8 n).toNat + 256 * leNat (leBytes k (n / 256)) = _
    rw [ih, BitVec.toNat_ofNat, hmod]

/-- A field that begins behind the first part. -/
theorem fieldAt_append_right {a b : List Byte} {o n : Nat} (h : a.length ≤ o) : fieldAt (a ++ b) o n = fieldAt b (o - a.length) n := by
  rw [fieldAt, List.drop_append, List.drop_eq_nil_of_le h, List.nil_append, fieldAt]

/-- A field that is the first part. -/
theorem fieldAt_append_left {a b : List Byte} {n : Nat} (h : a.length = n) : fieldAt (a ++ b) 0 n = leNat a := by
  rw [fieldAt, List.drop_zero, List.take_left' h]

/-- A field that is all there is. -/
theorem fieldAt_all {a : List Byte} {n : Nat} (h : a.length = n) : fieldAt a 0 n = leNat a := by
  rw [fieldAt, List.drop_zero, List.take_of_length_le (Nat.le_of_eq h)]

/-- Filling with zeros leaves what was there. -/
theorem padTo_of_le {n : Nat} {l : List Byte} (h : l.length ≤ n) : padTo n l = l ++ List.replicate (n - l.length) 0 :=
  List.take_of_length_le (by simp; omega)

theorem bf_eq (n hi lo : Nat) : bf n hi lo = n / 2 ^ lo % 2 ^ (hi + 1 - lo) := by rw [bf, Nat.shiftRight_eq_div_pow]

theorem bit_eq (n i : Nat) : bit n i = decide (n / 2 ^ i % 2 = 1) := Nat.testBit_eq_decide_div_mod_eq

theorem b2n_le_one (b : Bool) : b2n b ≤ 1 := by cases b <;> decide

/-- A bit that was packed as 0 or 1. -/
theorem decide_eq_of_b2n {n : Nat} {b : Bool} (h : n = b2n b) : decide (n = 1) = b := by
  subst h
  cases b <;> rfl

/-- A page descriptor's second word, field by field. -/
theorem PDesc.ofBytes_bytes {x : PDesc} (hbase : x.base < 2 ^ 56) (hlog : x.log2 < 16) (hfmt : x.fmt < 16) (href : x.ref < 65536)
    (hpart : x.part < 8) (hstream : x.stream < 8192) (hpool : x.pool < 64) (hlen : x.len < 8192) (htlen : x.tlen < 128)
    (hnode : x.node < 2 ^ 56) (hstamp : x.stamp < 2 ^ 64) : PDesc.ofBytes x.bytes = x := by
  obtain ⟨base, log2, fmt, ref, part, stream, pinned, shared, scale, pool, len, tlen, node, stamp⟩ := x
  dsimp only at *
  have h1 := b2n_le_one (1 < ref)
  have h2 := b2n_le_one pinned
  have h3 := b2n_le_one shared
  have h4 := b2n_le_one (0 < tlen)
  have h5 := b2n_le_one scale
  simp only [PDesc.ofBytes, PDesc.bytes, List.append_assoc, fieldAt_append_left, fieldAt_append_right, length_leBytes, fieldAt_all, Nat.reduceLeDiff, Nat.reduceSub, Nat.sub_self, leNat_leBytes, bf_eq, bit_eq, PDesc.mk.injEq]
  generalize b2n (decide (1 < ref)) = many at *
  generalize b2n (decide (0 < tlen)) = tent at *
  refine ⟨by omega, by omega, by omega, by omega, by omega, by omega, decide_eq_of_b2n (by omega), decide_eq_of_b2n (by omega),
    decide_eq_of_b2n (by omega), by omega, by omega, by omega, by omega, by omega⟩

/-- An Arbor node comes back whole. -/
theorem ANode.ofBytes_bytes {x : ANode} (hhash : x.hash < 2 ^ 64) (hparent : x.parent < 2 ^ 56) (hpage : x.page < 2 ^ 56)
    (hchildren : x.children < 65536) (hstate : x.state < 256) (hdepth : x.depth < 2 ^ 32) : ANode.ofBytes x.bytes = x := by
  obtain ⟨hash, parent, page, children, state, depth⟩ := x
  dsimp only at *
  simp only [ANode.ofBytes, ANode.bytes, List.append_assoc, fieldAt_append_left, fieldAt_append_right, length_leBytes, fieldAt_all,
    Nat.reduceLeDiff, Nat.reduceSub, Nat.sub_self, leNat_leBytes, bf_eq, ANode.mk.injEq]
  refine ⟨by omega, by omega, by omega, by omega, by omega, by omega⟩

/-- The header of a message, before its data (16 Table 16-2). -/
def msgHead (m : Msg) : List Byte :=
  leBytes 1 m.op ++ leBytes 1 (b2n m.tracked + 2 * b2n m.dup) ++ leBytes 1 m.hops ++ leBytes 1 (m.owner % 16 + 16 * m.atom)
    ++ leBytes 2 m.rid ++ leBytes 2 m.xseq ++ leBytes 1 m.dst ++ leBytes 1 m.src ++ leBytes 2 m.len ++ leBytes 2 m.session
    ++ leBytes 2 m.status ++ leBytes 7 m.addr ++ leBytes 9 0

theorem length_msgHead (m : Msg) : (msgHead m).length = 32 := by simp [msgHead]

/-- A message's bytes: its header, its data, and zeros up to whole units. -/
theorem Msg.encode_eq {m : Msg} (hdata : m.data.length = dataLen m.op m.len) :
    m.encode = msgHead m ++ (m.data ++ List.replicate (16 * m.nUnits - (msgHead m ++ m.data).length) 0) := by
  have hfit : (msgHead m ++ m.data).length ≤ 16 * m.nUnits := by
    rw [List.length_append, length_msgHead, hdata, Msg.nUnits]
    omega
  rw [← List.append_assoc, ← padTo_of_le hfit]
  rfl

/-- Every field of the header is read from its place, whatever follows. -/
theorem Msg.decode_msgHead_append {m : Msg} {r : List Byte} (hop : m.op < 256) (hhops : m.hops < 256) (howner : m.owner < 16)
    (hatom : m.atom < 16) (hrid : m.rid < 65536) (hxseq : m.xseq < 65536) (hdst : m.dst < 256) (hsrc : m.src < 256) (hlen : m.len < 65536)
    (hsession : m.session < 65536) (hstatus : m.status < 65536) (haddr : m.addr < 2 ^ 56) :
    Msg.decode (msgHead m ++ r) = { m with data := r.take (dataLen m.op m.len) } := by
  have hdrop : (msgHead m ++ r).drop 32 = r := List.drop_left' (length_msgHead m)
  obtain ⟨op, tracked, dup, hops, owner, atom, rid, xseq, dst, src, len, session, status, addr, data⟩ := m
  have ht := b2n_le_one tracked
  have hd := b2n_le_one dup
  rw [Msg.decode, hdrop]
  dsimp only at *
  have e1 : op % 256 ^ 1 = op := Nat.mod_eq_of_lt hop
  have e2 : len % 256 ^ 2 = len := Nat.mod_eq_of_lt hlen
  simp only [msgHead, List.append_assoc, fieldAt_append_left, fieldAt_append_right, length_leBytes,
    Nat.reduceLeDiff, Nat.reduceSub, Nat.sub_self, leNat_leBytes, bf_eq, bit_eq, e1, e2, Msg.mk.injEq, true_and, and_true]
  refine ⟨decide_eq_of_b2n (by omega), decide_eq_of_b2n (by omega), by omega, by omega, by omega, by omega, by omega, by omega, by omega,
    by omega, by omega, by omega⟩

/-- Settles O60: each record's bytes are its fields side by side, and each field is read from its own place. -/
theorem recordsRoundTrip : Obligations.RecordsRoundTrip := by
  refine ⟨?_, fun _ => PDesc.ofBytes_bytes, fun _ => ANode.ofBytes_bytes⟩
  intro m hop hhops howner hatom hrid hxseq hdst hsrc hlen hsession hstatus haddr hdata
  rw [Msg.encode_eq hdata, Msg.decode_msgHead_append hop hhops howner hatom hrid hxseq hdst hsrc hlen hsession hstatus haddr,
    List.take_left' hdata]

end Sys2Proof.Machine
end


section
/-!
Supplies and rails (02 R39-R41, R58, R447, 03 R74, R75, R88, 17 R380-R383), the SMBus responder (02 R53, R54) and voltage operating points (02 R50).
-/
namespace Sys2Proof.Machine

/-- Frames put on the CAN bus are a matter of the output alone. -/
theorem Dev.foldl_canSend (id : Nat) (l : List (List Byte)) : ∀ d : Dev,
    l.foldl (fun d b => d.canSend id b) d = { d with out := d.out ++ l.map (fun b => Out.can id (padTo 16 b)) } := by
  induction l with
  | nil => intro d; simp
  | cons b r ih =>
    intro d
    rw [List.foldl_cons, ih]
    simp [Dev.canSend, Dev.emit]

/-- What the Facility Controller kept of the host side goes to the rack again: its last status, then its stop record (02 R71). -/
theorem Dev.serveRetained_eq (d : Dev) : d.serveRetained = { d with
    out := d.out ++ (d.fc.lastStatus.toList ++ d.fc.stopRec).map (fun b => Out.can (d.canId 0x240) (padTo 16 b)) } := by
  unfold Dev.serveRetained
  cases h : d.fc.lastStatus with
  | none => simp only [Dev.foldl_canSend]; rfl
  | some b => simp only [Dev.foldl_canSend]; simp [Dev.canSend, Dev.emit]

/-- The Facility Controller in HOST_SILENT: beside its state only the output may change. -/
theorem Dev.fcSilent_fields (d : Dev) :
    d.fcSilent.fc = { d.fc with st := .hostSilent } ∧ d.fcSilent.rails = d.rails := by
  unfold Dev.fcSilent
  split
  · next h => exact ⟨by rw [← beq_iff_eq.1 h], rfl⟩
  · rw [Dev.serveRetained_eq]
    exact ⟨rfl, rfl⟩

/-- A wish for the bus converter (03 R75): at once where the rails have been off for 10 ms, else noted. -/
theorem Dev.wantConverter_fields (d : Dev) : d.wantConverter.fc.uvHold = d.fc.uvHold ∧ d.wantConverter.fc.ovHold = d.fc.ovHold ∧
    d.wantConverter.fc.st = .hostSilent ∧ (d.rails.offTenMs = true → d.wantConverter.rails.converter = true) ∧
    (d.rails.offTenMs = false → d.wantConverter.rails.converter = d.rails.converter ∧ d.wantConverter.rails.pendingEnable = true) := by
  unfold Dev.wantConverter
  split
  · next h =>
    obtain ⟨hfc, -⟩ := d.fcSilent_fields
    simp [Dev.enableConverter, hfc, h]
  · next h =>
    obtain ⟨hfc, hrails⟩ := ({ d with rails := { d.rails with pendingEnable := true } } : Dev).fcSilent_fields
    rw [hfc, hrails]
    exact ⟨rfl, rfl, rfl, fun ht => absurd ht h, fun _ => ⟨rfl, rfl⟩⟩

/-- UV_RISING with only the undervoltage hold in force. -/
theorem exec_uvRising_free {s : State} (hhk : s.dev.fc.hk = true) (huv : s.dev.fc.uvHold = true) (hov : s.dev.fc.ovHold = false) :
    exec .uvRising s = .next { s with dev := ({ s.dev with fc := { s.dev.fc with uvHold := false } } : Dev).wantConverter } := by
  simp [exec, execUvRising, onDev, State.setDev, hhk, huv, hov]

/-- UV_RISING with the overvoltage hold in force too. -/
theorem exec_uvRising_held {s : State} (hhk : s.dev.fc.hk = true) (huv : s.dev.fc.uvHold = true) (hov : s.dev.fc.ovHold = true) :
    exec .uvRising s = .next { s with dev := { s.dev with fc := { s.dev.fc with uvHold := false } } } := by
  simp [exec, execUvRising, onDev, State.setDev, hhk, huv, hov]

/-- OV_FALLING with the undervoltage hold in force too. -/
theorem exec_ovFalling_held {s : State} (hov : s.dev.fc.ovHold = true) (huv : s.dev.fc.uvHold = true) :
    exec .ovFalling s = .next { s with dev := { s.dev with fc := { s.dev.fc with ovHold := false, st := .uvHold } } } := by
  simp [exec, execOvFalling, onDev, State.setDev, huv, hov]

/-- OV_FALLING with only the overvoltage hold in force. -/
theorem exec_ovFalling_free {s : State} (hov : s.dev.fc.ovHold = true) (huv : s.dev.fc.uvHold = false) :
    exec .ovFalling s = .next { s with dev := ({ s.dev with fc := { s.dev.fc with ovHold := false } } : Dev).wantConverter } := by
  simp [exec, execOvFalling, onDev, State.setDev, huv, hov]

/-- Settles O4: down, the rails lose every power-good; the comparators end in the converter's loss, a hold that stays, or a wish for it. -/
theorem facilitySupplies : Obligations.FacilitySupplies := by
  refine ⟨fun s => ⟨fun h => ?_, ⟨_, rfl, rfl, rfl, rfl, rfl, rfl, rfl⟩⟩, fun s => ⟨⟨_, rfl, rfl, rfl, rfl, rfl⟩, ⟨_, rfl, rfl, rfl, rfl, rfl⟩, ?_,
    exec_uvRising_held, exec_ovFalling_held, ?_⟩⟩
  · simp [exec, execFcHousekeepingUp, onDev, State.setDev, h]
  · intro hhk huv hov
    obtain ⟨huv', -, hrest⟩ := Dev.wantConverter_fields { s.dev with fc := { s.dev.fc with uvHold := false } }
    exact ⟨_, exec_uvRising_free hhk huv hov, huv', hrest⟩
  · intro hov huv
    obtain ⟨-, hov', hrest⟩ := Dev.wantConverter_fields { s.dev with fc := { s.dev.fc with ovHold := false } }
    exact ⟨_, exec_ovFalling_free hov huv, hov', hrest⟩

/-- The end of the 10 ms with every rail off: the converter comes up where it was wished for. -/
theorem exec_converterReenableDelay {s : State} (hpg : s.dev.rails.pg = 0) (hconv : s.dev.rails.converter = false) :
    ∃ d : Dev, exec .converterReenableDelay s = .next { s with dev := d } ∧ d.rails.offTenMs = (!s.dev.rails.pendingEnable) ∧
      d.rails.converter = s.dev.rails.pendingEnable := by
  refine ⟨_, onDev_next s _, ?_⟩
  cases hp : s.dev.rails.pendingEnable with
  | false => simp [hpg, hconv, hp]
  | true => simp [hpg, hconv, hp, Dev.enableConverter]

/-- A power-good of a rail that may come up: the sixth is supplies valid. -/
theorem exec_railPowerGood {s : State} (hconv : s.dev.rails.converter = true) (hlatch : s.dev.rails.latchedOff = false)
    (htrip : s.dev.rails.tripHold = false) (hpg : s.dev.rails.pg < 6) :
    exec .railPowerGood s = .next { s with dev :=
      let x := { s.dev with rails := { s.dev.rails with pg := s.dev.rails.pg + 1, offTenMs := false } }
      if s.dev.rails.pg = 5 then x.suppliesValid else x } := by
  simp [exec, execRailPowerGood, onDev, State.setDev, hconv, hlatch, htrip, hpg]

/-- A trip cuts all rails but the first two, and latches its domain and class where none is latched (17 R382, R383). -/
theorem Dev.tripCut_of_up {d : Dev} (n c : Nat) (hpg : 2 ≤ d.rails.pg) (hlatch : d.rails.latchedOff = false) :
    d.tripCut n c = { d.lasting with
      thm := if d.thm.trip then d.lasting.thm
        else { d.lasting.thm with trip := true, tripDom := BitVec.ofNat 3 n, tripCls := BitVec.ofNat 2 c },
      rails := { d.rails with pg := 2, tripHold := true } } := by
  cases ht : d.thm.trip <;> simp [Dev.tripCut, hpg, hlatch, Dev.lasting, ht]

/-- The supplies are not valid while a rail is down. -/
theorem Dev.supAlive_of_pg {d : Dev} (h : d.rails.pg ≠ 6) : d.supAlive = false := by simp [Dev.supAlive, h]

/-- DOMAIN5_POWER_DOWN after its wait, with domain 5 stopping and its record written (17 R380). -/
theorem exec_domain5PowerDown {s : State} (hup : s.dev.supAlive = true) (hstop : (s.dev.dom 5).stopping = true)
    (hrec : (s.dev.dom 5).srec.written = true) :
    exec (.domain5PowerDown true) s = .next { s with dev :=
      let x := s.dev.lasting.loseAux
      { x with rails := { x.rails with pg := 1, latchedOff := true } } } := by
  simp [exec, execDomain5PowerDown, onDev, State.setDev, hup, hstop, hrec]

/-- Settles O5: each loss of rails keeps what lasts and resets the rest. -/
theorem hostSideRails : Obligations.HostSideRails := by
  refine ⟨fun s => ⟨exec_converterReenableDelay, ?_, ?_⟩, fun s => ⟨⟨_, rfl, rfl, rfl, rfl, rfl, rfl, rfl, rfl⟩, ?_, ?_, ?_⟩⟩
  · intro hconv hlatch htrip hpg
    rw [exec_railPowerGood hconv hlatch htrip (by omega), if_neg (by omega)]
  · intro hconv hlatch htrip hpg
    refine ⟨_, exec_railPowerGood hconv hlatch htrip (by omega), ?_⟩
    simp [hpg, Dev.suppliesValid, Dev.lasting, Dev.supAlive, hlatch, htrip]
  · intro n c hpg hlatch
    have hexec : exec (.trip n c) s = .next { s with dev := s.dev.tripCut n c } := rfl
    have hn : n.val % 8 = n.val := Nat.mod_eq_of_lt (by omega)
    rw [Dev.tripCut_of_up _ _ hpg hlatch] at hexec
    refine ⟨_, hexec, Dev.supAlive_of_pg (by simp), rfl, rfl, ?_⟩
    cases ht : s.dev.thm.trip <;> simp [Dev.lasting, ht, hn]
  · intro htrip
    simp [exec, execTripRelease, onDev, State.setDev, htrip]
  · intro hup hstop hrec
    refine ⟨_, exec_domain5PowerDown hup hstop hrec, Dev.supAlive_of_pg (by simp), rfl, rfl, rfl, rfl⟩

/-- A block read of the SMBus responder has sixteen bytes (02 R53). -/
theorem Dev.length_smbBlock (d : Dev) : d.smbBlock.length = 16 := by
  unfold Dev.smbBlock
  dsimp only
  split <;> simp [Dev.serial]

/-- A block read of command 0 at the responder's address. -/
theorem exec_smbusBlockRead {s : State} {a : BitVec 7} (hready : s.dev.rails.smbReady = true) (ha : a.toNat = s.dev.smbAddr) :
    exec (.smbusBlockRead a 0) s = .next { s with dev := s.dev.emit (.smbus ([16] ++ s.dev.smbBlock ++
      [BitVec.ofNat 8 (crc8 ([BitVec.ofNat 8 (2 * a.toNat), 0, BitVec.ofNat 8 (2 * a.toNat + 1), 16] ++ s.dev.smbBlock))])) } := by
  simp [exec, execSmbusBlockRead, onDev, State.setDev, hready, ha]

/-- Settles O6: the block has sixteen bytes, and of a write two bytes are acknowledged. -/
theorem smbusResponder : Obligations.SmbusResponder := by
  intro s
  constructor
  · intro hpg hlatch
    simp [exec, execSmbusReady, onDev, State.setDev, Dev.auxGood, hpg, hlatch]
  · intro a hready ha
    refine ⟨⟨s.dev.smbBlock, s.dev.length_smbBlock, exec_smbusBlockRead hready ha⟩, fun code data => ?_⟩
    simp [exec, execSmbusWrite, onDev, State.setDev, hready, ha, Dev.smbAddr]

/-- Requests of VOP changes give each site named its point, leave the points of the others, and move no rail. -/
theorem Dev.foldl_vopRequest (f : Nat → BitVec 3) (l : List Nat) : ∀ d : Dev,
    (∀ n, tget (l.foldl (fun d n => d.vopRequest n (f n) none) d).pwr.vop n 4 = if n ∈ l then f n else tget d.pwr.vop n 4) ∧
    (l.foldl (fun d n => d.vopRequest n (f n) none) d).pwr.rail = d.pwr.rail := by
  induction l with
  | nil => exact fun d => ⟨fun n => by simp, rfl⟩
  | cons m r ih =>
    intro d
    obtain ⟨hvop, hrail⟩ := ih (d.vopRequest m (f m) none)
    refine ⟨fun n => ?_, hrail⟩
    rw [List.foldl_cons, hvop n]
    by_cases hr : n ∈ r
    · simp [hr]
    · by_cases hm : n = m
      · subst hm
        simp [hr, Dev.vopRequest, tget_tset_same]
      · simp [hr, hm, Dev.vopRequest, tget_tset_other _ _ _ _ _ hm]

/-- A site that can change and is not asked to has the point already that the write names. -/
theorem Dev.wrPwrVop_vop {d : Dev} {n : Nat} (v : Nat) (hn : n < 6) (hact : d.csActive n = true) (hout : d.dieOut n = false) :
    tget (d.wrPwrVop v).pwr.vop n 4 = BitVec.ofNat 3 (bf v (3 * n + 2) (3 * n)) := by
  unfold Dev.wrPwrVop
  rw [(Dev.foldl_vopRequest _ _ d).1 n]
  split
  · rfl
  · next h =>
    have heq : (tget d.pwr.vop n 4).toNat = bf v (3 * n + 2) (3 * n) := by simpa [Dev.vopSites, hn, hact, hout] using h
    rw [← heq, BitVec.ofNat_toNat]
    simp

/-- PWR_VOP_WRITE of the physical function, answered. -/
theorem exec_pwrVopWrite {s : State} (hok : s.dev.hostOk .pf = true) (v : BitVec 32) :
    exec (.pwrVopWrite .pf v) s = .next { s with dev := s.dev.hostTurn.wrPwrVop v.toNat } := by
  simp [exec, execPwrVopWrite, onDev, State.setDev, Dev.hostReq?, hok]

/-- The end of a change that stands first and is the last of its site (02 R50). -/
theorem Dev.vopDone_last {d : Dev} {n : Nat} {j : VopJob} {rest : List VopJob} (hq : d.pwr.vopQ = j :: rest) (hsite : j.site = n)
    (hbegun : j.begun = true) (hcmd : j.cmd = none) (hrest : rest.all (fun x => x.site != n) = true) :
    d.vopDone n = { d with pwr := { d.pwr with rail := tset d.pwr.rail n j.vop, vopQ := rest, busy := putBit d.pwr.busy n false } } := by
  have hnone : rest.findIdx? (fun x => x.site == n) = none := by
    rw [List.findIdx?_eq_none_iff]
    exact fun x hx => by simpa using List.all_eq_true.1 hrest x hx
  have hany : rest.any (fun x => x.site == n) = false := by
    rw [List.any_eq_false]
    exact fun x hx => by simpa using List.all_eq_true.1 hrest x hx
  simp [Dev.vopDone, hq, hsite, hbegun, hcmd, hnone, hany]

/-- Settles O7: a write asks for a change at each site whose field is another one, and the last change of a site ends its being busy. -/
theorem vopChanges : Obligations.VopChanges := by
  intro s
  refine ⟨fun v t hok ht => ⟨_, exec_pwrVopWrite hok v, ?_, ?_⟩, ?_⟩
  · subst ht
    exact fun n hn hact hout => Dev.wrPwrVop_vop v.toNat hn hact hout
  · have hkept := s.dev.hostTurn_data.kept.pwr
    unfold Dev.wrPwrVop
    rw [(Dev.foldl_vopRequest _ _ _).2, hkept]
  · intro n j rest hup hq hsite hbegun hcmd hrest
    rw [← Dev.vopDone_last hq hsite hbegun hcmd hrest]
    exact onUp_on s (fun d => d.vopDone n.val) hup

end Sys2Proof.Machine
end


section
/-!
The isolation barrier: what the Facility Controller sends, what each message does at the other end (02 R58, R63-R68), and time (R64, R70-R72).
-/
namespace Sys2Proof.Machine

/-- The next state with the module written as another term. -/
theorem next_congr (s : State) {d x : Dev} (h : d = x) : (Host.Outcome.next { s with dev := d } : Host.Outcome State Fault Refusal) = .next { s with dev := x } := by
  rw [h]

/-- What a frame of the Supervisor leaves alone: it is a matter of the barrier end and the output. -/
@[simp] theorem Dev.supSend_fields (d : Dev) (t : Byte) (b : List Byte) :
    (d.supSend t b).pwr = d.pwr ∧ (d.supSend t b).thm = d.thm ∧ (d.supSend t b).time = d.time ∧ (d.supSend t b).fc = d.fc ∧
    (d.supSend t b).out = d.out ++ [.barrier .host (frameBytes t d.sup.seq b)] := ⟨rfl, rfl, rfl, rfl, rfl⟩

/-- A frame of the Facility Controller that asks for no acknowledgement changes its sequence number and the output. -/
theorem Dev.fcSend_unacked {t : Byte} (h : ackedType t = false) (d : Dev) (b : List Byte) :
    d.fcSend t b = { d with fc := { d.fc with seq := d.fc.seq + 1 }, out := d.out ++ [.barrier .facility (frameBytes t d.fc.seq b)] } := by
  simp [Dev.fcSend, h, Dev.emit]

/-- Settles O8: none of the three asks for an acknowledgement. -/
theorem facilitySends : Obligations.FacilitySends := by
  intro s r hhk
  have hst : ackedType 1#8 = false := by decide
  have hcool : ackedType 4#8 = false := by decide
  refine ⟨?_, ?_, ?_⟩
  · simp [exec, execFacStatusPeriod, onDev, State.setDev, hhk, Dev.fcSend_unacked hst]
  · simp [exec, execFcStateFramePeriod, onDev, State.setDev, hhk, Dev.canSend, Dev.canId, Dev.emit]
  · simp [exec, execCoolantEvent, onDev, State.setDev, hhk, Dev.fcSend_unacked hcool, Dev.canSend, Dev.canId, Dev.emit]

/-! A message that the Supervisor accepts (02 R63): by its type. -/

section
variable {d : Dev} {f : Frame} (halive : d.supAlive = true) (hsound : frSound f = true) (hnew : d.sup.rxLast ≠ some f.seq)
include halive hsound hnew

/-- A new frame of a type that asks for no acknowledgement. -/
theorem Dev.supFrame_plain {t : Byte} (htyp : f.typ = t) (hrange : 1 ≤ t.toNat ∧ t.toNat ≤ 7) (hack : ackedType t = false) :
    d.supFrame f = (d.noteRx f).supApply f := by
  subst htyp
  rw [Dev.supFrame_new halive hsound hrange hnew, hack]
  exact if_neg Bool.false_ne_true

/-- A new frame of a type that asks for one. -/
theorem Dev.supFrame_acked {t : Byte} (htyp : f.typ = t) (hrange : 1 ≤ t.toNat ∧ t.toNat ≤ 7) (hack : ackedType t = true) :
    d.supFrame f = ((d.noteRx f).supApply f).supSend 0x87 [f.typ, f.seq] := by
  subst htyp
  rw [Dev.supFrame_new halive hsound hrange hnew, hack]
  exact if_pos rfl

end

/-- FAC_STATUS at the Supervisor. -/
theorem Dev.supApply_status (d : Dev) {f : Frame} (h : f.typ = 0x01#8) : d.supApply f = { d with
    pwr := { d.pwr with vIn := BitVec.ofNat 16 (frField f 0 2), iIn := BitVec.ofNat 16 (frField f 2 2) },
    sup := { d.sup with facIn := BitVec.ofNat 16 (frField f 4 2), facOut := BitVec.ofNat 16 (frField f 6 2),
                        facFlow := BitVec.ofNat 16 (frField f 8 2), flow := BitVec.ofNat 16 (frField f 8 2) } } := by
  simp only [Dev.supApply, h]
  rfl

/-- FAC_POWER_CAP at the Supervisor: the rack's cap ends the shed. -/
theorem Dev.supApply_cap (d : Dev) {f : Frame} (h : f.typ = 0x02#8) : d.supApply f = ({ d with pwr := { d.pwr with
    capW := BitVec.ofNat 16 (frField f 0 2), capSrc := if frByte f 2 == 0 then 0 else 1,
    shed := if frByte f 2 == 0 then 0 else d.pwr.shed, shed0 := !(frByte f 2 == 0) && d.pwr.shed0 } } : Dev).raisePwr 1 := by
  simp only [Dev.supApply, h]
  rfl

/-- FAC_SHED_NOW with mode 0 at the Supervisor: level 15. -/
theorem Dev.supApply_shed_level (d : Dev) {f : Frame} (h : f.typ = 0x03#8) (hmode : frByte f 0 = 0#8) : d.supApply f = ({ d with
    thm := { d.thm with facLvl := 15 },
    pwr := { d.pwr with shed := if d.pwr.shed == 2 then 2 else 1, shed0 := true } } : Dev).raisePwr 2 := by
  simp only [Dev.supApply, h, hmode]
  rfl

/-- FAC_SHED_NOW with mode 1 at the Supervisor: HALT. -/
theorem Dev.supApply_shed_halt (d : Dev) {f : Frame} (h : f.typ = 0x03#8) (hmode : frByte f 0 = 1#8) :
    d.supApply f = ({ d with pwr := { d.pwr with shed := 2 } } : Dev).raisePwr 2 := by
  simp only [Dev.supApply, h, hmode]
  rfl

/-- FAC_ISOLATE_WARN at the Supervisor: a count, or its end. -/
theorem Dev.supApply_isolate (d : Dev) {f : Frame} (h : f.typ = 0x05#8) : d.supApply f =
    (if frField f 0 2 == 0xFFFF then { d with pwr := { d.pwr with isoUntil := none, isoHalt := false } }
     else { d with pwr := { d.pwr with
       isoUntil := some (d.now + frField f 0 2 * 1000000), isoHalt := d.pwr.isoHalt || decide (frField f 0 2 ≤ 20) } } : Dev).raisePwr 8 := by
  simp only [Dev.supApply, h]
  rfl

/-- FAC_IDENT_REQ before FUSE has ended: the event alone (02 R66). -/
theorem Dev.supApply_identReq {d : Dev} {f : Frame} (h : f.typ = 0x06#8) (hfuse : d.fuseEnded = false) : d.supApply f = d.raisePwr 32 := by
  have hfuse' : (d.raisePwr 32).fuseEnded = false := hfuse
  simp only [Dev.supApply, h]
  exact if_neg (Bool.not_eq_true _ ▸ hfuse')

/-- FAC_ACK at the Supervisor: it ends the frame it names, and a power request that is acknowledged. -/
theorem Dev.supApply_ack (d : Dev) {f : Frame} (h : f.typ = 0x07#8) : d.supApply f =
    let x : Dev := { d with sup := { d.sup with unacked := d.sup.unacked.filter (fun u => !(u.typ == frByte f 0 && u.seq == frByte f 1)) } }
    if frByte f 0 == 0x85 then { x with pwr := { x.pwr with pending := false } } else x := by
  simp only [Dev.supApply, h]
  rfl

/-- Noting a frame is a matter of the PWR counts and the sequence number. -/
@[simp] theorem Dev.noteRx_fields (d : Dev) (f : Frame) :
    (d.noteRx f).thm = d.thm ∧ (d.noteRx f).time = d.time ∧ (d.noteRx f).out = d.out ∧ (d.noteRx f).pwr.evt = d.pwr.evt ∧
    (d.noteRx f).pwr.shed = d.pwr.shed ∧ (d.noteRx f).pwr.lost = false ∧ (d.noteRx f).sup.unacked = d.sup.unacked ∧
    (d.noteRx f).fuseEnded = d.fuseEnded := ⟨rfl, rfl, rfl, rfl, rfl, rfl, rfl, rfl⟩

/-- Settles O11: each message is noted, applied, and acknowledged where its type asks for it. -/
theorem facilityMessagesApply : Obligations.FacilityMessagesApply := by
  intro s f halive hsound hnew
  refine ⟨fun h => ?_, fun h => ?_, fun h => ?_, fun h => ?_, fun h hfuse => ?_, fun h => ?_⟩
  · refine ⟨_, next_congr s (Dev.supFrame_plain halive hsound hnew h (by decide) (by decide)), ?_⟩
    simp [Dev.supApply_status _ h]
  · refine ⟨_, next_congr s (Dev.supFrame_acked halive hsound hnew h (by decide) (by decide)), ?_⟩
    by_cases hrack : frByte f 2 = 0#8 <;> simp [Dev.supApply_cap _ h, hrack]
  · refine ⟨_, next_congr s (Dev.supFrame_acked halive hsound hnew h (by decide) (by decide)), ?_, ?_⟩
    · intro hmode
      rw [Dev.supApply_shed_level _ h hmode]
      by_cases hshed : s.dev.pwr.shed = 2#2 <;> simp [hshed]
    · intro hmode
      simp [Dev.supApply_shed_halt _ h hmode, Dev.facHalt]
  · refine ⟨_, next_congr s (Dev.supFrame_acked halive hsound hnew h (by decide) (by decide)), ?_⟩
    by_cases hend : frField f 0 2 = 0xFFFF <;> simp [Dev.supApply_isolate _ h, hend, Dev.now]
  · refine ⟨_, next_congr s (Dev.supFrame_plain halive hsound hnew h (by decide) (by decide)), ?_⟩
    rw [Dev.supApply_identReq h (by simpa using hfuse)]
    simp
  · refine ⟨_, next_congr s (Dev.supFrame_plain halive hsound hnew h (by decide) (by decide)), ?_⟩
    by_cases hreq : frByte f 0 = 0x85#8 <;> simp [Dev.supApply_ack _ h, hreq]

/-! A message that the Facility Controller accepts (02 R65): by its type. -/

/-- The module once the Facility Controller has noted a new frame. -/
def Dev.noteFcRx (d : Dev) (f : Frame) : Dev := { d with fc := { d.fc with rxLast := some f.seq } }

/-- A sound frame of the host side under a new sequence number is noted, applied, and acknowledged where its type asks for it. -/
theorem Dev.fcFrame_new {d : Dev} {f : Frame} (hhk : d.fc.hk = true) (hsound : frSound f = true)
    (htyp : 0x81 ≤ f.typ.toNat ∧ f.typ.toNat ≤ 0x87) (hnew : d.fc.rxLast ≠ some f.seq) :
    d.fcFrame f =
      if ackedType f.typ then ((d.noteFcRx f).fcApply f).fcSend 0x07 [f.typ, f.seq] else (d.noteFcRx f).fcApply f := by
  obtain ⟨hlo, hhi⟩ := htyp
  unfold Dev.fcFrame
  rw [if_neg (by simp [hhk]), if_neg (by simp [hsound, hlo, hhi]), if_neg (by simpa using hnew)]
  rfl

/-- A message sent on to the rack. -/
def Dev.toRack (d : Dev) (f : Frame) : Dev := d.canSend (d.canId 0x240) (frHead f)

/-- Every message but HST_ACK goes to the rack before it acts (02 R58). -/
theorem Dev.fcApply_status (d : Dev) {f : Frame} (h : f.typ = 0x81#8) : d.fcApply f = { d.toRack f with fc := { d.fc with
    lastStatus := some (frHead f), st := if d.fc.st == .hostSilent then .hostRunning else d.fc.st } } := by
  simp only [Dev.fcApply, h]
  rfl

/-- A fragment of a stop record is kept, and a record that is whole takes the place of the one before. -/
theorem Dev.fcApply_stop (d : Dev) {f : Frame} (h : f.typ = 0x82#8) : d.fcApply f =
    let n := bf (frByte f 0).toNat 3 0
    let frags := addFrag d.fc.frags (bf (frByte f 0).toNat 7 4) (frHead f)
    if (List.range n).all (fun k => (tget? frags k).isSome) then
      { d.toRack f with fc := { d.fc with stopRec := (List.range n).map (fun k => tget frags k []), frags := [] } }
    else { d.toRack f with fc := { d.fc with frags := frags } } := by
  simp only [Dev.fcApply, h]
  rfl

/-- A message that acts on nothing but the bookkeeping of stop records, or on nothing. -/
theorem Dev.fcApply_out {d : Dev} {f : Frame} (h : f.typ = 0x82#8 ∨ f.typ = 0x83#8 ∨ f.typ = 0x85#8 ∨ f.typ = 0x86#8) :
    (d.fcApply f).out = (d.toRack f).out ∧ (d.fcApply f).fc.seq = d.fc.seq ∧ (d.fcApply f).fc.unacked = d.fc.unacked := by
  rcases h with h | h | h | h
  · rw [d.fcApply_stop h]
    dsimp only
    split <;> exact ⟨rfl, rfl, rfl⟩
  · simp only [Dev.fcApply, h]
    exact ⟨rfl, rfl, rfl⟩
  · simp only [Dev.fcApply, h]
    exact ⟨rfl, rfl, rfl⟩
  · simp only [Dev.fcApply, h]
    exact ⟨rfl, rfl, rfl⟩

/-- HST_IDENT ends one wait for it. -/
theorem Dev.fcApply_ident (d : Dev) {f : Frame} (h : f.typ = 0x84#8) :
    d.fcApply f = { d.toRack f with fc := { d.fc with identWait := d.fc.identWait - 1 } } := by
  simp only [Dev.fcApply, h]
  rfl

/-- HST_ACK ends the frame it names, and does not reach the rack. -/
theorem Dev.fcApply_ack (d : Dev) {f : Frame} (h : f.typ = 0x87#8) : d.fcApply f = { d with fc := { d.fc with
    unacked := d.fc.unacked.filter (fun u => !(u.typ == frByte f 0 && u.seq == frByte f 1)) } } := by
  simp only [Dev.fcApply, h]
  rfl

section
variable {d : Dev} {f : Frame} (hhk : d.fc.hk = true) (hsound : frSound f = true) (hnew : d.fc.rxLast ≠ some f.seq)
include hhk hsound hnew

/-- A new frame of a type that asks for no acknowledgement. -/
theorem Dev.fcFrame_plain {t : Byte} (htyp : f.typ = t) (hrange : 0x81 ≤ t.toNat ∧ t.toNat ≤ 0x87) (hack : ackedType t = false) :
    d.fcFrame f = (d.noteFcRx f).fcApply f := by
  subst htyp
  rw [Dev.fcFrame_new hhk hsound hrange hnew, hack]
  exact if_neg Bool.false_ne_true

/-- A record or a power request goes to the rack and is acknowledged. -/
theorem Dev.fcFrame_acked_out {t : Byte} (htyp : f.typ = t) (hrec : t = 0x82#8 ∨ t = 0x83#8 ∨ t = 0x85#8) :
    (d.fcFrame f).out = d.out ++ [.can (0x240 + d.fc.slot.toNat) (padTo 16 (frHead f))]
      ++ [.barrier .facility (frameBytes 0x07 d.fc.seq [f.typ, f.seq])] := by
  subst htyp
  have hrange : 0x81 ≤ f.typ.toNat ∧ f.typ.toNat ≤ 0x87 := by rcases hrec with h | h | h <;> simp [h]
  have hack : ackedType f.typ = true := by rcases hrec with h | h | h <;> (rw [h]; decide)
  have hplain : ackedType 0x07 = false := by decide
  obtain ⟨hout, hseq, -⟩ := Dev.fcApply_out (d := d.noteFcRx f) (f := f) (by rcases hrec with h | h | h <;> simp only [h, true_or, or_true])
  rw [Dev.fcFrame_new hhk hsound hrange hnew, hack, if_pos rfl, Dev.fcSend_unacked hplain, hout, hseq]
  rfl

end

/-- Settles O13: each message is noted and applied, and a record or a power request is acknowledged. -/
theorem hostMessagesReachTheRack : Obligations.HostMessagesReachTheRack := by
  intro s f hhk hsound hnew
  refine ⟨fun h => ?_, fun h => ?_, fun h => ?_, fun h => ?_, fun h => ?_, fun h => ?_, fun h => ?_⟩
  · refine ⟨_, next_congr s (Dev.fcFrame_plain hhk hsound hnew h (by decide) (by decide)), ?_⟩
    rw [Dev.fcApply_status _ h]
    exact ⟨rfl, fun hs => if_pos (by simp [Dev.noteFcRx, hs]), rfl⟩
  · exact ⟨_, rfl, Dev.fcFrame_acked_out hhk hsound hnew h (by simp)⟩
  · exact ⟨_, rfl, Dev.fcFrame_acked_out hhk hsound hnew h (by simp)⟩
  · refine ⟨_, next_congr s (Dev.fcFrame_plain hhk hsound hnew h (by decide) (by decide)), ?_⟩
    rw [Dev.fcApply_ident _ h]
    exact ⟨rfl, rfl⟩
  · exact ⟨_, rfl, Dev.fcFrame_acked_out hhk hsound hnew h (by simp)⟩
  · refine ⟨_, next_congr s (Dev.fcFrame_plain hhk hsound hnew h (by decide) (by decide)), ?_⟩
    obtain ⟨hout, -, hun⟩ := Dev.fcApply_out (d := s.dev.noteFcRx f) (f := f) (by simp [h])
    exact ⟨hout, hun⟩
  · refine ⟨_, next_congr s (Dev.fcFrame_plain hhk hsound hnew h (by decide) (by decide)), ?_⟩
    rw [Dev.fcApply_ack _ h]
    exact ⟨rfl, rfl⟩

/-! Time on the barrier. -/

/-- A frame of the Supervisor that waits alone for its acknowledgement is sent again while it has been sent less than eight times (02 R64). -/
theorem Dev.retransmit_again {d : Dev} {u : Unacked} (halive : d.supAlive = true) (hq : d.sup.unacked = [u]) (hsends : u.sends < 8) :
    d.retransmit .host u.seq = { d with
      sup := { d.sup with unacked := [{ u with sends := u.sends + 1 }] },
      out := d.out ++ [.barrier .host (frameBytes u.typ u.seq u.payload)] } := by
  simp [Dev.retransmit, hq, halive, hsends, Dev.emit]

/-- After the eighth time it is abandoned, and with it a power request. -/
theorem Dev.retransmit_abandons {d : Dev} {u : Unacked} (halive : d.supAlive = true) (hq : d.sup.unacked = [u]) (hsends : 8 ≤ u.sends) :
    d.retransmit .host u.seq =
      let x : Dev := { d with sup := { d.sup with unacked := [] }, pwr := { d.pwr with unackedN := satAdd d.pwr.unackedN 1 } }
      if u.typ == 0x85 then { x with pwr := { x.pwr with pending := false, failed := true } } else x := by
  simp [Dev.retransmit, hq, halive, Nat.not_lt.2 hsends]

/-- A list cut or filled to a length has it. -/
@[simp] theorem length_padTo (n : Nat) (l : List Byte) : (padTo n l).length = n := by
  simp [padTo]
  omega

/-- Padding a list that has the length already. -/
@[simp] theorem padTo_padTo (n : Nat) (l : List Byte) : padTo n (padTo n l) = padTo n l := by
  rw [padTo_of_le (by simp)]
  simp

/-- PWR_REQ_GO of the physical function, answered. -/
theorem exec_pwrReqGo {s : State} (hok : s.dev.hostOk .pf = true) (v : BitVec 32) :
    exec (.pwrReqGo .pf v) s = .next { s with dev := s.dev.hostTurn.wrPwrReq v.toNat } := by
  simp [exec, execPwrReqGo, onDev, State.setDev, Dev.hostReq?, hok]

/-- A request with power, FUSE ended and the function's Memory Space Enable set finds the supplies valid. -/
theorem Dev.supAlive_of_hostOk {d : Dev} {fn : Fn} (h : d.hostOk fn = true) : d.supAlive = true := by
  simp only [Dev.hostOk, Dev.pcieUp, Bool.and_eq_true] at h
  exact h.1.1.1.1.1

/-- A write of PWR_REQ with GO while no request is pending (02 R72). -/
theorem Dev.wrPwrReq_go {d : Dev} {v : Nat} (halive : d.supAlive = true) (hpend : d.pwr.pending = false) (hgo : bit v 16 = true) :
    ∃ failed, d.wrPwrReq v = ({ d with pwr := { d.pwr with reqW := BitVec.ofNat 16 (bf v 15 0), failed := failed, pending := true } } : Dev).supSend 0x85
      (leBytes 2 (bf v 15 0)) := by
  refine ⟨d.pwr.failed && !bit v 18, ?_⟩
  unfold Dev.wrPwrReq
  rw [if_neg (by simp [hpend])]
  exact if_pos (Bool.and_eq_true_iff.2 ⟨hgo, halive⟩)

/-- HST_IDENT that does not come: one wait ends, and the rack gets what is retained (02 R66). -/
theorem exec_identAnswerTimeout {s : State} (hhk : s.dev.fc.hk = true) (hwait : 0 < s.dev.fc.identWait) :
    exec .identAnswerTimeout s = .next { s with dev :=
      let x : Dev := { s.dev with fc := { s.dev.fc with identWait := s.dev.fc.identWait - 1 } }
      if s.dev.fc.lastStatus.isNone then x.canSend (x.canId 0x240) [] else x.serveRetained } :=
  next_congr s (if_pos (by simp [hhk, Nat.pos_iff_ne_zero.1 hwait]))

/-- 20 ms before the isolate count ends HALT is in force (02 R68). -/
theorem exec_isolateHalt {s : State} {t : Nat} (halive : s.dev.supAlive = true) (ht : s.dev.pwr.isoUntil = some t) :
    exec .isolateHalt s = .next { s with dev :=
      let x := s.dev.advTo (t - 20000000)
      { x with pwr := { x.pwr with isoHalt := true } } } := by
  simp [exec, execIsolateHalt, onDev, State.setDev, halive, ht]

/-- Settles O14: a frame that waits is sent again or abandoned, and each of the other periods of the barrier ends in its event, its frame or
its state. -/
theorem barrierTimeouts : Obligations.BarrierTimeouts := by
  intro s
  refine ⟨fun u halive hq => ⟨fun hsends => ?_, fun hsends => ?_⟩, fun halive => ?_, fun hhk hst => ?_, fun hhk hwait => ?_, fun t halive ht => ?_,
    fun v hok hpend hgo => ?_, fun w halive hfuse => ?_⟩
  · exact next_congr s (Dev.retransmit_again halive hq hsends)
  · refine ⟨_, next_congr s (Dev.retransmit_abandons halive hq hsends), ?_⟩
    by_cases htyp : u.typ = 0x85#8 <;> simp [htyp]
  · refine ⟨({ s.dev with pwr := { s.dev.pwr with lost := true } } : Dev).raisePwr 16, ?_, by simp⟩
    simp [exec, execBarrierLostTimeout, onDev, State.setDev, halive]
  · refine ⟨({ s.dev with fc := { s.dev.fc with st := .hostSilent } } : Dev).serveRetained, ?_, ?_⟩
    · simp [exec, execHostSilentTimeout, onDev, State.setDev, hhk, hst]
    · rw [Dev.serveRetained_eq]
      exact ⟨rfl, rfl⟩
  · refine ⟨_, exec_identAnswerTimeout hhk hwait, ?_⟩
    split
    · exact Nat.sub_add_cancel hwait
    · rw [Dev.serveRetained_eq]
      exact Nat.sub_add_cancel hwait
  · refine ⟨_, exec_isolateHalt halive ht, ?_, fun n => ?_⟩ <;> simp [Dev.halt, Dev.facHalt]
  · have hkept := s.dev.hostTurn_data.kept
    have halive : s.dev.hostTurn.supAlive = true := by
      simpa only [Dev.supAlive, hkept.rails] using Dev.supAlive_of_hostOk hok
    have hpend' : s.dev.hostTurn.pwr.pending = false := by rw [hkept.pwr]; exact hpend
    have hgo' : bit v.toNat 16 = true := hgo
    obtain ⟨failed, heq⟩ := Dev.wrPwrReq_go halive hpend' hgo'
    refine ⟨_, exec_pwrReqGo hok v, ?_⟩
    rw [heq]
    refine ⟨rfl, BitVec.eq_of_toNat_eq ?_, ?_⟩
    · simp [bf]
    · simp [bf, hkept.sup]
  · refine ⟨s.dev.sendStatus w, ?_, ?_⟩
    · simp [exec, execHstStatusPeriod, onDev, State.setDev, halive, hfuse]
    · exact ⟨length_padTo _ _, rfl, rfl⟩

end Sys2Proof.Machine
end


section
/-!
The power-up sequence (02 R49, 03 R74-R77, R445, 16 R356), the reference clock and the timebase (04 R98-R104), and configuration requests (03 R86).
-/
namespace Sys2Proof.Machine

/-- The counts of what is live: the phase and the readiness stand. -/
theorem Dev.publishLive_phase (d : Dev) : d.publishLive.sys.phase = d.sys.phase ∧ d.publishLive.sys.ready = d.sys.ready ∧
    d.publishLive.sys.everReady = d.sys.everReady ∧ d.publishLive.sys.warm = d.sys.warm ∧ d.publishLive.pwr = d.pwr ∧ d.publishLive.lnk = d.lnk := by
  unfold Dev.publishLive
  dsimp only
  split <;> exact ⟨rfl, rfl, rfl, rfl, rfl, rfl⟩

/-- The end of CLOCK (03 R76). -/
theorem Dev.endClock_of_ref {d : Dev} (halive : d.supAlive = true) (hph : d.sys.phase = 1#4) (href : d.pins.refclk = true) : d.endClock =
    { d with time := { d.time with running := true, base := 0, locked := true, holdover := false }, sys := { d.sys with phase := 2 } } := by
  simp [Dev.endClock, halive, hph, href]

/-- The end of FUSE with the management die's fuses read. -/
theorem Dev.endFuse_good {d : Dev} {r : PhaseResult} (hph : d.sys.phase = 2#4) (htrip : d.thm.trip = false)
    (hgood : r.fuseFail.contains 5 = false) : (d.endFuse r).sys.phase = 3#4 ∧ (d.endFuse r).sys.fuseLoaded = true ∧
      (d.endFuse r).sys.stFuse = BitVec.ofNat 32 d.time.base := by
  simp only [Dev.endFuse, hph, hgood, htrip, Bool.false_eq_true, if_false]
  exact ⟨rfl, rfl, rfl⟩

/-- Time that passes leaves the thermal supervision alone. -/
@[simp] theorem Dev.advTo_thm (d : Dev) (t : Nat) : (d.advTo t).thm = d.thm := by
  unfold Dev.advTo
  split <;> rfl

/-- Time that passes leaves the phase alone. -/
@[simp] theorem Dev.advTo_sys (d : Dev) (t : Nat) : (d.advTo t).sys = d.sys := by
  unfold Dev.advTo
  split <;> rfl

/-- The end of FUSE with the management die's fuses not read: the module fails (03 R77). -/
theorem Dev.endFuse_bad {d : Dev} {r : PhaseResult} (hph : d.sys.phase = 2#4) (htrip : d.thm.trip = false)
    (hbad : r.fuseFail.contains 5 = true) : (d.endFuse r).sys.phase = 15#4 ∧ (d.endFuse r).sys.failCause = 1#4 ∧
      (d.endFuse r).sys.fuseLoaded = false := by
  simp only [Dev.endFuse, hph, hbad, htrip, Dev.advTo_thm, Bool.false_eq_true, if_false, if_true]
  exact ⟨rfl, rfl, rfl⟩

/-- What the partner die answers is a matter of the ZF block and the output. -/
theorem Dev.negotiate_time (d : Dev) (o : PartnerOutcome) : (d.negotiate o).time = d.time := by
  unfold Dev.negotiate Dev.sendCapx
  cases o <;> (dsimp only; split <;> rfl)

/-- The end of ZF (03 R76). -/
theorem Dev.endZf_phase {d : Dev} (r : PhaseResult) (hph : d.sys.phase = 3#4) :
    (d.endZf r).sys.phase = 4#4 ∧ (d.endZf r).sys.stZf = BitVec.ofNat 32 d.time.base ∧ (d.endZf r).time = d.time := by
  unfold Dev.endZf
  rw [if_neg (by simp [hph])]
  extract_lets native ok1 zf reach ok x st sites iso prt sys zf' y z
  have hx : x.time = d.time := by
    unfold x
    split
    · exact d.negotiate_time _
    · rfl
  have hy : y.sys.stZf = BitVec.ofNat 32 x.time.base := rfl
  exact ⟨rfl, hy.trans (by rw [hx]), hx⟩

/-- The end of MEM (03 R76). -/
theorem Dev.endMem_phase {d : Dev} (r : PhaseResult) (hph : d.sys.phase = 4#4) : (d.endMem r).sys.phase = 5#4 := by
  unfold Dev.endMem
  rw [if_neg (by simp [hph])]
  exact (Dev.publishLive_phase _).1

/-- The end of ASSAY (03 R76). -/
theorem Dev.endAssay_phase {d : Dev} (r : PhaseResult) (hph : d.sys.phase = 5#4) : (d.endAssay r).sys.phase = 6#4 := by
  unfold Dev.endAssay
  rw [if_neg (by simp [hph])]
  rfl

/-- A fresh session differs from the one before (16 R356): it is that one and a step of 1 to 65,535. -/
theorem Dev.drawSession_ne (d : Dev) : d.drawSession.lnk.session ≠ d.lnk.session := by
  intro h
  have hnat := congrArg BitVec.toNat h
  have hlt := d.lnk.session.isLt
  have hstep : (Config.entropy d.free).toNat % 65535 < 65535 := Nat.mod_lt _ (by omega)
  simp only [Dev.drawSession, BitVec.toNat_ofNat] at hnat
  omega

/-- An undisturbed module after ASSAY becomes ready (03 R77). -/
theorem Dev.setReady_of_assay {d : Dev} (hph : d.sys.phase = 6#4) (hever : d.sys.everReady = false) (hlck : d.lck.disturbed = false) :
    d.setReady = ({ d with sys := { d.sys with ready := true, warm := false, everReady := true, stReady := BitVec.ofNat 32 d.now } } :
      Dev).vopReset.publishLive.drawSession.sendIdent := by
  unfold Dev.setReady
  rw [if_neg (by simp [hph, hever, hlck])]

/-- A running timebase brought forward to t has reached it. -/
theorem Dev.le_advTo_base {d : Dev} {t : Nat} (hrun : d.time.running = true) (hbase : d.time.base < 2 ^ 64) (ht : t < 2 ^ 64) :
    t ≤ (d.advTo t).time.base := by
  unfold Dev.advTo
  rw [if_pos hrun]
  show t ≤ max d.time.base t % 2 ^ 64
  rw [Nat.mod_eq_of_lt (by omega)]
  exact Nat.le_max_right _ _

/-- The end of the quiet period (16 R356): requests go out, under the session there is. -/
theorem exec_sessionQuietEnd {s : State} (halive : s.dev.supAlive = true) (hready : s.dev.sys.ready = true) :
    exec .sessionQuietEnd s = .next { s with dev := ({ s.dev with lnk := { s.dev.lnk with quiet := false } } : Dev).sendAll } :=
  next_congr s (by simp [halive, hready])

/-- Settles O15: each phase sets the next one and its stamp last, a ready module draws its session, and what the quiet period held back is a
matter of requests alone. -/
theorem powerUpSequence : Obligations.PowerUpSequence := by
  intro s r halive
  refine ⟨fun hph href => ?_, fun hph htrip => ⟨fun hgood => ?_, fun hbad => ?_⟩, fun hph => ?_, fun hph => ?_, fun hph => ?_,
    fun hph hever hlck => ?_, fun hph hrun hbase => ?_, fun hready => ⟨fun hrids => ?_, ?_⟩⟩
  · refine ⟨_, next_congr s (Dev.endClock_of_ref halive hph href), rfl, rfl, rfl, rfl⟩
  · exact ⟨_, onUp_on s (fun d => d.endFuse r) halive, Dev.endFuse_good hph htrip hgood⟩
  · exact ⟨_, onUp_on s (fun d => d.endFuse r) halive, Dev.endFuse_bad hph htrip hbad⟩
  · obtain ⟨hp, hst, -⟩ := Dev.endZf_phase r hph
    exact ⟨_, onUp_on s (fun d => d.endZf r) halive, hp, hst⟩
  · exact ⟨_, onUp_on s (fun d => d.endMem r) halive, Dev.endMem_phase r hph⟩
  · exact ⟨_, onUp_on s (fun d => d.endAssay r) halive, Dev.endAssay_phase r hph⟩
  · refine ⟨s.dev.setReady, onUp_on s _ halive, ?_⟩
    rw [Dev.setReady_of_assay hph hever hlck]
    generalize hx : ({ s.dev with sys := { s.dev.sys with ready := true, warm := false, everReady := true, stReady := BitVec.ofNat 32 s.dev.now } } :
      Dev).vopReset = x
    obtain ⟨-, hready, hev, hwarm, hpwr, hlnk⟩ := x.publishLive_phase
    have hne : x.publishLive.drawSession.lnk.session ≠ x.publishLive.lnk.session := Dev.drawSession_ne _
    have hvop : x.pwr.vop = [] ∧ x.pwr.rail = [] := by rw [← hx]; exact ⟨rfl, rfl⟩
    refine ⟨hready.trans ?_, hev.trans ?_, hwarm.trans ?_, rfl, ?_, fun n => ?_⟩
    · rw [← hx]; rfl
    · rw [← hx]; rfl
    · rw [← hx]; rfl
    · rw [hlnk, ← hx] at hne
      rw [← hx]
      exact hne
    · show tget x.publishLive.pwr.vop n 4 = 4#3 ∧ tget x.publishLive.pwr.rail n 4 = 4#3
      rw [hpwr, hvop.1, hvop.2]
      exact ⟨rfl, rfl⟩
  · have hdl : s.dev.deadline r = (s.dev.advTo 39800000).endZf r := by
      simp only [Dev.deadline, hph]
      rfl
    obtain ⟨hp, -, htime⟩ := Dev.endZf_phase (d := s.dev.advTo 39800000) r (by simpa using hph)
    refine ⟨_, onUp_on s (fun d => d.deadline r) halive, ?_⟩
    rw [hdl, htime]
    exact ⟨hp, Dev.le_advTo_base hrun hbase (by omega)⟩
  · rw [exec_sessionQuietEnd halive hready, Dev.sendAll_idle]
    simp [hrids]
  · refine ⟨_, exec_sessionQuietEnd halive hready, ?_⟩
    have hbeside := Dev.sendAll_besideSends { s.dev with lnk := { s.dev.lnk with quiet := false } }
    exact ⟨congrArg (·.lnk.quiet) hbeside, congrArg (·.lnk.session) hbeside, congrArg (·.mem) hbeside⟩

/-! The reference clock, reading the timebase, pace windows. -/

/-- The loss of a reference clock that was there. -/
theorem exec_refclkLoss {s : State} (hrun : s.dev.time.running = true) (hhold : s.dev.time.holdover = false) :
    exec .refclkLoss s = .next { s with dev := ({ s.dev with
      pins := { s.dev.pins with refclk := false },
      time := { s.dev.time with locked := false, holdover := true, holdSeen := true } } : Dev).emit (.msix .pf 0) } :=
  next_congr s (by simp [hrun, hhold])

/-- The return of the reference clock. -/
theorem exec_refclkReturn {s : State} (hrun : s.dev.time.running = true) :
    exec .refclkReturn s = .next { s with dev := { s.dev with
      pins := { s.dev.pins with refclk := true }, time := { s.dev.time with locked := true, holdover := false } } } :=
  next_congr s (by simp [hrun])

/-- SYS_TIME_LO_READ of a function that is answered (04 R98). -/
theorem exec_sysTimeLoRead {s : State} {fn : Fn} (hok : s.dev.hostOk fn = true) :
    exec (.sysTimeLoRead fn) s = .next { s with dev := (s.dev.hostTurn.latchTime fn).emit (.reg fn 0x80 (bf s.dev.hostTurn.time.base 31 0)) } :=
  next_congr s (by simp [Dev.hostReq?, hok, Dev.latchTime])

/-- Entries of a table modified one after another, each once. -/
theorem tget_foldl_tmod {α : Type} (f : Nat → α → α) (d : α) (l : List Nat) (hl : l.Nodup) : ∀ (t : Tbl α) (k : Nat),
    tget (l.foldl (fun t k => tmod t k d (f k)) t) k d = if k ∈ l then f k (tget t k d) else tget t k d := by
  induction l with
  | nil => exact fun t k => by simp
  | cons a r ih =>
    intro t k
    obtain ⟨har, hr⟩ := List.nodup_cons.1 hl
    rw [List.foldl_cons, ih hr]
    by_cases hk : k = a
    · subst hk
      simp [har]
    · simp [hk, tget_tmod_other _ _ _ _ _ hk]

/-- Time that passes stops no monitor. -/
theorem Dev.paceRuns_advTo (d : Dev) (t k : Nat) : (d.advTo t).paceRuns k = d.paceRuns k := by
  unfold Dev.advTo
  split <;> rfl

/-- A pace window latches the monitors that run (04 R103). -/
theorem Dev.latchPace_pace (d : Dev) (counts : List (Nat × BitVec 24)) (k : Nat) : tget (d.latchPace counts).time.pace k {} =
    if k < 384 ∧ d.paceRuns k = true then { pace := d.paceCount counts k, win := (tget d.time.pace k {}).win + 1, valid := true }
    else tget d.time.pace k {} := by
  unfold Dev.latchPace
  refine (tget_foldl_tmod (fun k (x : PaceMon) => { pace := d.paceCount counts k, win := x.win + 1, valid := true }) {} _ ?_ _ k).trans ?_
  · exact List.nodup_range.filter _
  · simp

/-- PACE_WINDOW with the timebase running. -/
theorem exec_paceWindow {s : State} (halive : s.dev.supAlive = true) (hrun : s.dev.time.running = true) (counts : List (Nat × BitVec 24)) :
    exec (.paceWindow counts) s = .next { s with dev := (s.dev.advTo (s.dev.time.paceAt + ms)).latchPace counts } :=
  next_congr s (by simp [halive, hrun])

/-- Time that passes leaves the pace monitors alone. -/
theorem Dev.advTo_pace (d : Dev) (t : Nat) : (d.advTo t).time.pace = d.time.pace ∧ (d.advTo t).time.paceAt = d.time.paceAt := by
  unfold Dev.advTo
  split <;> exact ⟨rfl, rfl⟩

/-- Settles O16: the monitors that run are entries of one table, each modified once. -/
theorem timebase : Obligations.Timebase := by
  refine ⟨fun s hrun => ⟨fun hhold => ⟨_, exec_refclkLoss hrun hhold, rfl, rfl, rfl, rfl, rfl⟩,
    ⟨_, exec_refclkReturn hrun, rfl, rfl, rfl, rfl, rfl⟩⟩, fun s => ⟨fun fn hok => ?_, fun counts halive hrun => ?_⟩⟩
  · refine ⟨_, exec_sysTimeLoRead hok, rfl, rfl, ?_, fun g hg => ?_⟩
    · simp [Dev.latchTime, Dev.emit, bf_eq]
    · exact tget_tset_other _ _ _ _ _ (fnKey_injective.ne hg)
  · obtain ⟨hpace, hat⟩ := s.dev.advTo_pace (s.dev.time.paceAt + ms)
    refine ⟨_, exec_paceWindow halive hrun counts, ?_, fun k hk hruns => ?_, fun k hk => ?_⟩
    · exact congrArg (· + ms) hat
    · rw [Dev.latchPace_pace, Dev.paceRuns_advTo, if_pos ⟨hk, hruns⟩, hpace]
      refine ⟨rfl, rfl, fun v hv => ?_⟩
      simp [Dev.paceCount, tget, hv]
    · rw [Dev.latchPace_pace, Dev.paceRuns_advTo, if_neg, hpace]
      rintro ⟨hlt, hr⟩
      rcases hk with hk | hk
      · omega
      · rw [hk] at hr
        exact Bool.false_ne_true hr

/-! Configuration requests. -/

/-- Settles O17: by the link and by FUSE. -/
theorem configurationRequests : Obligations.ConfigurationRequests := by
  intro s op
  refine ⟨fun hup => ?_, fun hup hfuse => ?_, fun hup hfuse => ?_⟩
  · exact next_congr s (by simp [Dev.cfgRequest, hup])
  · exact next_congr s (by simp [Dev.cfgRequest, hup, hfuse])
  · have heq : s.dev.cfgRequest .pf op = (match op with
        | .read => s.dev
        | .setMse on => { s.dev with pcie := { s.dev.pcie with mse := tset s.dev.pcie.mse 0 on } }
        | .setVfEnable on => { s.dev with pcie := { s.dev.pcie with vfEnable := on } } : Dev).emit (.cfg .pf true) := by
      cases op <;> simp [Dev.cfgRequest, Dev.cfgOk, hup, hfuse, fnKey]
    refine ⟨_, next_congr s heq, ?_⟩
    cases op <;> simp

end Sys2Proof.Machine
end


section
/-!
Work of the slices on their own and slices that leave service (06 R141, R150-R157); ZF ports and the purge of the Remote Line Caches (08 R181, R185).
-/
namespace Sys2Proof.Machine

/-- What a view shows of every slice. -/
def Dev.sliceView {β : Type} (view : Slice → β) (d : Dev) : Nat → Nat → β := fun n c => view (d.slice n c)

/-- A slice after it is set. -/
@[simp] theorem Dev.slice_setSlice_same (d : Dev) (n c : Nat) (x : Slice) : (d.setSlice n c x).slice n c = x := tget_tset_same _ _ _ _

/-- A slice set to one that looks the same. -/
theorem Dev.sliceView_setSlice {β : Type} (view : Slice → β) {d : Dev} {n c : Nat} {x : Slice} (h : view x = view (d.slice n c)) :
    (d.setSlice n c x).sliceView view = d.sliceView view := by
  funext n' c'
  by_cases hk : coreKey n' c' = coreKey n c
  · simp only [Dev.sliceView, Dev.slice, Dev.setSlice, hk, tget_tset_same]
    exact h
  · simp only [Dev.sliceView, Dev.slice, Dev.setSlice, tget_tset_other _ _ _ _ _ hk]

/-- A view depends on the slices alone. -/
theorem Dev.sliceView_congr {β : Type} (view : Slice → β) {d x : Dev} (h : x.slc.slices = d.slc.slices) : x.sliceView view = d.sliceView view := by
  funext n c
  simp only [Dev.sliceView, Dev.slice, h]

@[simp] theorem Dev.count_slc (d : Dev) (o : Option Nat) (g i n : Nat) : (d.count o g i n).slc = d.slc :=
  congrArg (·.slc) (d.count_besideCounts o g i n)

theorem Dev.logSlc_slices (d : Dev) (cls src bit lane dpa : Nat) : (d.logSlc cls src bit lane dpa).slc.slices = d.slc.slices := rfl

/-- A word given the poison encoding is a matter of memory and the KPM. -/
@[simp] theorem Dev.poisonWord_slc (d : Dev) (acc : Acc) (w : Nat) : (d.poisonWord acc w).slc = d.slc := by
  unfold Dev.poisonWord
  split
  · rfl
  · exact Dev.breakRsv_slc _ _ _ _

/-! A touched word changes no burst of the scrubber (06 R150). -/

theorem Dev.goReadOnly_burst (d : Dev) (n c : Nat) : (d.goReadOnly n c).sliceView Slice.burst = d.sliceView Slice.burst := by
  unfold Dev.goReadOnly
  dsimp only
  split
  · exact (Dev.sliceView_congr _ rfl).trans (Dev.sliceView_setSlice Slice.burst rfl)
  · rfl

theorem Dev.tallyLane_burst (d : Dev) (n c off j src dpa : Nat) : (d.tallyLane n c off j src dpa).sliceView Slice.burst = d.sliceView Slice.burst := by
  unfold Dev.tallyLane
  extract_lets s lane e tally o used x
  split
  · rfl
  · split
    · split
      · exact (Dev.sliceView_congr _ rfl).trans (Dev.sliceView_setSlice Slice.burst rfl)
      · exact (Dev.goReadOnly_burst _ _ _).trans (Dev.sliceView_setSlice Slice.burst rfl)
    · exact Dev.sliceView_setSlice Slice.burst rfl

/-- A burst of the scrubber that is not the last of its pass (06 R150). -/
theorem Dev.scrubSlice_burst {d : Dev} {n c : Nat} (e : Env) (hlive : d.coreLive n c = true) (hlast : (d.slice n c).burst + 1 ≠ sliceBursts) :
    ((d.scrubSlice e n c).slice n c).burst = (d.slice n c).burst + 1 := by
  unfold Dev.scrubSlice
  rw [if_neg (by simp [hlive])]
  extract_lets s b x acc y s'
  rw [if_neg hlast, Dev.slice_setSlice_same]

/-! A pass over every slice (06 R150). -/

/-- The end of a pass changes no more than the count of passes of a slice. -/
theorem Dev.slicePass_view {β : Type} (view : Slice → β) (hview : ∀ (x : Slice) (k : Nat), view { x with passes := k } = view x) (d : Dev) :
    d.slicePass.sliceView view = d.sliceView view := by
  unfold Dev.slicePass
  dsimp only
  split
  · refine (Dev.sliceView_congr view rfl).trans ?_
    exact foldl_leaves (Dev.sliceView view) _ (fun d x => Dev.sliceView_setSlice view (hview _ _)) _ d
  · rfl

/-- The end of a pass leaves the events of the slices and the causes alone. -/
theorem Dev.slicePass_evt (d : Dev) : d.slicePass.slc.evt = d.slc.evt ∧ d.slicePass.sys = d.sys := by
  unfold Dev.slicePass
  dsimp only
  split
  · have hfold := foldl_leaves (fun d : Dev => (d.slc.evt, d.sys)) (fun (d : Dev) (x : Nat × Nat) =>
      d.setSlice x.1 x.2 { d.slice x.1 x.2 with passes := (d.slice x.1 x.2).passes - 1 }) (fun _ _ => rfl) d.allCores d
    exact Prod.ext_iff.1 hfold
  · exact ⟨rfl, rfl⟩

theorem Dev.publishLive_slc (d : Dev) : d.publishLive.slc = d.slc := by
  unfold Dev.publishLive
  dsimp only
  split <;> rfl

/-- The slice of a fenced core, and what the fence reports. -/
def Dev.sliceOut (d : Dev) (n c : Nat) : Dev :=
  (d.setSlice n c { d.slice n c with st := 2, evacAt := none, sweeping := [] }).raiseSlc 64

/-- A core in service that is fenced: once its work is ended, its slice leaves service, and the class breaks (06 R155). -/
theorem Dev.fenceCore_eq {d : Dev} (e : Env) {n c : Nat} (hlive : d.coreLive n c = true) :
    ∃ y : Dev, d.fenceCore e n c true = (y.sliceOut n c).publishLive.slicePass.breakClass 4 := by
  unfold Dev.fenceCore
  rw [if_neg (by simp [hlive])]
  exact ⟨_, if_pos rfl⟩

/-- The slice of a fenced core is out of service and evacuates no more, and SLC_EVT.FENCED and cause CORE are set. -/
theorem Dev.fenceCore_slice {d : Dev} (e : Env) {n c : Nat} (hlive : d.coreLive n c = true) :
    ((d.fenceCore e n c true).slice n c).st = 2#2 ∧ ((d.fenceCore e n c true).slice n c).evacAt = none ∧
      (d.fenceCore e n c true).slc.evt.getLsbD 6 = true ∧ (d.fenceCore e n c true).sys.cause.getLsbD 2 = true := by
  obtain ⟨y, heq⟩ := Dev.fenceCore_eq e hlive
  have hout : (y.sliceOut n c).slice n c = { y.slice n c with st := 2, evacAt := none, sweeping := [] } := tget_tset_same _ _ _ _
  have hview {β : Type} (view : Slice → β) (hv : ∀ (x : Slice) (k : Nat), view { x with passes := k } = view x) :
      view ((d.fenceCore e n c true).slice n c) = view ((y.sliceOut n c).slice n c) := by
    rw [heq]
    exact congrFun (congrFun ((Dev.slicePass_view view hv _).trans (Dev.sliceView_congr view (by rw [Dev.publishLive_slc]))) n) c
  have hevt : (d.fenceCore e n c true).slc.evt = (y.sliceOut n c).slc.evt := by
    rw [heq]
    exact (Dev.slicePass_evt _).1.trans (by rw [Dev.publishLive_slc])
  refine ⟨?_, ?_, ?_, ?_⟩
  · exact (hview Slice.st (fun _ _ => rfl)).trans (congrArg Slice.st hout)
  · exact (hview Slice.evacAt (fun _ _ => rfl)).trans (congrArg Slice.evacAt hout)
  · rw [hevt]
    simp [Dev.sliceOut]
  · rw [heq]
    simp [Dev.breakClass]

/-- A bit that is set reads as set. -/
theorem getLsbD_putBit_true {w : Nat} (x : BitVec w) {i : Nat} (hi : i < w) : (putBit x i true).getLsbD i = true := by
  unfold putBit
  rw [if_pos rfl, BitVec.getLsbD_or, BitVec.getLsbD_ofNat]
  simp [hi]

/-- A stack that is lost shows it (06 R157). -/
theorem Dev.loseStack_lost {d : Dev} (e : Env) {n : Nat} (hn : n < 6) (hact : d.csActive n = true) (hlost : d.slc.lost.getLsbD n = false) :
    (d.loseStack e n).slc.lost.getLsbD n = true ∧ (d.loseStack e n).slc.evt.getLsbD 7 = true ∧ (d.loseStack e n).sys.cause.getLsbD 7 = true := by
  unfold Dev.loseStack
  rw [if_pos (by simp [hact, hlost])]
  refine ⟨getLsbD_putBit_true _ hn, ?_, ?_⟩ <;> simp [Dev.breakClass]

/-! The sweep of a repair and CA parity. -/

/-- A sweep that ends leaves the slices alone but for its own mark. -/
theorem Dev.sweepDone_slice {d : Dev} {n c o : Nat} (hsweep : (d.slice n c).sweeping.contains o = true) :
    ((d.sweepDone n c o).slice n c).sweeping = (d.slice n c).sweeping.filter (fun x => x != o) ∧
      ((d.sweepDone n c o).slice n c).st = (d.slice n c).st := by
  unfold Dev.sweepDone
  dsimp only
  rw [if_neg (by simpa using hsweep), Dev.slice_setSlice_same]
  refine ⟨rfl, ?_⟩
  have h := foldl_leaves (fun d : Dev => d.slc)
    (fun (d : Dev) (w : Nat × BitVec 16) => Dev.count { d with mem := d.mem.correct w.1 (eccClass w.2.toNat) } none 4 0 1) (fun d w => by simp)
  exact congrArg (fun z => (tget z.slices (coreKey n c) {}).st) (h _ d)

/-- A CA parity error that is not the fourth within 1 ms is noted (06 R153). -/
theorem Dev.caParity_few {d : Dev} {n c o : Nat} {f : CaFault} (hlive : d.coreLive n c = true) (hagain : f.again = false)
    (hfew : (tget (d.slice n c).caTimes o []).length < 3) :
    d.caParity n c o f = d.setSlice n c { d.slice n c with
      caTimes := tset (d.slice n c).caTimes o ((d.time.base :: tget (d.slice n c).caTimes o []).filter (fun t => d.time.base < t + 1000000)) } := by
  have hlen : ((d.now :: tget (d.slice n c).caTimes o []).filter (fun t => d.now < t + 1000000)).length < 4 :=
    Nat.lt_of_le_of_lt (List.length_filter_le _ _) (by rw [List.length_cons]; omega)
  unfold Dev.caParity
  rw [if_neg (by simp [hlive])]
  simp only [hagain, Bool.false_eq_true, if_false]
  exact if_pos hlen

theorem Dev.advTo_slice (d : Dev) (t n c : Nat) : (d.advTo t).slice n c = d.slice n c ∧ (d.advTo t).coreLive n c = d.coreLive n c := by
  unfold Dev.advTo
  split <;> exact ⟨rfl, rfl⟩

/-- EVAC_EXPIRY of a read-only slice that evacuates. -/
theorem exec_evacExpiry {s : State} {n : Fin 6} {c : Fin 64} {t : Nat} (halive : s.dev.supAlive = true)
    (hst : (s.dev.slice n.val c.val).st = 1#2) (hevac : (s.dev.slice n.val c.val).evacAt = some t) :
    exec (.evacExpiry n c) s = .next { s with dev := ((s.dev.advTo t).fenceCore {} n.val c.val true).flushRegs {} } :=
  (onRun_on s {} (fun d => match (d.slice n.val c.val).evacAt with
    | some t => if (d.slice n.val c.val).st == 1 then (d.advTo t).fenceCore {} n.val c.val true else d
    | none => d) halive).trans (next_congr s (by simp [hst, hevac]))

/-- SLC_CTL with FENCE_NOW by the management function, on a read-only slice. -/
theorem exec_slcCtlFenceNow {s : State} {n : Fin 6} {c : Fin 64} (hok : s.dev.hostOk .pf = true)
    (hst : (s.dev.hostTurn.slice n.val c.val).st = 1#2) :
    exec (.slcCtlFenceNow .pf (BitVec.ofNat 32 (c.val + 64 * n.val))) s = .next { s with dev := (({ s.dev.hostTurn with
      slc := { s.dev.hostTurn.slc with ctlCore := BitVec.ofNat 6 c.val, ctlSite := BitVec.ofNat 3 n.val } } : Dev).fenceCore {} n.val c.val true).flushRegs {} } := by
  have hv : (BitVec.ofNat 32 (c.val + 64 * n.val)).toNat % 2 ^ 31 + 2 ^ 31 = c.val + 64 * n.val + 2 ^ 31 := by
    rw [BitVec.toNat_ofNat]
    omega
  have hcore : bf (c.val + 64 * n.val + 2 ^ 31) 5 0 = c.val := by rw [bf_eq]; omega
  have hsite : bf (c.val + 64 * n.val + 2 ^ 31) 8 6 = n.val := by rw [bf_eq]; omega
  have hgo : bit (c.val + 64 * n.val + 2 ^ 31) 31 = true := by
    rw [bit_eq, decide_eq_true_iff]
    omega
  have hwr : s.dev.hostTurn.wrSlcCtl (c.val + 64 * n.val + 2 ^ 31) = ({ s.dev.hostTurn with
      slc := { s.dev.hostTurn.slc with ctlCore := BitVec.ofNat 6 c.val, ctlSite := BitVec.ofNat 3 n.val } } : Dev).fenceCore {} n.val c.val true := by
    unfold Dev.wrSlcCtl
    rw [hcore, hsite, hgo, if_pos]
    simpa [Dev.slice] using hst
  unfold exec execSlcCtlFenceNow
  simp only [onHost_ok _ _ _ _ hok, beq_self_eq_true, if_true, hv, hwr]

/-- Settles O22: a touched word and the end of a pass change no burst, and what a fence does to its slice, to SLC_EVT and to the cause comes
after all the work it ends. -/
theorem slices : Obligations.Slices := by
  refine ⟨fun s halive => ⟨?_, fun n c e hlive hlast => ?_, fun n c o e hsweep => ?_, fun n c o f hlive hagain hfew => ?_⟩,
    fun s => ⟨fun n c t halive hlive hst hevac => ?_, fun n c hok hlive hst => ?_, fun n halive hact hlost => ?_⟩⟩
  · exact onUp_on s (fun d => { d with slc := { d.slc with refresh := d.slc.refresh + 1 } }) halive
  · refine ⟨_, onUp_on s (fun d => (d.applyEnv e).scrubSlice e n.val c.val) halive, ?_⟩
    exact Dev.scrubSlice_burst (d := s.dev.applyEnv e) e hlive hlast
  · refine ⟨_, onUp_on s (fun d => (d.applyEnv e).sweepDone n.val c.val o.val) halive, ?_⟩
    exact Dev.sweepDone_slice (d := s.dev.applyEnv e) hsweep
  · refine ⟨_, onUp_on s (fun d => (d.applyEnv {}).caParity n.val c.val o.val f) halive, ?_⟩
    rw [Dev.caParity_few (d := s.dev.applyEnv {}) hlive hagain hfew, Dev.slice_setSlice_same]
    exact ⟨tget_tset_same _ _ _ _, rfl, rfl⟩
  · obtain ⟨-, hcore⟩ := s.dev.advTo_slice t n.val c.val
    exact ⟨_, exec_evacExpiry halive hst hevac, Dev.fenceCore_slice {} (hcore.trans hlive)⟩
  · obtain ⟨h1, -, h2⟩ := Dev.fenceCore_slice (d := { s.dev.hostTurn with
      slc := { s.dev.hostTurn.slc with ctlCore := BitVec.ofNat 6 c.val, ctlSite := BitVec.ofNat 3 n.val } }) {} hlive
    exact ⟨_, exec_slcCtlFenceNow hok hst, h1, h2⟩
  · exact ⟨_, onRun_on s {} (fun d => d.loseStack {} n.val) halive, Dev.loseStack_lost {} n.isLt hact hlost⟩

/-- A parity failure that is not the sixteenth within 1 ms is counted and its flit sent again (08 R181). -/
theorem Dev.zfParity_few {d : Dev} {j : Nat} (hit : List Nat) (hst : (tget d.zf.ports j {}).st = 1#2) (hfew : (tget d.zf.ports j {}).fails.length < 15) :
    ∃ fails, d.zfParity j hit = { d with zf := { d.zf with ports := tset d.zf.ports j { tget d.zf.ports j {} with
      parityErr := satAdd (tget d.zf.ports j {}).parityErr 1, replays := satAdd (tget d.zf.ports j {}).replays 1, fails := fails } } } := by
  have hlen : ¬ 16 ≤ ((d.now :: (tget d.zf.ports j {}).fails).filter (fun t => d.now < t + 1000000)).length :=
    Nat.not_le.2 (Nat.lt_of_le_of_lt (List.length_filter_le _ _) (by rw [List.length_cons]; omega))
  refine ⟨(d.now :: (tget d.zf.ports j {}).fails).filter (fun t => d.now < t + 1000000), ?_⟩
  unfold Dev.zfParity
  dsimp only
  rw [hst, if_neg (by decide), if_neg (by simpa using hlen), if_neg (by simpa using hlen)]

/-- Settles O24: a failure is one entry of the ports. -/
theorem fabricCommands : Obligations.FabricCommands := by
  intro s
  refine ⟨fun j hit halive hst hfew => ?_, fun v hok => ?_, fun halive => ?_⟩
  · obtain ⟨fails, heq⟩ := Dev.zfParity_few hit hst hfew
    refine ⟨_, onRun_on s {} (fun d => d.zfParity j.val hit) halive, ?_⟩
    rw [heq]
    simp only [tget_tset_same]
    exact ⟨hst, trivial, trivial, trivial⟩
  · refine (onHost_ok s .pf {} (fun d => d.wrRlcCtl (v.toNat ||| 1)) hok).trans (next_congr s ?_)
    have hbit : bit (v.toNat ||| 1) 0 = true := by simp [bit]
    simp [Dev.wrRlcCtl, hbit]
  · exact onRun_on s {} (fun d => { d with zf := { d.zf with rlcBusy := false } }) halive

end Sys2Proof.Machine
end


section
/-!
A command on a packet that has started, met by what is outside the module, and what the end of its effect shows (11 R248, R249).
-/
namespace Sys2Proof.Machine

/-- Packets are found in the Dispatcher alone. -/
theorem Dev.pkt?_congr {d x : Dev} (h : x.disp = d.disp) (q : QRef) (tag : BitVec 16) : x.pkt? q tag = d.pkt? q tag := by
  unfold Dev.pkt?
  rw [h]

/-- A packet that names no page descriptor waits for no turn (14 R303). -/
theorem Dev.descTurn_of_plain (d : Dev) {p : Pkt} {c : Nat} (hc : p.opc.toNat = c) (hplain : c ∉ [0x31, 0x32, 0x33, 0x34, 0x36, 0x37]) :
    d.descTurn p = true := by
  have hdescs : d.descsOf p = [] := by
    subst hc
    unfold Dev.descsOf
    dsimp only
    split
    case h_7 => rfl
    all_goals next heq => exact absurd (by simp [heq]) hplain
  simp [Dev.descTurn, hdescs]

/-- A command on a packet that runs, after a change of the module that leaves the Dispatcher and the packet's turn as they are. -/
theorem Dev.onPkt_runs_in {d x : Dev} {q : QRef} {tag : BitVec 16} {c : Nat} {p : Pkt} (h : Runs d q tag c p) (hdisp : x.disp = d.disp)
    (hturn : x.descTurn p = true) {ops : List Nat} (hc : c ∈ ops) (f : Dev → Pkt → Dev) : x.onPkt ops q tag f = f x p := by
  have hf := h.free
  simp only [Dev.onPkt, (Dev.pkt?_congr hdisp q tag).trans h.here, h.started, h.opc, hdisp, hf, hturn]
  simp [hc]

section
variable {s : State} {q : QRef} {tag : BitVec 16} {c : Nat} {p : Pkt} (h : Runs s.dev q tag c p)
include h

/-- A command on a packet that runs: its effect, and the register writes that wait. -/
theorem onRun_pkt {ops : List Nat} (hc : c ∈ ops) (e : Env) (f : Dev → Pkt → Dev) :
    onRun s e (fun d => d.onPkt ops q tag f) = .next { s with dev := (f s.dev p).flushRegs e } :=
  (onRun_on s e _ h.up).trans (next_congr s (by rw [Dev.onPkt_runs h ops f hc]))

/-- The same where the outside of the module acts first. -/
theorem onRun_pkt_in {ops : List Nat} (hc : c ∈ ops) (e : Env) (pre : Dev → Dev) (hdisp : (pre s.dev).disp = s.dev.disp)
    (hplain : c ∉ [0x31, 0x32, 0x33, 0x34, 0x36, 0x37]) (f : Dev → Pkt → Dev) :
    onRun s e (fun d => (pre d).onPkt ops q tag f) = .next { s with dev := (f (pre s.dev) p).flushRegs e } :=
  (onRun_on s e _ h.up).trans (next_congr s (by rw [Dev.onPkt_runs_in h hdisp (Dev.descTurn_of_plain _ h.opc hplain) hc f]))

end

/-- What a command meets outside changes memory and counters. -/
theorem Dev.meet_besideCounts (d : Dev) (e : Env) (o : Option Nat) : (d.meet e o).besideCounts = (d.applyEnv e).besideCounts :=
  foldl_leaves Dev.besideCounts (fun d (x : Nat × Nat) => d.count o 2 x.1 x.2) (fun d _ => d.count_besideCounts _ _ _ _) e.zf (d.applyEnv e)

@[simp] theorem Dev.meet_disp (d : Dev) (e : Env) (o : Option Nat) : (d.meet e o).disp = d.disp := congrArg (·.disp) (d.meet_besideCounts e o)

@[simp] theorem Dev.meet_canon (d : Dev) (e : Env) (o : Option Nat) (a : Nat) : (d.meet e o).canon a = d.canon a :=
  congrArg (·.canon a) (d.meet_besideCounts e o)

/-- A packet changed by a function that keeps its queue and tag. -/
theorem Dev.modPkt_pkt {d : Dev} {q : QRef} {tag : BitVec 16} {p : Pkt} (h : d.pkt? q tag = some p) {f : Pkt → Pkt}
    (hq : ∀ p, (f p).q = p.q) (ht : ∀ p, (f p).tag = p.tag) : (d.modPkt p.ord f).pkt? q tag = some (f p) := by
  unfold Dev.modPkt
  rw [Dev.mapPkts_pkt _ _ (fun x => by split <;> simp [hq]) (fun x => by split <;> simp [ht]), h]
  simp

/-- The end of a packet's effect, which may draw a RESULT that the specification leaves to the implementation. -/
theorem Dev.close_cases (d : Dev) (p : Pkt) (st : BitVec 16) (res : Nat) :
    (p.resultSaid st res = true ∧ d.close p st res = d.finish p.ord st res) ∨
      ∃ r, d.close p st res = { d.finish p.ord st r with free := d.free + 1 } := by
  unfold Dev.close
  split
  · next h => exact .inl ⟨h, rfl⟩
  · exact .inr ⟨_, rfl⟩

/-- The effect of a packet in flight is done with a STATUS. -/
theorem doneWith_close {d : Dev} {q : QRef} {tag : BitVec 16} {p y : Pkt} (h : d.pkt? q tag = some y) (hord : y.ord = p.ord) (st : BitVec 16) (res : Nat) :
    DoneWith (d.close p st res) q tag (thenSt st y.status) := by
  rcases d.close_cases p st res with ⟨-, heq⟩ | ⟨r, heq⟩
  · rw [heq, ← hord]
    exact ⟨_, d.finish_pkt q tag y h st _, rfl, rfl⟩
  · rw [heq, ← hord]
    exact ⟨_, d.finish_pkt q tag y h st _, rfl, rfl⟩

/-- The effect of a packet in flight is done with a STATUS and a RESULT. -/
theorem doneRes_finish {d : Dev} {q : QRef} {tag : BitVec 16} {y : Pkt} (h : d.pkt? q tag = some y) {ord : Nat} (hord : y.ord = ord)
    (st : BitVec 16) (res : Nat) : DoneRes (d.finish ord st res) q tag (thenSt st y.status) res := by
  rw [← hord]
  exact ⟨_, d.finish_pkt q tag y h st _, rfl, rfl, rfl⟩

/-- The end of a packet's effect is a matter of the Dispatcher and of the entropy drawn. -/
theorem Dev.close_beside (d : Dev) (p : Pkt) (st : BitVec 16) (res : Nat) :
    { d.close p st res with disp := d.disp, free := d.free } = d := by
  unfold Dev.close
  split <;> rfl

@[simp] theorem Dev.close_mem (d : Dev) (p : Pkt) (st : BitVec 16) (res : Nat) : (d.close p st res).mem = d.mem :=
  congrArg (·.mem) (d.close_beside p st res)

@[simp] theorem Dev.close_lnk (d : Dev) (p : Pkt) (st : BitVec 16) (res : Nat) : (d.close p st res).lnk = d.lnk :=
  congrArg (·.lnk) (d.close_beside p st res)

@[simp] theorem Dev.close_time (d : Dev) (p : Pkt) (st : BitVec 16) (res : Nat) : (d.close p st res).time = d.time :=
  congrArg (·.time) (d.close_beside p st res)

@[simp] theorem Dev.close_parts (d : Dev) (p : Pkt) (st : BitVec 16) (res : Nat) : (d.close p st res).parts = d.parts :=
  congrArg (·.parts) (d.close_beside p st res)

@[simp] theorem Dev.close_tlb (d : Dev) (p : Pkt) (st : BitVec 16) (res : Nat) : (d.close p st res).disp.tlb = d.disp.tlb := by
  unfold Dev.close
  split <;> rfl

/-! NOP, BARRIER and FLUSH (10 R226-R234). -/

/-- The slot of a dropped reservation holds none, and no other slot gains one. -/
theorem Dev.dropRsv_gran (d : Dev) (k j : Nat) : ((d.dropRsv k).kslot j).gran = if j = k then none else (d.kslot j).gran := by
  have hkpm (x : Dev) (o : Nat) (b : Bool) : (x.countRsv o b).kpm = x.kpm := by
    unfold Dev.countRsv
    split <;> rfl
  unfold Dev.dropRsv
  dsimp only
  split
  · next h =>
    split
    · next hj => rw [hj, h]
    · rfl
  · simp only [Dev.kslot, hkpm]
    split
    · next hj => rw [hj, tget_tset_same]
    · next hj => rw [tget_tset_other _ _ _ _ _ hj]

/-- A table entry that reads as other than the default has its key in the table. -/
theorem mem_keys_of_tget_ne {α : Type} {t : Tbl α} {k : Nat} {d : α} (h : tget t k d ≠ d) : k ∈ t.map Prod.fst := by
  induction t with
  | nil => exact absurd rfl h
  | cons x r ih =>
    obtain ⟨a, v⟩ := x
    by_cases ha : a = k
    · simp [ha]
    · have hr : tget r k d ≠ d := by simpa [tget, tget?, ha] using h
      simp [ih hr]

/-- Reservations dropped one after another. -/
theorem Dev.foldl_dropRsv_gran (l : List (Nat × KSlot)) : ∀ (d : Dev) (j : Nat), (j ∈ l.map Prod.fst ∨ (d.kslot j).gran = none) →
    ((l.foldl (fun d e => d.dropRsv e.1) d).kslot j).gran = none := by
  induction l with
  | nil =>
    intro d j h
    simpa using h
  | cons x r ih =>
    intro d j h
    refine ih _ j ?_
    rw [Dev.dropRsv_gran]
    by_cases hj : j = x.1
    · exact .inr (if_pos hj)
    · rw [if_neg hj]
      simpa [hj] using h

/-- With every reservation dropped, no slot has one (10 R234). -/
theorem Dev.breakAll_gran (d : Dev) (j : Nat) : ((d.breakAll).kslot j).gran = none := by
  refine Dev.foldl_dropRsv_gran _ d j ?_
  by_cases h : d.kslot j = {}
  · exact .inr (by rw [h])
  · exact .inl (mem_keys_of_tget_ne h)

theorem Dev.breakAll_beside (d : Dev) : d.breakAll.disp = d.disp ∧ d.breakAll.mem = d.mem := by
  have h := foldl_leaves (fun x : Dev => (x.disp, x.mem)) (fun (x : Dev) (e : Nat × KSlot) => x.dropRsv e.1)
    (fun x e => Prod.ext (congrArg (·.disp) (x.dropRsv_beside e.1)) (congrArg (·.mem) (x.dropRsv_beside e.1))) d.kpm.slots d
  exact Prod.ext_iff.1 h

/-- Settles O28: a barrier that completes breaks every reservation, and a packet that waits stays as it is. -/
theorem orderingPackets : Obligations.OrderingPackets := by
  intro s q tag p e
  refine ⟨fun h => ?_, fun h d y hd hy hord => ⟨fun hahead => ?_, fun hahead => ?_⟩, fun h => ⟨fun hpend => ?_, fun hpend => ?_⟩⟩
  · exact ⟨_, onRun_pkt h (List.mem_singleton.2 rfl) {} (fun d p => d.finish p.ord sOk 0), doneRes_finish h.here rfl _ _, rfl, rfl, rfl, rfl, rfl⟩
  · have hexec := onRun_pkt_in h (List.mem_singleton.2 rfl) e (fun d => d.applyEnv e) rfl (by decide) (fun d p => d.opBarrier p e)
    obtain ⟨hdisp, hmem⟩ := d.breakAll_beside
    have hop : (s.dev.applyEnv e).opBarrier p e = d.breakAll.finish p.ord sOk 0 := by
      unfold Dev.opBarrier
      rw [← hd]
      exact if_pos hahead
    refine ⟨_, hexec.trans (next_congr s (by rw [hop])), doneRes_finish ((Dev.pkt?_congr hdisp q tag).trans hy) hord _ _, hmem, d.breakAll_gran⟩
  · have hexec := onRun_pkt_in h (List.mem_singleton.2 rfl) e (fun d => d.applyEnv e) rfl (by decide) (fun d p => d.opBarrier p e)
    have hop : (s.dev.applyEnv e).opBarrier p e = d := by
      unfold Dev.opBarrier
      rw [← hd]
      exact if_neg (by simp [hahead])
    exact hexec.trans (next_congr s (by rw [hop]))
  · have hop : s.dev.opFlush p = s.dev.close p sOk 0 := if_neg (by rw [hpend]; exact Bool.false_ne_true)
    refine ⟨_, (onRun_pkt h (List.mem_singleton.2 rfl) {} Dev.opFlush).trans (next_congr s (by rw [hop])), doneWith_close h.here rfl _ _, by simp⟩
  · have hop : s.dev.opFlush p = s.dev := if_pos hpend
    exact (onRun_pkt h (List.mem_singleton.2 rfl) {} Dev.opFlush).trans (next_congr s (by rw [hop]))

/-! SIGNAL and WAIT (10 R232, 12 R269). -/

/-- SIGNAL on a word of this module, its queue's store buffers drained. -/
theorem Dev.opSignal_local {d : Dev} {p : Pkt} {e : Env} {a0 a : Nat} {l : Leaf} (hleaf : leafDpa p.leaves (p.f 1 47 0) = some (a0, l))
    (ha : d.canon a0 = a) (hloc : isLocal a = true) (hspace : dpaSpace a ≤ 2) (hwait : p.waitRid = 0) : d.opSignal p e =
      let x := d.drainQueue e p.q
      if x.writesPend (fun r o => r == p.q && o < p.ord) then x
      else
        let r := x.atomicAt (p.acc e) a (if bit (p.word 3) 0 then 0 else 1) true (p.word 2) 0
        if isExc r.2.1 then r.1.close p r.2.1 0
        else (Dev.conclude p { d := r.1, res := r.2.2, wrote := [(a, 8)] }).wakeWaits e a := by
  unfold Dev.opSignal
  rw [hleaf]
  dsimp only
  rw [ha, if_neg (by simp [hloc]), if_neg (by omega), if_neg (by simp [hwait])]
  simp only [hloc, if_true]

/-- A WAIT that reads its word: what it read is kept, and it completes where COND holds. -/
theorem Dev.pollWait_read {d : Dev} {p : Pkt} {e : Env} {a : Nat} {l : Leaf} {r : RdR} (hleaf : leafDpa p.leaves (p.f 1 47 0) = some (a, l))
    (hloc : isLocal (d.canon a) = true) (hr : r = d.readBytes { p.acc e with imm := l.imm } (d.canon a) 8) (hok : isExc r.st = false) :
    d.pollWait p e =
      let x := r.d.modPkt p.ord (fun x => { x with waitRid := 1, wanted := BitVec.ofNat 64 (leNat r.bytes) })
      if waitMet (p.f 3 1 0) (leNat r.bytes) (p.word 2) then x.finish p.ord sOk (leNat r.bytes) else x := by
  unfold Dev.pollWait
  rw [hleaf]
  dsimp only
  rw [if_neg (by simp [hloc]), ← hr]
  simp only [hok, Bool.false_eq_true, if_false]
  rfl

/-- WAIT_TIMEOUT of a WAIT that has read its word. -/
theorem Dev.expireWait_waiting {d : Dev} {p : Pkt} {t : Nat} (hopc : p.opc.toNat = 0x03) (hdead : p.deadline = some t) (hwait : p.waitRid ≠ 0) :
    d.expireWait p = (d.advTo t).finish p.ord sTimeout p.wanted.toNat := by
  have hopc' : p.opc = 0x03#8 := BitVec.eq_of_toNat_eq hopc
  have hsaid : p.resultSaid sTimeout p.wanted.toNat = true := by simp [Pkt.resultSaid, hopc', hwait]
  unfold Dev.expireWait
  rw [hdead]
  simp only [if_neg hwait, Dev.close, hsaid, if_true]

@[simp] theorem Dev.advTo_disp (d : Dev) (t : Nat) : (d.advTo t).disp = d.disp := by
  unfold Dev.advTo
  split <;> rfl

/-- Settles O30: SIGNAL is one atomic access once its queue has drained, and WAIT is done where what it read meets COND. -/
theorem signalAndWait : Obligations.SignalAndWait := by
  refine ⟨fun s q tag p e a0 a l d h hleaf ha hloc hspace hwait hd => ?_, fun s q tag p e h => ⟨fun a l r hleaf hloc hr hok hdisp => ?_, fun t hdead hwait => ?_⟩⟩
  · have hexec := onRun_pkt_in h (List.mem_singleton.2 rfl) e (fun d => d.meet e (some (qOwner q))) (s.dev.meet_disp _ _) (by decide)
      (fun d p => d.opSignal p e)
    have hop := Dev.opSignal_local (d := s.dev.meet e (some (qOwner q))) (e := e) hleaf ((s.dev.meet_canon _ _ _).trans ha) hloc hspace hwait
    rw [← hd] at hop
    refine ⟨fun hpend => hexec.trans (next_congr s ?_), fun hpend r hr => ⟨fun hok => hexec.trans (next_congr s ?_), fun hexc => hexec.trans (next_congr s ?_)⟩⟩
    · rw [hop]
      simp only [hpend, if_true]
    · rw [hop]
      simp only [hpend, ← hr, hok, Bool.false_eq_true, if_false]
    · rw [hop]
      simp only [hpend, ← hr, hexc, Bool.false_eq_true, if_false, if_true]
  · have hop := Dev.pollWait_read hleaf hloc hr hok
    have hpkt : r.d.pkt? q tag = some p := (Dev.pkt?_congr hdisp q tag).trans h.here
    have hmod := Dev.modPkt_pkt hpkt (f := fun x => { x with waitRid := 1, wanted := BitVec.ofNat 64 (leNat r.bytes) }) (fun _ => rfl) (fun _ => rfl)
    refine ⟨fun hmet => ⟨?_, fun hwait => ?_⟩, fun hmet => ?_⟩
    · refine ⟨_, onRun_pkt_in h (List.mem_singleton.2 rfl) e (fun d => d.meet e (some (qOwner q))) (s.dev.meet_disp _ _) (by decide)
        (fun d p => d.pollWait p e), ?_⟩
      rw [hop]
      simp only [hmet, if_true]
      exact doneRes_finish hmod rfl _ _
    · refine ⟨_, onRun_pkt_in h (List.mem_singleton.2 rfl) e (fun d => d.meet e (some (qOwner q))) (s.dev.meet_disp _ _) (by decide)
        (fun d p => if p.waitRid = 0 then d else d.pollWait p e), ?_⟩
      rw [if_neg hwait, hop]
      simp only [hmet, if_true]
      exact doneRes_finish hmod rfl _ _
    · refine ⟨_, { p with waitRid := 1, wanted := BitVec.ofNat 64 (leNat r.bytes) }, onRun_pkt_in h (List.mem_singleton.2 rfl) e (fun d => d.meet e (some (qOwner q))) (s.dev.meet_disp _ _) (by decide)
        (fun d p => d.pollWait p e), ?_, h.started, rfl⟩
      rw [hop]
      simp only [hmet, Bool.false_eq_true, if_false]
      exact hmod
  · have hop := Dev.expireWait_waiting (d := s.dev) h.opc hdead hwait
    refine ⟨_, (onRun_pkt h (List.mem_singleton.2 rfl) {} (fun d p => d.expireWait p)).trans (next_congr s (by rw [hop])), ?_, fun hrun hbase ht => ?_⟩
    · exact doneRes_finish ((Dev.pkt?_congr (s.dev.advTo_disp t) q tag).trans h.here) rfl _ _
    · exact Dev.le_advTo_base hrun hbase ht

/-! INVALIDATE (09 R207). -/

/-- A cached translation of owner o and context k overlaps the range from lo up to hi. -/
def tlbHit (o k lo hi : Nat) (t : Tlb) : Bool := t.owner == o && t.ctx == k && decide (t.dva < hi) && decide (lo < t.dva + t.size)

/-- The translations that overlap a range dropped, and what the Remote Line Caches hold under them. -/
def Dev.dropTranslations (d : Dev) (o k lo hi : Nat) : Dev :=
  (d.disp.tlb.filter (tlbHit o k lo hi)).foldl (fun d t => d.purgeRange (t.dpa + ((cutTo t.dva t.size lo hi).1 - t.dva)) (cutTo t.dva t.size lo hi).2)
    { d with disp := { d.disp with tlb := d.disp.tlb.filter (fun t => !tlbHit o k lo hi t) } }

/-- Beside the Remote Line Caches, only the cached translations change. -/
theorem Dev.dropTranslations_fields (d : Dev) (o k lo hi : Nat) :
    (d.dropTranslations o k lo hi).disp = { d.disp with tlb := d.disp.tlb.filter (fun t => !tlbHit o k lo hi t) } ∧
      (d.dropTranslations o k lo hi).mem = d.mem := by
  have h := foldl_leaves (fun x : Dev => (x.disp, x.mem))
    (fun (x : Dev) (t : Tlb) => x.purgeRange (t.dpa + ((cutTo t.dva t.size lo hi).1 - t.dva)) (cutTo t.dva t.size lo hi).2) (fun _ _ => rfl)
    (d.disp.tlb.filter (tlbHit o k lo hi)) { d with disp := { d.disp with tlb := d.disp.tlb.filter (fun t => !tlbHit o k lo hi t) } }
  exact Prod.ext_iff.1 h

/-- The first INVALIDATE of a packet, with no other packet of the owner in flight: the translations are dropped, and it is done. -/
theorem Dev.opInvalidate_alone {d : Dev} {p : Pkt} {o : Nat} (hdead : p.deadline = none) (ho : o = (if bit (p.word 1) 7 then p.f 1 6 4 else p.owner))
    (halone : ∀ y ∈ d.disp.pkts, y.ord ≠ p.ord → y.owner ≠ o) :
    d.opInvalidate p = (d.dropTranslations o (p.f 1 3 0) (p.f 2 47 0) (p.f 2 47 0 + p.f 3 47 0)).close p sOk 0 := by
  subst ho
  unfold Dev.opInvalidate
  extract_lets o k lo hi hit limit sel purge r
  have hpurge : purge d = d.dropTranslations o k lo hi := rfl
  obtain ⟨hdisp, -⟩ := d.dropTranslations_fields o k lo hi
  have hsel (y : Pkt) (hy : y ∈ (d.dropTranslations o k lo hi).disp.pkts) : sel y = false := by
    rw [hdisp] at hy
    by_cases hord : y.ord = p.ord
    · simp [sel, hord]
    · have hown : (y.owner == o) = false := beq_eq_false_iff_ne.2 (halone y hy hord)
      simp [sel, holdsRange, hown]
  have hnone : (d.dropTranslations o k lo hi).disp.pkts.filter (fun p => p.phase == .taken && sel p) = [] := by
    rw [List.filter_eq_nil_iff]
    intro y hy
    simp [hsel y hy]
  have hr : r = (d.dropTranslations o k lo hi, 0) := by
    simp only [r, hdead, Option.isSome_none, Bool.false_eq_true, if_false, hpurge, Dev.unmapTaken, hnone, List.foldl_nil, List.length_nil]
  have hany : r.1.disp.pkts.any sel = false := by
    rw [hr, List.any_eq_false]
    exact fun y hy => by simp [hsel y hy]
  rw [if_neg (by simp [hany]), hr]
  rfl

/-- Settles O31: what stays cached is what does not overlap the range under the context. -/
theorem invalidateDropsTranslations : Obligations.InvalidateDropsTranslations := by
  intro s q tag p e o h hdead ho halone
  have hop := Dev.opInvalidate_alone (d := s.dev.applyEnv e) hdead ho halone
  obtain ⟨hdisp, hmem⟩ := (s.dev.applyEnv e).dropTranslations_fields o (p.f 1 3 0) (p.f 2 47 0) (p.f 2 47 0 + p.f 3 47 0)
  have hpkt : ((s.dev.applyEnv e).dropTranslations o (p.f 1 3 0) (p.f 2 47 0) (p.f 2 47 0 + p.f 3 47 0)).pkt? q tag = some p := by
    unfold Dev.pkt?
    rw [hdisp]
    exact h.here
  refine ⟨_, onRun_pkt_in h (List.mem_singleton.2 rfl) e (fun d => d.applyEnv e) rfl (by decide) Dev.opInvalidate, ?_⟩
  rw [hop]
  refine ⟨doneWith_close hpkt rfl _ _, ?_, ?_, by rw [Dev.close_mem, hmem]⟩
  · intro t ht hown hctx hlt hgt
    rw [Dev.close_tlb, hdisp] at ht
    have hmiss := (List.mem_filter.1 ht).2
    simp [tlbHit, hown, hctx, hlt, hgt] at hmiss
  · intro t ht hother
    rw [Dev.close_tlb, hdisp]
    refine List.mem_filter.2 ⟨ht, ?_⟩
    rcases hother with hne | hne <;> simp [tlbHit, hne]

/-! SET_VOP and ESC_REQUEST (12 R276, 17 R377). -/

/-- The end of the only change, which a SET_VOP that still runs asked for. -/
theorem Dev.vopDone_cmd {d : Dev} {n : Nat} {j : VopJob} {q : QRef} {tag : BitVec 16} {p : Pkt} (hq : d.pwr.vopQ = [j]) (hsite : j.site = n)
    (hbegun : j.begun = true) (hcmd : j.cmd = some (q, tag)) (hpkt : d.pkt? q tag = some p) (hst : p.phase = .started) :
    d.vopDone n = ({ d with pwr := { d.pwr with
      rail := tset d.pwr.rail n j.vop, vopQ := [], busy := putBit d.pwr.busy n false } } : Dev).finish p.ord sOk j.before.toNat := by
  have hpkt' (w : Pwr) : ({ d with pwr := w } : Dev).pkt? q tag = some p := hpkt
  simp [Dev.vopDone, hq, hsite, hbegun, hcmd, hpkt', hst]

/-- Settles O33: a change asked for waits in the list of changes, and its end finds the packet that asked. -/
theorem vopAndEscapementPackets : Obligations.VopAndEscapementPackets := by
  intro s q tag p
  refine ⟨fun h hwait => ?_, fun n j h hq hsite hbegun hcmd => ?_, fun h => ?_⟩
  · have hop : s.dev.opSetVop p = (s.dev.modPkt p.ord (fun x => { x with waitRid := 1 })).vopRequest (p.f 1 2 0) (BitVec.ofNat 3 (p.f 1 10 8)) (some (p.q, p.tag)) :=
      if_neg (by simp [hwait])
    refine ⟨_, {
      site := p.f 1 2 0, vop := BitVec.ofNat 3 (p.f 1 10 8), cmd := some (p.q, p.tag),
      begun := !s.dev.pwr.vopQ.any (fun j => j.site == p.f 1 2 0), before := tget s.dev.pwr.rail (p.f 1 2 0) 4 },
      (onRun_pkt h (List.mem_singleton.2 rfl) {} Dev.opSetVop).trans (next_congr s (congrArg (Dev.flushRegs · {}) hop)), rfl, rfl, rfl, rfl, ?_, rfl⟩
    exact tget_tset_same _ _ _ _
  · refine ⟨_, (onUp_on s (fun d => d.vopDone n.val) h.up).trans (next_congr s (Dev.vopDone_cmd hq hsite hbegun hcmd h.here h.started)), ?_, rfl, ?_⟩
    · exact doneRes_finish (d := { s.dev with pwr := _ }) h.here rfl _ _
    · exact tget_tset_same _ _ _ _
  · refine ⟨_, onRun_pkt h (List.mem_singleton.2 rfl) {} Dev.opEscRequest, ?_, ?_, ?_, ?_, fun n hn => ?_, rfl⟩
    · exact doneRes_finish (d := s.dev.hostReq _ _ _ _) h.here rfl _ _
    all_goals simp [Dev.opEscRequest, Dev.hostReq, Dev.finish, Dev.modPkt, Dev.mapPkts, Dev.dom, Dev.setDom, tget_tset_other, *]

end Sys2Proof.Machine
end


section
/-!
Queue registers, doorbells, the completion of packets, and events of queues (11 R239-R255).
-/
namespace Sys2Proof.Machine

@[simp] theorem Dev.queue_setQueue_same (d : Dev) (q : QRef) (x : Queue) : (d.setQueue q x).queue q = x := tget_tset_same _ _ _ _

theorem Dev.queue_setQueue_other (d : Dev) {q r : QRef} (h : qKey r ≠ qKey q) (x : Queue) : (d.setQueue q x).queue r = d.queue r :=
  tget_tset_other _ _ _ _ _ h

/-- A command of a function that may write a queue's registers. -/
theorem onHost_mayQueue {s : State} {fn : Fn} {q : QRef} (hok : s.dev.hostOk fn = true) (hmay : s.dev.hostTurn.mayQueue fn q = true) (e : Env)
    (f : Dev → Dev) : onHost s fn e (fun d => if d.mayQueue fn q then f d else d) = .next { s with dev := (f s.dev.hostTurn).flushRegs e } :=
  (onHost_ok s fn e _ hok).trans (next_congr s (by rw [if_pos hmay]))

/-- A write of Q_CTL with ENABLE and without ABORT, on a disabled queue. -/
theorem Dev.wrQctl_enable {d : Dev} {q : QRef} {v : Nat} (e : Env) (hen : bit v 0 = true) (hab : bit v 31 = false)
    (hdis : (d.queue q).enable = false) : d.wrQctl e q v =
      let x := { d.queue q with ctx := BitVec.ofNat 4 (bf v 4 1) }
      if d.enableCause q (d.queue q) = 0 then (d.setQueue q x).setQueue q { x with enable := true, st := 1, cause := 0 }
      else (d.setQueue q x).setQueue q { x with cause := BitVec.ofNat 3 (d.enableCause q (d.queue q)) } := by
  unfold Dev.wrQctl
  simp only [hen, hab, hdis, Bool.false_eq_true, if_false, if_true, Dev.queue_setQueue_same]
  rfl

/-- A write of Q_CTL with ENABLE and ABORT clear, on an enabled queue: it ends cleared. -/
theorem Dev.wrQctl_disable {d : Dev} {q : QRef} {v : Nat} (e : Env) (hen : bit v 0 = false) (hab : bit v 31 = false)
    (hena : (d.queue q).enable = true) : ∃ x : Queue, (d.wrQctl e q v).queue q = x.cleared := by
  unfold Dev.wrQctl
  simp only [hen, hab, Bool.false_eq_true, if_false]
  unfold Dev.disableQueue
  rw [if_pos (by rw [Dev.queue_setQueue_same]; exact hena)]
  exact ⟨_, Dev.queue_setQueue_same _ _ _⟩

/-- A write of Q_IRQ with a vector of the function (11 R245). -/
theorem Dev.wrQirq_ok {d : Dev} {q : QRef} {v : Nat} (hvec : v / 2 % 128 ≤ (if qOwner q = 8 then 16 else 64)) : d.wrQirq q v =
    d.setQueue q { d.queue q with
      irqEn := bit v 0, irqVec := BitVec.ofNat 7 (bf v 7 1), irqCount := BitVec.ofNat 8 (bf v 15 8), irqTime := BitVec.ofNat 16 (bf v 31 16) } := by
  have hvec' : ¬ (if qOwner q == 8 then 16 else 64) < bf v 7 1 := by simpa [bf_eq] using hvec
  unfold Dev.wrQirq
  exact if_neg hvec'

/-- A write of Q_IRQ with a vector beyond the function's is ignored. -/
theorem Dev.wrQirq_ignored {d : Dev} {q : QRef} {v : Nat} (hvec : (if qOwner q = 8 then 16 else 64) < v / 2 % 128) : d.wrQirq q v = d := by
  have hvec' : (if qOwner q == 8 then 16 else 64) < bf v 7 1 := by simpa [bf_eq] using hvec
  unfold Dev.wrQirq
  exact if_pos hvec'

/-- Bits of a register value with bit 0 set. -/
theorem bit_or_one (v i : Nat) : bit (v ||| 1) i = (bit v i || decide (i = 0)) := by
  cases i with
  | zero => simp [bit]
  | succ i => simp [bit, Nat.testBit_or, Nat.testBit_succ 1]

/-- Bits of a register value. -/
theorem bit_toNat {w : Nat} (v : BitVec w) (i : Nat) : bit v.toNat i = v.getLsbD i := rfl

/-- Bits of a register value with bit 0 clear. -/
theorem bit_half_double (v i : Nat) : bit (v / 2 * 2) i = (bit v i && decide (i ≠ 0)) := by
  cases i with
  | zero => simp [bit]
  | succ i => simp [bit, Nat.testBit_succ]

/-- Settles O34: the checks do not depend on the queue's state, and what a disabled queue was is cleared last. -/
theorem queueControl : Obligations.QueueControl := by
  rintro s fn q v t hok rfl hmay
  refine ⟨fun hab hdis => ⟨fun hcause => ?_, fun hcause => ?_⟩, fun e hab hena => ?_, fun hvec => ?_, fun hvec => ?_⟩
  · have heq := Dev.wrQctl_enable (v := v.toNat ||| 1) {} (by simp [bit_or_one]) (by rw [bit_or_one, bit_toNat, hab]; rfl) hdis
    simp only [hcause, if_true] at heq
    refine ⟨_, (onHost_mayQueue hok hmay {} (fun d => d.wrQctl {} q (v.toNat ||| 1))).trans (next_congr s (by rw [heq])), ?_⟩
    rw [Dev.queue_setQueue_same]
    exact ⟨rfl, rfl, rfl, rfl, rfl, fun r hr => by rw [Dev.queue_setQueue_other _ hr, Dev.queue_setQueue_other _ hr]⟩
  · have heq := Dev.wrQctl_enable (v := v.toNat ||| 1) {} (by simp [bit_or_one]) (by rw [bit_or_one, bit_toNat, hab]; rfl) hdis
    simp only [hcause, if_false] at heq
    refine ⟨_, (onHost_mayQueue hok hmay {} (fun d => d.wrQctl {} q (v.toNat ||| 1))).trans (next_congr s (by rw [heq])), ?_⟩
    rw [Dev.queue_setQueue_same]
    exact ⟨hdis, rfl⟩
  · obtain ⟨x, hx⟩ := Dev.wrQctl_disable (d := s.dev.hostTurn.applyEnv e) (v := v.toNat / 2 * 2) e (by simp [bit_half_double])
      (by rw [bit_half_double, bit_toNat, hab]; rfl) hena
    refine ⟨_, onHost_mayQueue hok hmay e (fun d => (d.applyEnv e).wrQctl e q (v.toNat / 2 * 2)), ?_⟩
    rw [hx]
    exact ⟨rfl, rfl, rfl, rfl, rfl, rfl, rfl⟩
  · have hlt := v.isLt
    refine ⟨_, (onHost_mayQueue hok hmay {} (fun d => d.wrQirq q v.toNat)).trans (next_congr s (by rw [Dev.wrQirq_ok hvec])), ?_⟩
    rw [Dev.queue_setQueue_same]
    refine ⟨rfl, ?_, ?_, ?_⟩ <;> (simp only [bf_eq, BitVec.toNat_ofNat]; omega)
  · exact (onHost_mayQueue hok hmay {} (fun d => d.wrQirq q v.toNat)).trans (next_congr s (by rw [Dev.wrQirq_ignored hvec]))

/-! Doorbells (11 R242). -/

/-- A doorbell of a function that may ring it. -/
theorem onHost_doorbell {s : State} {fn : Fn} {page : Fin 64} {q : QRef} (hok : s.dev.hostOk fn = true) (hpage : doorbellQueue fn page = some q)
    (hex : s.dev.hostTurn.queueExists q = true) (e : Env) (f : Dev → QRef → Dev) :
    onHost s fn e (fun d => match doorbellQueue fn page with
      | some q => if d.queueExists q then f d q else d
      | none => d) = .next { s with dev := (f s.dev.hostTurn q).flushRegs e } :=
  (onHost_ok s fn e _ hok).trans (next_congr s (by rw [hpage]; exact congrArg (Dev.flushRegs · e) (if_pos hex)))

/-- Settles O35: a doorbell that is not ignored is one field of its queue, or the ring's new packets. -/
theorem doorbells : Obligations.Doorbells := by
  rintro s fn page q bits v e t u hok hpage rfl hu hex
  have hcq (b : Nat) := onHost_doorbell hok hpage hex {} (fun d q => d.ringHead q b (v.toNat % 65536))
  have hsq (b : Nat) := onHost_doorbell hok hpage hex e (fun d q => (d.applyEnv e).ringTail e q b (v.toNat % 65536))
  have hval : BitVec.ofNat 16 (v.toNat % 65536) = v.setWidth 16 := BitVec.eq_of_toNat_eq (by simp)
  have hbad {bits size x : Nat} {en : Bool} (h : bits ≠ 32 ∨ en = false ∨ size ≤ x) : (bits != 32 || decide (size ≤ x) || !en) = true := by
    rcases h with h | h | h <;> simp [h]
  have hgood {size x : Nat} {en : Bool} (hen : en = true) (h : x < size) : ¬ ((32 != 32 || decide (size ≤ x) || !en) = true) := by
    simp [hen, h]
  refine ⟨fun h => ⟨_, hcq bits, ?_⟩, fun h => ⟨_, hsq bits, ?_⟩, fun hen hlt => ⟨_, hcq 32, ?_⟩, fun hen hlt hab => ⟨_, hsq 32, ?_⟩, fun hen hlt hab => ?_⟩
  · unfold Dev.ringHead
    rw [if_pos (hbad h)]
    exact ⟨Dev.queue_setQueue_same _ _ _, rfl⟩
  · unfold Dev.ringTail
    rw [← hu]
    dsimp only
    rw [if_pos (hbad h)]
    exact ⟨Dev.queue_setQueue_same _ _ _, rfl⟩
  · unfold Dev.ringHead
    rw [if_neg (hgood hen hlt), hval]
    exact ⟨Dev.queue_setQueue_same _ _ _, rfl⟩
  · unfold Dev.ringTail
    rw [← hu]
    dsimp only
    rw [if_neg (hgood hen hlt), if_pos hab, hval]
    exact ⟨Dev.queue_setQueue_same _ _ _, rfl⟩
  · refine (hsq 32).trans (next_congr s ?_)
    unfold Dev.ringTail
    rw [← hu]
    dsimp only
    rw [if_neg (hgood hen hlt), if_neg (by simp [hab])]
    unfold Dev.applyTail
    rw [hval]

/-! The completion of packets (11 R249-R252). -/

/-- A packet found under a queue and a tag has them. -/
theorem Dev.pkt?_q {d : Dev} {q : QRef} {tag : BitVec 16} {p : Pkt} (h : d.pkt? q tag = some p) : p.q = q ∧ p.tag = tag := by
  have hp := List.find?_some h
  simpa using hp

/-- An entry signalled to a queue: its tail and its window stand. -/
theorem Dev.signalEntry_queue (d : Dev) (q : QRef) (irq : Bool) :
    ((d.signalEntry q irq).queue q).cqTail = (d.queue q).cqTail ∧ ((d.signalEntry q irq).queue q).window = (d.queue q).window ∧
      (d.signalEntry q irq).mem = d.mem ∧ (d.signalEntry q irq).disp = d.disp := by
  unfold Dev.signalEntry
  dsimp only
  split
  · refine ⟨?_, ?_, rfl, rfl⟩ <;> simp only [Dev.queue, Dev.emit, Dev.setQueue_fields, tget_tset_same]
  · refine ⟨?_, ?_, rfl, rfl⟩ <;> simp only [Dev.queue, Dev.setQueue_fields, tget_tset_same]

/-- An entry of the completion ring (11 R243, R249): it is written, the tail moves, and the window stands. -/
theorem Dev.writeEntry_queue (d : Dev) (e : Env) (n : Nat) (q : QRef) (tag st : BitVec 16) (res : BitVec 64) (irq : Bool) (w : WrR)
    (hw : w = d.writeBytes { owner := some (qOwner q), env := e } ((d.queue q).cqBase.toNat + 16 * (d.queue q).cqTail.toNat)
      (statusEntry tag st (d.stampOn e n) res)) :
    ((d.writeEntry e n q tag st res irq).queue q).cqTail = BitVec.ofNat 16 (((d.queue q).cqTail.toNat + 1) % (d.queue q).cqSize) ∧
      ((d.writeEntry e n q tag st res irq).queue q).window = (d.queue q).window ∧
      (d.writeEntry e n q tag st res irq).mem =
        (w.d.awaitHeld e (fun h => overlaps h.addr h.bytes.length (w.d.canon ((d.queue q).cqBase.toNat + 16 * (d.queue q).cqTail.toNat)) 16)).mem := by
  have hstep := (d.writeBytes_data { owner := some (qOwner q), env := e } ((d.queue q).cqBase.toNat + 16 * (d.queue q).cqTail.toNat)
    (statusEntry tag st (d.stampOn e n) res)).trans ((Dev.awaitHeld_data _ e
      (fun h => overlaps h.addr h.bytes.length (w.d.canon ((d.queue q).cqBase.toNat + 16 * (d.queue q).cqTail.toNat)) 16)))
  rw [← hw] at hstep
  have hqueue := hstep.kept.queues q
  unfold Dev.writeEntry
  extract_lets a r x y z
  have hr : r = w := hw.symm
  clear_value r
  subst hr
  have hx : x.queue q = y := rfl
  change y = _ at hqueue
  obtain ⟨htail, hwin, hmem, -⟩ := z.signalEntry_queue q irq
  have hz : z.queue q = { y with cqTail := BitVec.ofNat 16 ((y.cqTail.toNat + 1) % y.cqSize), lastDone := tag } := Dev.queue_setQueue_same _ _ _
  refine ⟨htail.trans ?_, hwin.trans ?_, hmem⟩
  · rw [hz, hqueue]
    rfl
  · rw [hz, hqueue]

/-- A packet entered in the window of its queue. -/
theorem Dev.enterWindow_queue (d : Dev) (p : Pkt) : (d.enterWindow p).queue p.q = { d.queue p.q with
    window := (({ tag := p.tag, opc := p.opc, status := p.status, result := p.result } : WinEntry) :: (d.queue p.q).window).take 256 } :=
  Dev.queue_setQueue_same _ _ _

/-- Counters are no matter of queues and memory. -/
theorem Dev.count_queue (d : Dev) (o : Option Nat) (g i n : Nat) (q : QRef) : (d.count o g i n).queue q = d.queue q ∧ (d.count o g i n).mem = d.mem :=
  ⟨congrArg (·.queue q) (d.count_besideCounts o g i n), congrArg (·.mem) (d.count_besideCounts o g i n)⟩

/-- A packet that leaves: it is in flight no more, and its entry is written and in the window. -/
theorem Dev.retire_queue {d : Dev} (e : Env) {p : Pkt} (hhit : p.hit = false) (w : WrR)
    (hw : w = d.writeBytes { owner := some (qOwner p.q), env := e } ((d.queue p.q).cqBase.toNat + 16 * (d.queue p.q).cqTail.toNat)
      (statusEntry p.tag p.status (d.stampOn e p.die) p.result)) :
    (∀ z ∈ (d.retire e p).disp.pkts, z.ord ≠ p.ord) ∧
      ((d.retire e p).queue p.q).cqTail = BitVec.ofNat 16 (((d.queue p.q).cqTail.toNat + 1) % (d.queue p.q).cqSize) ∧
      ((d.retire e p).queue p.q).window = (({ tag := p.tag, opc := p.opc, status := p.status, result := p.result } : WinEntry) :: (d.queue p.q).window).take 256 ∧
      (d.retire e p).mem =
        (w.d.awaitHeld e (fun h => overlaps h.addr h.bytes.length (w.d.canon ((d.queue p.q).cqBase.toNat + 16 * (d.queue p.q).cqTail.toNat)) 16)).mem := by
  obtain ⟨htail, hwin, hmem⟩ := d.writeEntry_queue e p.die p.q p.tag p.status p.result (bit p.flg.toNat 2) w hw
  unfold Dev.retire
  extract_lets x y z
  change (x.queue p.q).cqTail = _ at htail
  change (x.queue p.q).window = _ at hwin
  change x.mem = _ at hmem
  clear_value x
  have hy : y = x.enterWindow p := if_neg (by simp [hhit])
  have hq : z.queue p.q = y.queue p.q := (y.count_queue _ _ _ _ p.q).1
  have hm : z.mem = x.mem := (y.count_queue _ _ _ _ p.q).2.trans (by rw [hy]; rfl)
  have hyq : y.queue p.q = { x.queue p.q with
      window := (({ tag := p.tag, opc := p.opc, status := p.status, result := p.result } : WinEntry) :: (x.queue p.q).window).take 256 } := by
    rw [hy]
    exact x.enterWindow_queue p
  clear_value z y
  refine ⟨?_, ?_, ?_, hm.trans hmem⟩
  · intro a ha
    obtain ⟨b, hb, rfl⟩ := List.mem_map.1 ha
    have hne : b.ord ≠ p.ord := by simpa using (List.mem_filter.1 hb).2
    by_cases hdep : (b.depOrd == some p.ord) = true
    · rw [if_pos hdep]
      exact hne
    · rw [if_neg hdep]
      exact hne
  · show (z.queue p.q).cqTail = _
    rw [hq, hyq]
    exact htail
  · show (z.queue p.q).window = _
    rw [hq, hyq, ← hwin]

/-- What an operation on data leaves of a queue. -/
theorem kept_queue_fields {d x : Dev} (h : Kept d x) (q : QRef) : (x.queue q).cqBase = (d.queue q).cqBase ∧
    (x.queue q).cqTail = (d.queue q).cqTail ∧ (x.queue q).cqSize = (d.queue q).cqSize ∧ (x.queue q).window = (d.queue q).window := by
  have hq := h.queues q
  dsimp only at hq
  rw [hq]
  exact ⟨rfl, rfl, rfl, rfl⟩

/-- Settles O37: what ends before the packet leaves is data, so that its queue is the one the ring's entry is written to. -/
theorem packetCompletes : Obligations.PacketCompletes := by
  intro s q tag e p halive hpkt hphase htrig hfree
  have hexec : exec (.packetComplete q tag e) s = .next { s with dev := ((s.dev.applyEnv e).completePkt e q tag).flushRegs e } :=
    onRun_on s e (fun d => (d.applyEnv e).completePkt e q tag) halive
  have hpkt' : (s.dev.applyEnv e).pkt? q tag = some p := hpkt
  refine ⟨fun hfence hsent => hexec.trans (next_congr s ?_), fun d y w hready hd hy hhit hw => ?_⟩
  · unfold Dev.completePkt
    have hsent' : (s.dev.applyEnv e).sentWrites p.ord = true := hsent
    rw [hpkt']
    simp [hfence, hsent']
  · have hkept := ((s.dev.applyEnv e).settle_data e p).kept
    rw [← hd] at hkept
    obtain ⟨hyq, hytag⟩ := Dev.pkt?_q hy
    have hop : (s.dev.applyEnv e).completePkt e q tag = d.retire e y := by
      have hcond : (p.phase == .done && p.trig.isEmpty && ((s.dev.applyEnv e).queue q).cqFree != 0 &&
          !(bit p.flg.toNat 0 && (s.dev.applyEnv e).sentWrites p.ord)) = true := by
        have hsent : (s.dev.applyEnv e).sentWrites p.ord = s.dev.sentWrites p.ord := rfl
        have hq : (s.dev.applyEnv e).queue q = s.dev.queue q := rfl
        rw [hphase, htrig, hsent, hq]
        rcases hready with h | h <;> simp [h, hfree]
      unfold Dev.completePkt
      rw [hpkt']
      dsimp only
      rw [if_pos hcond, ← hd, hy]
    obtain ⟨hbase, htl, hsize, hwin⟩ : (d.queue q).cqBase = (s.dev.queue q).cqBase ∧ (d.queue q).cqTail = (s.dev.queue q).cqTail ∧
      (d.queue q).cqSize = (s.dev.queue q).cqSize ∧ (d.queue q).window = (s.dev.queue q).window := kept_queue_fields hkept q
    obtain ⟨hleft, htail, hwindow, hmem⟩ := Dev.retire_queue (d := d) e hhit w (by rw [hyq, hbase, htl]; exact hw)
    refine ⟨_, hexec.trans (next_congr s (by rw [hop])), hleft, ?_⟩
    rw [hyq] at htail hwindow hmem
    rw [htail, hwindow, hmem, hbase, htl, hsize, hwin]
    exact ⟨rfl, rfl, rfl⟩

/-! Events of queues (11 R239, R245). -/

/-- The time trigger of a queue whose vector is set, with an entry that waits for it. -/
theorem Dev.irqTime_due {d : Dev} {q : QRef} {t : Nat} (hold : (d.queue q).oldest = some t) (hen : (d.queue q).irqEn = true)
    (hvec : (d.queue q).irqVec ≠ 0#7) (htime : (d.queue q).irqTime ≠ 0#16) (hun : (d.queue q).unsig ≠ 0) : d.irqTime q =
      ((d.advTo (t + 1000 * (d.queue q).irqTime.toNat)).setQueue q { d.queue q with unsig := 0, oldest := none }).emit
        (.msix (ownerFn (qOwner q)) (d.queue q).irqVec.toNat) := by
  unfold Dev.irqTime
  simp only [hold]
  exact if_pos (by simp [hen, hvec, htime, hun])

@[simp] theorem Dev.advTo_out (d : Dev) (t : Nat) : (d.advTo t).out = d.out := by
  unfold Dev.advTo
  split <;> rfl

/-- Settles O38: both are one write of the queue's state. -/
theorem queueEvents : Obligations.QueueEvents := by
  intro s q halive
  refine ⟨fun t hold hen hvec htime hun => ?_, fun hen => ?_⟩
  · refine ⟨_, (onRun_on s {} (fun d => d.irqTime q) halive).trans (next_congr s (by rw [Dev.irqTime_due hold hen hvec htime hun])), ?_, ?_, ?_⟩
    · simp
    · exact congrArg Queue.unsig (Dev.queue_setQueue_same _ _ _)
    · exact congrArg Queue.oldest (Dev.queue_setQueue_same _ _ _)
  · refine ⟨s.dev.ringError q, (onRun_on s {} (fun d => if (d.queue q).enable then d.ringError q else d) halive).trans (next_congr s (by rw [if_pos hen])), ?_⟩
    unfold Dev.ringError
    rw [Dev.queue_setQueue_same]
    exact ⟨rfl, rfl, hen⟩

end Sys2Proof.Machine
end


section
/-!
The steps of ABORT and the ABORT of a queue's register (11 R254-R256).
-/
namespace Sys2Proof.Machine

/-- An ABORT found under a queue and a tag has them. -/
theorem Dev.abortOf_q {d : Dev} {q : QRef} {tag : BitVec 16} {j : AbortJob} (h : d.abortOf q tag = some j) : j.q = some q ∧ j.tag = tag := by
  have hj := List.find?_some h
  simpa using hj

/-- With no unit that has not come to rest, none is reset. -/
theorem Dev.forceAll_nil (d : Dev) (e : Env) (start : Nat) : d.forceAll e start [] = (d, 0) := by
  unfold Dev.forceAll
  have hnil : d.disp.pkts.filter (fun p => [].contains p.ord && p.phase != .done) = [] := by simp
  simp only [hnil, List.isEmpty_nil, if_true]

/-- Mixing of the bytes of packets: with nothing to mix, none. -/
theorem Dev.applyMix_nil (d : Dev) (e : Env) (hit : List Pkt) : d.applyMix e hit [] = d := rfl

/-- A packet on no core drains no store buffer. -/
theorem Dev.drainPkt_off (d : Dev) (e : Env) {p : Pkt} (hon : p.on = []) (hcore : p.core = none) : d.drainPkt e p = d := by
  unfold Dev.drainPkt
  rw [hon, hcore]
  rfl

/-- With no request outstanding, nothing is given up. -/
theorem Dev.abandon_none {d : Dev} (h : d.lnk.rids = []) (hit : QRef → BitVec 16 → Bool) : d.abandon hit = d := by
  simp [Dev.abandon, h]

/-- A GEMM that is reset, with no request and no KPM slot of its own: its units are idle and it ends (11 R256). -/
theorem Dev.forcePkt_gemm {d : Dev} (e : Env) {p : Pkt} (hopc : p.opc = 0x10#8) (hrids : d.lnk.rids = []) (hslot : d.slotFor p.q p.tag = none) :
    d.forcePkt e p = ({ d.dropPrt p with
      units := d.units.filter (fun u => !p.on.contains (u.1 / 6)),
      disp := { d.disp with sends := d.disp.sends.filter (fun x => !(x.q == p.q && x.tag == p.tag)) } } : Dev).close p sAbortForced 0 := by
  have hslot' : (d.dropPrt p).slotFor p.q p.tag = none := hslot
  unfold Dev.forcePkt
  rw [Dev.abandon_none hrids]
  simp only [hslot', Pkt.isDma, hopc]
  rfl

/-- Time that passes is a matter of the timebase, which reaches n where it runs. -/
theorem Dev.advTo_eq (d : Dev) (n : Nat) : ∃ t : TimeB, d.advTo n = { d with time := t } ∧
    (d.time.running = true → d.time.base < 2 ^ 64 → n < 2 ^ 64 → t.running = true ∧ n ≤ t.base ∧ t.base < 2 ^ 64) := by
  refine ⟨(d.advTo n).time, ?_, fun hrun hbase hn => ⟨?_, Dev.le_advTo_base hrun hbase hn, ?_⟩⟩
  · unfold Dev.advTo
    split <;> rfl
  · simp [Dev.advTo, hrun]
  · rw [Dev.advTo, if_pos hrun]
    exact Nat.mod_lt _ (by omega)

/-- One unit that has not come to rest, of a GEMM on no core: its packet ends and is counted. -/
theorem Dev.forceAll_gemm {d : Dev} {e : Env} {p : Pkt} (start : Nat) (hpkts : d.disp.pkts = [p]) (hphase : p.phase = .started)
    (hopc : p.opc = 0x10#8) (hon : p.on = []) (hcore : p.core = none) (hmix : e.ab.mix = []) (hrids : d.lnk.rids = [])
    (hslot : d.slotFor p.q p.tag = none) :
    d.forceAll e start [p.ord] = ((({ (d.advTo (start + 300000)).dropPrt p with
      units := d.units.filter (fun u => !p.on.contains (u.1 / 6)),
      disp := { d.disp with sends := d.disp.sends.filter (fun x => !(x.q == p.q && x.tag == p.tag)) } } : Dev).close p sAbortForced 0).countAborted p.q 1, 1) := by
  obtain ⟨t, ht, -⟩ := d.advTo_eq (start + 300000)
  have hforce := Dev.forcePkt_gemm (d := d.advTo (start + 300000)) e hopc (by rw [ht]; exact hrids) (by rw [ht]; exact hslot)
  unfold Dev.forceAll
  have hl : d.disp.pkts.filter (fun x => [p.ord].contains x.ord && x.phase != .done) = [p] := by simp [hpkts, hphase]
  simp only [hl, List.isEmpty_cons, Bool.false_eq_true, if_false, hmix, Dev.applyMix_nil, List.foldl_cons, List.foldl_nil, List.length_singleton]
  rw [hforce, Dev.drainPkt_off _ _ hon hcore, ht]

/-- A count of cancelled packets is a matter of the queue. -/
theorem Dev.countAborted_one (d : Dev) (q : QRef) :
    d.countAborted q 1 = d.setQueue q { d.queue q with aborted := satAdd (d.queue q).aborted 1 } := rfl

/-- Queues are found in their table. -/
@[simp] theorem Dev.close_queue (d : Dev) (p : Pkt) (st : BitVec 16) (res : Nat) (q : QRef) : (d.close p st res).queue q = d.queue q :=
  congrArg (·.queue q) (d.close_beside p st res)

@[simp] theorem Dev.close_aborts (d : Dev) (p : Pkt) (st : BitVec 16) (res : Nat) : (d.close p st res).disp.aborts = d.disp.aborts := by
  unfold Dev.close
  split <;> rfl

/-- The tails of a queue that no ABORT covers, with none held: at most its state changes. -/
theorem Dev.releaseTails_one {d : Dev} {q : QRef} (hheld : (d.queue q).heldTail = none) :
    ((d.releaseTails [q]).queue q).lastAbort = (d.queue q).lastAbort ∧ (d.releaseTails [q]).disp = d.disp := by
  have hrun : ((d.setRunning [q] 2 1).queue q).lastAbort = (d.queue q).lastAbort ∧ ((d.setRunning [q] 2 1).queue q).heldTail = none ∧
      (d.setRunning [q] 2 1).disp = d.disp := by
    unfold Dev.setRunning
    rw [List.foldl_cons, List.foldl_nil]
    dsimp only
    split
    · rw [Dev.queue_setQueue_same]
      exact ⟨rfl, hheld, rfl⟩
    · exact ⟨rfl, hheld, rfl⟩
  obtain ⟨hlast, hnone, hdisp⟩ := hrun
  unfold Dev.releaseTails
  rw [List.foldl_cons, List.foldl_nil]
  split
  · exact ⟨rfl, rfl⟩
  · simp only [hnone]
    exact ⟨hlast, hdisp⟩

/-- Settles O39: with nothing stuck nothing is reset, one stuck GEMM is closed and counted, and the job of a register leaves its result in the
queue. -/
theorem abortSteps : Obligations.AbortSteps := by
  intro s q tag e a j halive hj
  obtain ⟨hjq, hjtag⟩ := Dev.abortOf_q hj
  have hforce : exec (.abortResetTimeout q tag e) s = .next { s with dev := (if j.acted then (s.dev.applyEnv e).forceAbort e j else s.dev).flushRegs e } :=
    (onRun_on s e (fun d => match d.abortOf q tag with
      | some j => if j.acted then (d.applyEnv e).forceAbort e j else d
      | none => d) halive).trans (next_congr s (by rw [hj]))
  refine ⟨fun hacted lim r hlim hr => ?_, fun hacted hstuck => ?_, fun p hacted hpkts hstuck hphase hopc hon hcore hmix hslot hrids => ?_,
    fun hacted hreg hkind halone htarget hheld => ?_⟩
  · refine (onRun_on s e (fun d => match d.abortOf q tag with
      | some j => (d.applyEnv e).actAbort e a j
      | none => d) halive).trans (next_congr s ?_)
    simp only [hj]
    unfold Dev.actAbort
    rw [if_neg (by simp [hacted]), hjq]
    dsimp only
    rw [← hlim, ← hr]
  · refine ⟨_, hforce.trans (next_congr s (by rw [if_pos hacted])), ?_⟩
    unfold Dev.forceAbort
    rw [hstuck, Dev.forceAll_nil]
    have hsame : ({ j with stuck := [], cancelled := j.cancelled + 0, resets := j.resets + 0 } : AbortJob) = j := by
      rw [← hstuck]
      rfl
    obtain ⟨hdisp, hqueues⟩ : ((s.dev.applyEnv e).advTo (j.start + 300000)).disp = s.dev.disp ∧
        ((s.dev.applyEnv e).advTo (j.start + 300000)).queues = s.dev.queues := by
      unfold Dev.advTo
      split <;> exact ⟨rfl, rfl⟩
    dsimp only
    rw [hsame]
    refine ⟨?_, hqueues, by simp only [Dev.setAbort, hdisp]⟩
    show ((s.dev.applyEnv e).advTo (j.start + 300000)).disp.pkts = _
    rw [hdisp]
  · obtain ⟨t, ht, hbase⟩ := (s.dev.applyEnv e).advTo_eq (j.start + 300000)
    have hall := Dev.forceAll_gemm (d := { s.dev.applyEnv e with time := t }) (e := e) j.start hpkts hphase hopc hon hcore hmix hrids hslot
    obtain ⟨t', ht', hbase'⟩ := Dev.advTo_eq { s.dev.applyEnv e with time := t } (j.start + 300000)
    rw [ht'] at hall
    obtain ⟨y, hy, hop⟩ : ∃ y : Dev, y = { ({ s.dev.applyEnv e with time := t' } : Dev).dropPrt p with
          units := s.dev.units.filter (fun u => !p.on.contains (u.1 / 6)),
          disp := { s.dev.disp with sends := s.dev.disp.sends.filter (fun x => !(x.q == p.q && x.tag == p.tag)) } } ∧
        (s.dev.applyEnv e).forceAbort e j = ((y.close p sAbortForced 0).countAborted p.q 1).setAbort
          { j with stuck := [], cancelled := j.cancelled + 1, resets := j.resets + 1 } := by
      refine ⟨_, rfl, ?_⟩
      unfold Dev.forceAbort
      rw [hstuck, ht, hall]
      rfl
    refine ⟨_, hforce.trans (next_congr s (by rw [if_pos hacted, hop])), ?_⟩
    have hpkt : y.pkt? p.q p.tag = some p := by
      have hl : y.disp.pkts = [p] := by rw [hy]; exact hpkts
      simp [Dev.pkt?, hl]
    have hthen : thenSt sAbortForced p.status = sAbortForced := if_pos (by decide)
    refine ⟨?_, ?_, fun hrun hb hs => ?_, ?_⟩
    · exact hthen ▸ doneWith_close hpkt rfl sAbortForced 0
    · show (((y.close p sAbortForced 0).countAborted p.q 1).queue p.q).aborted = _
      rw [Dev.countAborted_one, Dev.queue_setQueue_same, Dev.close_queue, hy]
      rfl
    · obtain ⟨hrun', -, hlt⟩ := hbase hrun (show s.dev.time.base < 2 ^ 64 by omega) (by omega)
      obtain ⟨-, hle, -⟩ := hbase' hrun' hlt (by omega)
      show _ ≤ (y.close p sAbortForced 0).time.base
      rw [Dev.close_time, hy]
      exact hle
    · show ((y.close p sAbortForced 0).disp.aborts).map _ = _
      rw [Dev.close_aborts, hy]
  · have hdone : (s.dev.applyEnv e).abortDone j = true := by
      have hnone : s.dev.disp.pkts.any (fun p => j.target.contains p.q) = false := by
        rw [List.any_eq_false]
        intro y hy
        simpa [htarget] using halone y hy
      simp only [Dev.abortDone, hacted, Bool.true_and, Bool.not_eq_true']
      exact hnone
    have hend : (s.dev.applyEnv e).endAbort e j = (s.dev.applyEnv e).reportAbort e j q := by
      unfold Dev.endAbort
      rw [hjq]
      exact if_neg (by simp [hkind, hdone, hreg])
    refine ⟨(s.dev.applyEnv e).reportAbort e j q, (onRun_on s e (fun d => match d.abortOf q tag with
      | some j => (d.applyEnv e).endAbort e j
      | none => d) halive).trans (next_congr s (by rw [hj]; exact congrArg (Dev.flushRegs · e) hend)), ?_⟩
    have hrep : (s.dev.applyEnv e).reportAbort e j q = (((s.dev.applyEnv e).dropAbort j).setQueue q
        { ((s.dev.applyEnv e).dropAbort j).queue q with lastAbort := if j.resets = 0 then 1 else 2 }).releaseTails [q] := by
      unfold Dev.reportAbort
      dsimp only
      rw [if_pos hreg, htarget]
    rw [hrep]
    generalize hx : ((s.dev.applyEnv e).dropAbort j).setQueue q
      { ((s.dev.applyEnv e).dropAbort j).queue q with lastAbort := if j.resets = 0 then 1 else 2 } = x
    have hxq : x.queue q = { s.dev.queue q with lastAbort := if j.resets = 0 then 1 else 2 } := by
      rw [← hx, Dev.queue_setQueue_same]
      rfl
    obtain ⟨hlast, hdisp⟩ := Dev.releaseTails_one (d := x) (q := q) (by rw [hxq]; exact hheld)
    refine ⟨hlast.trans (by rw [hxq]; rfl), fun y hy => ?_⟩
    rw [hdisp, ← hx] at hy
    have hne := (List.mem_filter.1 hy).2
    rintro ⟨h1, h2, h3⟩
    simp [h1, h2, h3, hjq, hjtag, hreg] at hne

/-! The ABORT of a queue's register (11 R254). -/

/-- The slots passed over are a matter of the ring's head. -/
theorem Queue.skipSlots_state (n : Nat) : ∀ x : Queue, (Queue.skipSlots n x).enable = x.enable ∧ (Queue.skipSlots n x).st = x.st ∧
    (Queue.skipSlots n x).lastAbort = x.lastAbort := by
  induction n with
  | zero => exact fun x => ⟨rfl, rfl, rfl⟩
  | succ n ih =>
    intro x
    unfold Queue.skipSlots
    split
    · exact ih _
    · exact ⟨rfl, rfl, rfl⟩

/-- The ring of a queue with nothing in it holds no packet to cancel. -/
theorem Dev.cancelRing_empty {d : Dev} {q : QRef} (st : BitVec 16) (hempty : (d.queue q).sqHead = (d.queue q).sqTail) :
    ∃ y : Queue, d.cancelRing q (d.queue q).sqTail.toNat st = (d.setQueue q y, 0) ∧ y.enable = (d.queue q).enable ∧ y.st = (d.queue q).st ∧
      y.lastAbort = (d.queue q).lastAbort := by
  have hring (n : Nat) : d.ringFrom (d.queue q) (n + 1) (d.queue q).sqHead.toNat (d.queue q).sqTail.toNat = [] := by
    unfold Dev.ringFrom
    rw [hempty, if_pos (by simp)]
  obtain ⟨hen, hst, hlast⟩ := Queue.skipSlots_state (d.queue q).skip.length
    { d.queue q with
      sqHead := BitVec.ofNat 16 ((d.queue q).sqTail.toNat % (d.queue q).sqSize),
      skip := Dev.liveSkips { d.queue q with sqHead := BitVec.ofNat 16 ((d.queue q).sqTail.toNat % (d.queue q).sqSize) }
        (BitVec.ofNat 16 ((d.queue q).sqTail.toNat % (d.queue q).sqSize)).toNat }
  refine ⟨_, ?_, hen, hst, hlast⟩
  unfold Dev.cancelRing
  dsimp only
  rw [if_neg (Nat.lt_irrefl _), hring]
  rfl

/-- With no packet in flight there is nothing to mix. -/
theorem Dev.applyMix_none (d : Dev) (e : Env) (mix : List (Nat × Byte)) : d.applyMix e [] mix = d := by
  induction mix with
  | nil => rfl
  | cons m r ih => exact ih

/-- An ABORT of one queue with nothing in flight and nothing in its ring cancels nothing. -/
theorem Dev.cancelScope_empty {d : Dev} {q : QRef} (e : Env) (a : AbortEnv) (st : BitVec 16) (hpkts : d.disp.pkts = [])
    (hempty : (d.queue q).sqHead = (d.queue q).sqTail) :
    ∃ y : Queue, d.cancelScope e a st [q] none = (d.setQueue q y, 0, []) ∧ y.enable = (d.queue q).enable ∧ y.st = (d.queue q).st ∧
      y.lastAbort = (d.queue q).lastAbort := by
  obtain ⟨y, hring, hy⟩ := Dev.cancelRing_empty st hempty
  refine ⟨y, ?_, hy⟩
  unfold Dev.cancelScope
  simp only [hpkts, List.filter_nil, Dev.applyMix_none, List.foldl_nil, List.foldl_cons, hring, List.length_nil, List.map_nil]
  rfl

/-- The job of an ABORT of a queue's register, as it starts. -/
def registerJob (q : QRef) (start : Nat) : AbortJob := { q := some q, reg := true, tag := 0, target := [q], start := start, kind := .register }

/-- A queue that runs aborts. -/
theorem Dev.setRunning_one {d : Dev} {q : QRef} {old : BitVec 2} (h : (d.queue q).st = old) (new : BitVec 2) :
    d.setRunning [q] old new = d.setQueue q { d.queue q with st := new } := by
  simp [Dev.setRunning, h]

/-- The ABORT of the register of a running queue with nothing in flight and nothing in its ring (11 R254). -/
theorem Dev.startQctlAbort_empty {d : Dev} {q : QRef} (e : Env) (hen : (d.queue q).enable = true) (hst : (d.queue q).st = 1#2)
    (hempty : (d.queue q).sqHead = (d.queue q).sqTail) (hpkts : d.disp.pkts = []) (hnone : d.abortOf q 0#16 = none) :
    ∃ y : Queue, y.enable = true ∧ y.st = 2#2 ∧ y.lastAbort = 3#2 ∧ (d.startQctlAbort e q).queue q = y ∧
      (d.startQctlAbort e q).disp.aborts = (d.disp.aborts ++ [registerJob q d.now]).map (fun x =>
        if x.q == some q && x.tag == 0 && x.reg == true then { registerJob q d.now with acted := true, cancelled := 0, stuck := [] } else x) := by
  unfold Dev.startQctlAbort
  rw [if_neg (by simp [hen]), if_neg (by rw [show d.abortOf q 0 = none from hnone]; exact Bool.false_ne_true)]
  extract_lets j src x disp y
  have hx : x.queue q = { d.queue q with lastAbort := 3 } := Dev.queue_setQueue_same _ _ _
  have hy : y = ({ x with disp := { x.disp with aborts := d.disp.aborts ++ [j] } } : Dev).setQueue q { x.queue q with st := 2 } :=
    Dev.setRunning_one (d := { x with disp := { x.disp with aborts := d.disp.aborts ++ [j] } }) (congrArg Queue.st hx |>.trans hst) 2
  have hyq : y.queue q = { x.queue q with st := 2 } := by rw [hy]; exact Dev.queue_setQueue_same _ _ _
  obtain ⟨z, hscope, hzen, hzst, hzlast⟩ := Dev.cancelScope_empty (d := y) (q := q) e e.ab sAborted (by rw [hy]; exact hpkts)
    (by rw [hyq, hx]; exact hempty)
  have hact : y.actAbort e e.ab j = (y.setQueue q z).setAbort { j with acted := true, cancelled := 0, stuck := [] } := by
    unfold Dev.actAbort
    rw [if_neg Bool.false_ne_true]
    show (let r := y.cancelScope e e.ab sAborted [q] none
      r.1.setAbort { j with acted := true, cancelled := r.2.1, stuck := r.2.2 }) = _
    rw [hscope]
  refine ⟨z, ?_, ?_, ?_, ?_, ?_⟩
  · rw [hzen, hyq, hx]
    exact hen
  · exact hzst.trans (by rw [hyq]; rfl)
  · exact hzlast.trans (by rw [hyq, hx]; rfl)
  · rw [hact]
    exact Dev.queue_setQueue_same _ _ _
  · rw [hact, hy]
    rfl

/-- The register's ABORT job is the one that is found, where the queue had none. -/
theorem find?_registerJob {l : List AbortJob} {q : QRef} {start : Nat} {j : AbortJob} (hj : (j.q == some q && j.tag == 0#16) = true)
    (hnone : l.find? (fun j => j.q == some q && j.tag == 0#16) = none) :
    ((l ++ [registerJob q start]).map (fun x => if x.q == some q && x.tag == 0 && x.reg == true then j else x)).find?
      (fun j => j.q == some q && j.tag == 0#16) = some j := by
  have hl : l.map (fun x => if x.q == some q && x.tag == 0 && x.reg == true then j else x) = l := by
    refine (List.map_congr_left fun x hx => ?_).trans (List.map_id l)
    have hne : (x.q == some q && x.tag == 0) = false := by simpa using List.find?_eq_none.1 hnone x hx
    rw [hne]
    rfl
  have hlast : [registerJob q start].map (fun x => if x.q == some q && x.tag == 0 && x.reg == true then j else x) = [j] := by
    simp [registerJob]
  rw [List.map_append, hl, hlast, List.find?_append, hnone]
  rw [Option.none_or, List.find?_cons, hj]

/-- A write of Q_CTL with ENABLE and ABORT, on an enabled queue. -/
theorem Dev.wrQctl_abort {d : Dev} {q : QRef} {v : Nat} (e : Env) (hen : bit v 0 = true) (hab : bit v 31 = true)
    (hena : (d.queue q).enable = true) :
    d.wrQctl e q v = (d.setQueue q { d.queue q with ctx := BitVec.ofNat 4 (bf v 4 1) }).startQctlAbort e q := by
  unfold Dev.wrQctl
  simp only [hen, hab, hena, if_true]

/-- The ABORT of a disabled queue's register ends at once. -/
theorem Dev.startQctlAbort_disabled {d : Dev} {q : QRef} (e : Env) (h : (d.queue q).enable = false) :
    d.startQctlAbort e q = d.setQueue q { d.queue q with lastAbort := 1 } := by
  unfold Dev.startQctlAbort
  rw [h]
  exact if_pos rfl

/-- A write of Q_CTL with ENABLE and ABORT, on a disabled queue that stays so: the ABORT ends at once. -/
theorem Dev.wrQctl_abort_disabled {d : Dev} {q : QRef} {v : Nat} (e : Env) (hen : bit v 0 = true) (hab : bit v 31 = true)
    (hdis : (d.queue q).enable = false) (hcause : d.enableCause q (d.queue q) ≠ 0) :
    ((d.wrQctl e q v).queue q).lastAbort = 1#2 ∧ (d.wrQctl e q v).disp = d.disp := by
  have hcause' : ¬ (d.setQueue q { d.queue q with ctx := BitVec.ofNat 4 (bf v 4 1) }).enableCause q (d.queue q) = 0 := hcause
  dsimp only at hcause'
  unfold Dev.wrQctl
  simp only [hen, hab, if_true]
  rw [if_neg (by rw [hdis]; exact Bool.false_ne_true), if_neg hcause', Dev.startQctlAbort_disabled e (by rw [Dev.queue_setQueue_same, Dev.queue_setQueue_same]; exact hdis), Dev.queue_setQueue_same]
  exact ⟨rfl, rfl⟩

/-- Settles O40: the job that starts finds nothing to cancel, and is the one found under tag 0. -/
theorem registerAbort : Obligations.RegisterAbort := by
  rintro s fn q v t hok rfl hmay hbit0 hbit31
  have hexec := onHost_mayQueue hok hmay v.e (fun d => (d.applyEnv v.e).wrQctl v.e q (v.v.toNat % 2 ^ 31 + 2 ^ 31))
  have h0 : bit (v.v.toNat % 2 ^ 31 + 2 ^ 31) 0 = true := by
    have h : bit v.v.toNat 0 = true := hbit0
    rw [bit_eq, decide_eq_true_iff] at h ⊢
    omega
  have h31 : bit (v.v.toNat % 2 ^ 31 + 2 ^ 31) 31 = true := by
    rw [bit_eq, decide_eq_true_iff]
    omega
  refine ⟨fun hen hst hempty hpkts hnone => ?_, fun hdis hcause => ?_⟩
  · have hwr := Dev.wrQctl_abort (d := s.dev.hostTurn.applyEnv v.e) v.e h0 h31 hen
    generalize hd : (s.dev.hostTurn.applyEnv v.e).setQueue q
      { (s.dev.hostTurn.applyEnv v.e).queue q with ctx := BitVec.ofNat 4 (bf (v.v.toNat % 2 ^ 31 + 2 ^ 31) 4 1) } = d at hwr
    have hq : d.queue q = { s.dev.hostTurn.queue q with ctx := BitVec.ofNat 4 (bf (v.v.toNat % 2 ^ 31 + 2 ^ 31) 4 1) } := by
      rw [← hd, Dev.queue_setQueue_same]
      rfl
    have hdisp : d.disp = s.dev.hostTurn.disp := by rw [← hd]; rfl
    have hnow : d.now = s.dev.hostTurn.now := by rw [← hd]; rfl
    obtain ⟨y, hyen, hyst, hylast, hyq, habs⟩ := Dev.startQctlAbort_empty (d := d) (q := q) v.e (by rw [hq]; exact hen) (by rw [hq]; exact hst)
      (by rw [hq]; exact hempty) (by rw [hdisp]; exact hpkts) (by unfold Dev.abortOf; rw [hdisp]; exact hnone)
    refine ⟨_, { registerJob q d.now with acted := true, cancelled := 0, stuck := [] }, hexec.trans (next_congr s (by rw [hwr])), ?_, ?_, ?_, ?_, rfl, rfl, rfl, rfl, rfl, hnow⟩
    · rw [hyq, hylast]
    · rw [hyq, hyst]
    · rw [hyq, hyen]
    · unfold Dev.abortOf
      rw [habs, hdisp]
      exact find?_registerJob (by simp [registerJob]) hnone
  · obtain ⟨hlast, hdisp⟩ := Dev.wrQctl_abort_disabled (d := s.dev.hostTurn.applyEnv v.e) v.e h0 h31 hdis hcause
    exact ⟨_, hexec, hlast, congrArg Disp.aborts hdisp⟩

end Sys2Proof.Machine
end


section
/-!
The word code: a flipped bit, two flipped bits and poison (06 R143, R144).
-/
namespace Sys2Proof.Machine

theorem popcount_succ (m w : Nat) : popcount m (w + 1) = popcount m w + (m.testBit w).toNat := by
  unfold popcount maskBits
  rw [List.range_succ, List.filter_append, List.length_append]
  cases h : m.testBit w <;> simp [h]

/-- The parity of an exclusive or is the sum of the parities. -/
theorem popcount_xor_mod_two (a b w : Nat) : popcount (a ^^^ b) w % 2 = (popcount a w + popcount b w) % 2 := by
  induction w with
  | zero => simp [popcount, maskBits]
  | succ w ih =>
    rw [popcount_succ, popcount_succ, popcount_succ, Nat.testBit_xor]
    have hbit : ∀ x y : Bool, (x ^^ y).toNat % 2 = (x.toNat + y.toNat) % 2 := by decide
    have := hbit (a.testBit w) (b.testBit w)
    omega

/-- Every single flipped data bit is found at its place: the positions of the code are all different. -/
theorem eccClass_dataFlip : ∀ j : Fin 256, eccClass (dataFlipDiff j.val) = .data j.val := by decide +kernel

theorem eccClass_checkFlip : ∀ j : Fin 16, eccClass (2 ^ j.val) = .checkbit (256 + j.val) := by decide +kernel

/-- A flipped data bit shows an odd number of differing check bits, none of them of the address fold. -/
theorem dataFlipDiff_shape : ∀ j : Fin 256, popcount (dataFlipDiff j.val) 16 % 2 = 1 ∧ dataFlipDiff j.val < 1024 ∧
    dataFlipDiff j.val = dataFlipDiff j.val % 512 + 512 * ((popcount (dataFlipDiff j.val % 512) 9 + 1) % 2) := by decide +kernel

theorem dataFlipDiff_injective {i j : Fin 256} (h : dataFlipDiff i.val % 512 = dataFlipDiff j.val % 512) : i = j := by
  have hdiff : dataFlipDiff i.val = dataFlipDiff j.val := by
    rw [(dataFlipDiff_shape i).2.2, (dataFlipDiff_shape j).2.2, h]
  have hclass := eccClass_dataFlip j
  rw [← hdiff, eccClass_dataFlip i] at hclass
  exact Fin.ext (EccClass.data.inj hclass)

/-- Below the bits of the address fold the syndrome is the nine lowest bits. -/
theorem eccSyndrome_of_lt {x : Nat} (h : x < 1024) : eccSyndrome x = x % 512 := by
  have hfold : bf x 15 10 = 0 := by rw [bf_eq]; omega
  have hlow : bf x 8 0 = x % 512 := by rw [bf_eq]; simp
  have hnone : maskBits 0 6 = [] := by decide
  rw [eccSyndrome, hfold, hlow, foldPos, hnone]
  exact Nat.xor_zero _

/-- An even number of differing check bits with a syndrome is no single error. -/
theorem eccClass_even {x : Nat} (hlt : x < 1024) (heven : popcount x 16 % 2 = 0) (hne : x % 512 ≠ 0) : eccClass x = .ue := by
  have hraw : eccRaw x = .ue := by
    unfold eccRaw eccParity
    rw [eccSyndrome_of_lt hlt]
    simp [heven, hne]
  unfold eccClass
  rw [hraw]

theorem eq_of_xor_eq_zero {m n : Nat} (h : m ^^^ n = 0) : m = n := by
  have hback : (m ^^^ n) ^^^ n = m := by rw [Nat.xor_assoc, Nat.xor_self, Nat.xor_zero]
  rw [← hback, h, Nat.zero_xor]

/-- Two different flipped data bits are uncorrectable: the parity is even, and the syndrome is not zero because the positions differ. -/
theorem eccClass_twoDataFlips {i j : Fin 256} (h : i ≠ j) : eccClass (dataFlipDiff i.val ^^^ dataFlipDiff j.val) = .ue := by
  obtain ⟨hoddi, hlti, -⟩ := dataFlipDiff_shape i
  obtain ⟨hoddj, hltj, -⟩ := dataFlipDiff_shape j
  refine eccClass_even (Nat.xor_lt_two_pow (n := 10) hlti hltj) ?_ ?_
  · rw [popcount_xor_mod_two]; omega
  · have hmod := Nat.xor_mod_two_pow (a := dataFlipDiff i.val) (b := dataFlipDiff j.val) (n := 9)
    rw [show (2 : Nat) ^ 9 = 512 from rfl] at hmod
    rw [hmod]
    exact fun hzero => h (dataFlipDiff_injective (eq_of_xor_eq_zero hzero))

/-- Settles O19: single flips by their places in the code, two data flips by parity and syndrome, poison and no flip by evaluation. -/
theorem wordCode : Obligations.WordCode := by
  refine ⟨fun j h => eccClass_dataFlip ⟨j, h⟩, fun j h => eccClass_checkFlip ⟨j, h⟩, fun i j hi hj hne => ?_, by decide +kernel, by decide +kernel⟩
  have hue := eccClass_twoDataFlips (i := ⟨i, hi⟩) (j := ⟨j, hj⟩) (by simpa using hne)
  exact hue ▸ rfl

end Sys2Proof.Machine
end


section
/-!
What an access to data does to one byte: a byte whose word holds a codeword changes by a write that covers it, and by nothing else (06 R146, R147, 09 R196).
-/
namespace Sys2Proof.Machine

/-! What an access leaves of the Dispatcher, and what of an access changes no memory. -/

/-- A packet without the outcome that a failed write of it may set. -/
def Pkt.bare (p : Pkt) : Pkt := { p with status := 0, result := 0 }

/-- What `Dev.flight` reads. -/
abbrev Flight := Disp × Nat × Tbl Watch × List Held × BitVec 8 × BitVec 56

/-- What accesses to data leave alone: the Dispatcher without translations, register writes that wait and outcomes, the time of the last scan, the watch slots, the
messages held, the node and the last event of a KPM. -/
def Dev.flight (d : Dev) : Flight :=
  ({ d.disp with regq := [], tlb := [], pkts := d.disp.pkts.map Pkt.bare }, d.time.scanAt, d.lpe, d.lnk.held, d.sys.node, d.kpm.last)

/-- What a write leaves alone, which reads no register: the queues too. -/
def Dev.berth (d : Dev) : Flight × Tbl Queue := (d.flight, d.queues)

/-- What an access leaves alone that stores nothing. -/
def Dev.steady (d : Dev) : Flight × Mem := (d.flight, d.mem)

/-- What an access leaves alone that stores nothing and reads no register. -/
def Dev.still (d : Dev) : (Flight × Tbl Queue) × Mem := (d.berth, d.mem)

/-- A choice between two states that agree in a part. -/
theorem Dev.ite_part {γ : Type} (part : Dev → γ) {d a b : Dev} {c : Prop} [Decidable c] (ha : part a = part d) (hb : part b = part d) :
    part (if c then a else b) = part d := by
  split
  · exact ha
  · exact hb

section
variable (d : Dev)

theorem Dev.ite_steady {d a b : Dev} {c : Prop} [Decidable c] (ha : a.steady = d.steady) (hb : b.steady = d.steady) :
    (if c then a else b).steady = d.steady := Dev.ite_part Dev.steady ha hb

theorem Dev.ite_still {d a b : Dev} {c : Prop} [Decidable c] (ha : a.still = d.still) (hb : b.still = d.still) :
    (if c then a else b).still = d.still := Dev.ite_part Dev.still ha hb

theorem Dev.count_still (o : Option Nat) (g i n : Nat) : (d.count o g i n).still = d.still :=
  (congrArg Dev.still (d.count_besideCounts o g i n) :)

theorem Dev.enqueue_still (l : Nat) (t : TxMsg) : (d.enqueue l t).still = d.still := (congrArg Dev.still (d.enqueue_besideFlits l t) :)

theorem Dev.dropRsv_still (k : Nat) : (d.dropRsv k).still = d.still := (congrArg Dev.still (d.dropRsv_beside k) :)

theorem Dev.breakRsv_still (a n : Nat) (own : Option Nat) : (d.breakRsv a n own).still = d.still :=
  foldl_leaves Dev.still (fun (d : Dev) (e : Nat × KSlot) => d.dropRsv e.1) (fun d e => d.dropRsv_still e.1) _ d

theorem Dev.publishLive_still : d.publishLive.still = d.still := Dev.ite_still rfl rfl

theorem Dev.hbmPass_still : d.hbmPass.still = d.still := by
  unfold Dev.hbmPass
  dsimp only
  refine Dev.ite_still ?_ rfl
  exact foldl_leaves Dev.still (fun (d : Dev) (x : Nat × Nat) =>
    d.setStack x.1 { d.stack x.1 with passes := tset (d.stack x.1).passes x.2 (tget (d.stack x.1).passes x.2 0 - 1) }) (fun _ _ => rfl) _ d

theorem Dev.mapOut_still (h p src : Nat) (brk : Bool) : (d.mapOut h p src brk).still = d.still := by
  unfold Dev.mapOut
  refine Dev.ite_still ?_ rfl
  extract_lets ks d1 s d2 d3 b d4 d5 d6
  have h1 : d1.still = d.still := foldl_leaves Dev.still (fun (d : Dev) (e : Nat × KSlot) => d.dropRsv e.1) (fun d e => d.dropRsv_still e.1) ks d
  have h3 : d3.still = d.still := h1
  clear_value d3
  have h5 : d5.still = d.still := d4.publishLive_still.trans h3
  clear_value d5
  have h6 : d6.still = d.still := (Dev.hbmPass_still _).trans (Dev.ite_still h5 h5)
  exact Dev.ite_still h6 h6

theorem Dev.tallyRow_still (h p w src : Nat) : (d.tallyRow h p w src).still = d.still := by
  unfold Dev.tallyRow
  exact Dev.ite_still rfl (Dev.ite_still (Dev.mapOut_still _ _ _ _ _) rfl)

theorem Dev.goReadOnly_still (n c : Nat) : (d.goReadOnly n c).still = d.still := Dev.ite_still rfl rfl

theorem Dev.tallyLane_still (n c off j src a : Nat) : (d.tallyLane n c off j src a).still = d.still := by
  unfold Dev.tallyLane
  exact Dev.ite_still rfl (Dev.ite_still (Dev.ite_still rfl (Dev.goReadOnly_still _ _ _)) rfl)

theorem Dev.qRc_steady (k o : Nat) : (d.qRc k o).steady = d.steady := Dev.ite_steady rfl (Dev.ite_steady rfl rfl)

theorem Dev.strideRc_steady (p o : Nat) : (d.strideRc p o).steady = d.steady := by
  unfold Dev.strideRc
  dsimp only
  split
  · rfl
  · split
    · rfl
    · rfl
    · rfl
    · split
      · exact d.qRc_steady _ _
      · rfl

/-- A register read changes no memory. -/
theorem Dev.regSide_steady (fn : Fn) (off : Nat) : (d.regSide fn off).steady = d.steady := by
  unfold Dev.regSide
  refine Dev.ite_steady rfl (Dev.ite_steady rfl (Dev.ite_steady rfl (Dev.ite_steady rfl (Dev.ite_steady ?_ (Dev.ite_steady (d.strideRc_steady _ _)
    (Dev.ite_steady ?_ (Dev.ite_steady ?_ (Dev.ite_steady ?_ (Dev.ite_steady ?_ (Dev.ite_steady ?_ (Dev.ite_steady ?_ rfl)))))))))))
  · split
    · exact d.qRc_steady _ _
    · rfl
  · split
    · exact Dev.ite_steady rfl rfl
    · rfl
  · split
    · exact Dev.ite_steady rfl (Dev.ite_steady rfl rfl)
    · rfl
  · split
    · exact Dev.ite_steady rfl (Dev.ite_steady rfl (Dev.ite_steady rfl rfl))
    · rfl
  · split
    · exact Dev.ite_steady rfl rfl
    · rfl
  · refine Dev.ite_steady rfl ?_
    split <;> rfl
  · refine Dev.ite_steady rfl ?_
    split
    · rfl
    · split <;> rfl

theorem Dev.regBytes_steady (o : Option Nat) (off n : Nat) : (d.regBytes o off n).1.steady = d.steady := by
  unfold Dev.regBytes
  refine foldl_leaves (fun x : Dev × List Byte => x.1.steady) _ (fun b a => ?_) _ (d, [])
  dsimp only
  split
  · rfl
  · exact Dev.regSide_steady _ _ _

theorem Dev.askPartner_still (acc : Acc) (off n : Nat) (wr : Option (List Byte)) : (d.askPartner acc off n wr).still = d.still := by
  unfold Dev.askPartner
  refine foldl_leaves (fun x : Dev => x.still) _ (fun b a => ?_) _ d
  dsimp only
  split
  · rfl
  · split <;> rfl

theorem Dev.askRemote_still (acc : Acc) (node a n : Nat) (wr : Option (List Byte)) : (d.askRemote acc node a n wr).still = d.still := by
  unfold Dev.askRemote
  split
  · rfl
  · refine (foldl_leaves (fun x : Dev => x.still) _ (fun b a => ?_) _ _).trans rfl
    exact Dev.enqueue_still _ _ _

theorem Dev.askExt_still (acc : Acc) (a n : Nat) (wr : Option (List Byte)) : (d.askExt acc a n wr).still = d.still := by
  unfold Dev.askExt
  split
  · rfl
  · exact Dev.ite_still rfl (d.askPartner_still _ _ _ _)
  · exact d.askRemote_still _ _ _ _ _
  · rfl

end

section
variable (d : Dev)

@[simp] theorem Dev.count_mem (o : Option Nat) (g i n : Nat) : (d.count o g i n).mem = d.mem := congrArg Prod.snd (d.count_still o g i n)
@[simp] theorem Dev.tallyRow_mem (h p w src : Nat) : (d.tallyRow h p w src).mem = d.mem := congrArg Prod.snd (d.tallyRow_still h p w src)
@[simp] theorem Dev.tallyLane_mem (n c off j src a : Nat) : (d.tallyLane n c off j src a).mem = d.mem :=
  congrArg Prod.snd (d.tallyLane_still n c off j src a)
@[simp] theorem Dev.logSlc_mem (c s b l a : Nat) : (d.logSlc c s b l a).mem = d.mem := rfl
@[simp] theorem Dev.logHbm_mem (c s b h p a : Nat) : (d.logHbm c s b h p a).mem = d.mem := rfl
@[simp] theorem Dev.askExt_mem (acc : Acc) (a n : Nat) (wr : Option (List Byte)) : (d.askExt acc a n wr).mem = d.mem :=
  congrArg Prod.snd (d.askExt_still acc a n wr)
@[simp] theorem Dev.regBytes_mem (o : Option Nat) (off n : Nat) : (d.regBytes o off n).1.mem = d.mem := congrArg Prod.snd (d.regBytes_steady o off n)
@[simp] theorem Dev.count_berth (o : Option Nat) (g i n : Nat) : (d.count o g i n).berth = d.berth := congrArg Prod.fst (d.count_still o g i n)
@[simp] theorem Dev.breakRsv_berth (a n : Nat) (own : Option Nat) : (d.breakRsv a n own).berth = d.berth := congrArg Prod.fst (d.breakRsv_still a n own)
@[simp] theorem Dev.tallyRow_berth (h p w src : Nat) : (d.tallyRow h p w src).berth = d.berth := congrArg Prod.fst (d.tallyRow_still h p w src)
@[simp] theorem Dev.tallyLane_berth (n c off j src a : Nat) : (d.tallyLane n c off j src a).berth = d.berth :=
  congrArg Prod.fst (d.tallyLane_still n c off j src a)
@[simp] theorem Dev.logSlc_berth (c s b l a : Nat) : (d.logSlc c s b l a).berth = d.berth := rfl
@[simp] theorem Dev.logHbm_berth (c s b h p a : Nat) : (d.logHbm c s b h p a).berth = d.berth := rfl
@[simp] theorem Dev.askExt_berth (acc : Acc) (a n : Nat) (wr : Option (List Byte)) : (d.askExt acc a n wr).berth = d.berth :=
  congrArg Prod.fst (d.askExt_still acc a n wr)
@[simp] theorem Dev.regBytes_flight (o : Option Nat) (off n : Nat) : (d.regBytes o off n).1.flight = d.flight :=
  congrArg Prod.fst (d.regBytes_steady o off n)

end

/-! One byte across an access. -/

/-- The byte at x and the check bits of its word are the same in d and y. -/
structure SameAt (x : Nat) (d y : Dev) : Prop where
  /-- The byte. -/
  byte : y.mem.byte x = d.mem.byte x
  /-- The check bits of its word. -/
  diff : y.mem.diff (x - x % 32) = d.mem.diff (x - x % 32)

theorem SameAt.refl (x : Nat) (d : Dev) : SameAt x d d := ⟨rfl, rfl⟩

theorem SameAt.trans {x : Nat} {d y z : Dev} (h : SameAt x d y) (g : SameAt x y z) : SameAt x d z :=
  ⟨g.byte.trans h.byte, g.diff.trans h.diff⟩

theorem SameAt.of_mem {x : Nat} {d y : Dev} (h : y.mem = d.mem) : SameAt x d y := ⟨by rw [h], by rw [h]⟩

/-- The same memory behind y, seen from z. -/
theorem SameAt.rest {x : Nat} {d y z : Dev} (h : SameAt x d y) (e : z.mem = y.mem) : SameAt x d z := h.trans (.of_mem e)

theorem Mem.diff_setDiff_other (m : Mem) {w v : Nat} (h : v ≠ w) (n : Nat) : (m.setDiff w n).diff v = m.diff v := by
  unfold Mem.diff Mem.setDiff
  dsimp only
  split
  · rw [tget_tdel_other _ _ _ _ h]
  · rw [tget_tset_other _ _ _ _ _ h]

@[simp] theorem Mem.diff_putList (l : List Byte) : ∀ (m : Mem) (a v : Nat), (m.putList a l).diff v = m.diff v := by
  induction l with
  | nil => exact fun _ _ _ => rfl
  | cons b r ih => exact fun m a v => (ih (m.put a b) (a + 1) v).trans rfl

/-- Only single errors of data are classed as such. -/
theorem eccClass_data_lt {n j : Nat} (h : eccClass n = .data j) : j < 256 := by
  have hraw : eccRaw n = .data j := by
    unfold eccClass at h
    split at h
    · split at h <;> cases h
    · next b hb =>
      split at h
      · exact hb.trans h
      · cases h
    · split at h <;> cases h
    · exact h
  unfold eccRaw at hraw
  dsimp only at hraw
  split at hraw
  · split at hraw
    · cases hraw
    · split at hraw
      · cases hraw
      · split at hraw
        · cases hraw
        · split at hraw
          · split at hraw
            · next hlt => exact EccClass.data.inj hraw ▸ hlt
            · cases hraw
          · cases hraw
  · split at hraw <;> cases hraw

section
variable {x w : Nat} (d : Dev) (acc : Acc)

theorem SameAt.putList {a : Nat} {b : List Byte} (h : x < a ∨ a + b.length ≤ x) : SameAt x d { d with mem := d.mem.putList a b } :=
  ⟨Mem.byte_putList_other _ _ _ _ (by omega), Mem.diff_putList _ _ _ _⟩

theorem SameAt.putWord {b : List Byte} {n : Nat} (hw : w % 32 = 0) (hb : b.length = 32) (h : w ≠ x - x % 32) :
    SameAt x d { d with mem := (d.mem.putList w b).setDiff w n } :=
  ⟨(Mem.byte_setDiff _ _ _ _).trans (Mem.byte_putList_other _ _ _ _ (by omega)),
    (Mem.diff_setDiff_other _ h.symm _).trans (Mem.diff_putList _ _ _ _)⟩

theorem SameAt.correct {c : EccClass} (hw : w % 32 = 0) (hc : ∀ j, c = .data j → j < 256) (h : w ≠ x - x % 32) :
    SameAt x d { d with mem := d.mem.correct w c } := by
  cases c
  case data j =>
    have hj := hc j rfl
    refine ⟨(Mem.byte_setDiff _ _ _ _).trans (Mem.byte_put_other _ _ _ _ (by omega)), Mem.diff_setDiff_other _ h.symm _⟩
  all_goals exact ⟨rfl, Mem.diff_setDiff_other _ h.symm _⟩

theorem SameAt.poisonWord (hw : w % 32 = 0) (h : w ≠ x - x % 32) : SameAt x d (d.poisonWord acc w) := by
  unfold Dev.poisonWord
  split
  · exact .of_mem rfl
  · exact (SameAt.putWord d hw (by simp) h).rest (Dev.breakRsv_mem _ _ _ _)

/-- A word read elsewhere. -/
theorem SameAt.touchOther (loc : Loc) (hw : w % 32 = 0) (h : w ≠ x - x % 32) : SameAt x d (d.touchWord acc w loc).1 := by
  have hcorr : SameAt x d { d with mem := d.mem.correct w (eccClass (d.mem.diff w)) } := .correct d hw (fun j hj => eccClass_data_lt hj) h
  have hpois : ∀ y : Dev, y.mem = d.mem → SameAt x d (y.poisonWord acc w) := fun y hy => (SameAt.of_mem hy).trans (.poisonWord y acc hw h)
  unfold Dev.touchWord
  cases loc
  case hbm hb p i a =>
    dsimp only
    split
    · exact (hpois _ (by simp)).rest (Dev.tallyRow_mem _ _ _ _ _)
    · split
      · split <;> exact .of_mem (by simp)
      · split
        · exact hcorr.rest (Dev.count_mem _ _ _ _ _)
        · split
          · dsimp only
            split
            · exact hpois _ (by simp)
            · exact .of_mem (by simp)
          · exact (hpois _ (by simp)).rest (Dev.tallyRow_mem _ _ _ _ _)
  case slice n c off =>
    dsimp only
    split
    · exact .refl x d
    · split
      · exact hcorr.rest ((Dev.tallyLane_mem _ _ _ _ _ _ _).trans (Dev.count_mem _ _ _ _ _))
      · split
        · dsimp only
          split
          · exact hpois _ (by simp)
          · exact .of_mem (by simp)
        · exact hpois _ (by simp)
  case sram n c off =>
    dsimp only
    split
    · exact .refl x d
    · split
      · exact hcorr.rest (Dev.count_mem _ _ _ _ _)
      · split
        · exact .of_mem (by simp)
        · exact hpois _ (by simp)
  all_goals exact .refl x d

/-- The words of this module whose check bits the module keeps. -/
def Loc.checked : Loc → Bool
  | .hbm _ _ _ _ => true
  | .slice _ _ _ => true
  | .sram _ _ _ => true
  | _ => false

/-- A word with a codeword, not reported uncorrected by its stack, is read as it is. -/
theorem Dev.touchWord_clean (loc : Loc) (hd : d.mem.diff w = 0) (hs : acc.severity w ≠ 2) :
    (d.touchWord acc w loc).1.mem = d.mem ∧ (loc.checked = true → (d.touchWord acc w loc).2 = sOk) := by
  have hc : (eccClass (d.mem.diff w) == .clean) = true := by rw [hd]; decide +kernel
  unfold Dev.touchWord
  cases loc
  case hbm h p i a =>
    have h2 : (acc.severity w == 2) = false := by simpa using hs
    dsimp only
    rw [if_neg (by simp [h2]), if_pos hc]
    split
    · exact ⟨by simp, fun _ => rfl⟩
    · exact ⟨rfl, fun _ => rfl⟩
  case slice n c off =>
    dsimp only
    rw [if_pos hc]
    exact ⟨rfl, fun _ => rfl⟩
  case sram n c off =>
    dsimp only
    rw [if_pos hc]
    exact ⟨rfl, fun _ => rfl⟩
  all_goals exact ⟨rfl, fun h => by cases h⟩

end

section
variable {x : Nat} {d : Dev} {acc : Acc}

/-- A word that is read, wherever it lies. -/
theorem SameAt.touch {w : Nat} (loc : Loc) (hw : w % 32 = 0) (hd : d.mem.diff (x - x % 32) = 0) (hs : acc.severity (x - x % 32) ≠ 2) :
    SameAt x d (d.touchWord acc w loc).1 := by
  by_cases h : w = x - x % 32
  · exact .of_mem (Dev.touchWord_clean d acc loc (h ▸ hd) (h ▸ hs)).1
  · exact .touchOther d acc loc hw h

/-- A list of accesses each of which leaves the byte at x alone. -/
theorem SameAt.foldl {α β : Type} (dev : β → Dev) (f : β → α → β) (l : List α)
    (h : ∀ b, (dev b).mem.diff (x - x % 32) = 0 → ∀ a ∈ l, SameAt x (dev b) (dev (f b a))) :
    ∀ b, (dev b).mem.diff (x - x % 32) = 0 → SameAt x (dev b) (dev (l.foldl f b)) := by
  induction l with
  | nil => exact fun b _ => .refl x _
  | cons a r ih =>
    intro b hb
    have h1 := h b hb a List.mem_cons_self
    exact h1.trans (ih (fun b hb a ha => h b hb a (List.mem_cons_of_mem _ ha)) _ (h1.diff.trans hb))

theorem wordsOf_aligned {a n w : Nat} (h : w ∈ wordsOf a n) : w % 32 = 0 := by
  obtain ⟨i, -, rfl⟩ := List.mem_map.1 h
  omega

theorem SameAt.touchLine (tag : Nat) (hd : d.mem.diff (x - x % 32) = 0) (hs : acc.severity (x - x % 32) ≠ 2) :
    SameAt x d (d.touchLine acc tag).1 := by
  unfold Dev.touchLine
  exact SameAt.foldl (fun y : Dev × List (BitVec 16) => y.1) _ _ (fun b hb _ hw => .touch _ (wordsOf_aligned hw) hb hs) (d, []) hd

theorem SameAt.fetchLine (site w : Nat) (hd : d.mem.diff (x - x % 32) = 0) (hs : acc.severity (x - x % 32) ≠ 2) :
    SameAt x d (d.fetchLine acc site w).1 := by
  refine (SameAt.touchLine (w / 256) hd hs).rest ?_
  unfold Dev.fetchLine
  extract_lets tag r d1 d2 st d3
  have h2 : d2.mem = r.1.mem := by
    refine Eq.trans (b := d1.mem) ?_ (Dev.askExt_mem _ _ _ _ _)
    show (match (d1.locate w).memIdx with | some i => d1.count acc.owner 0 i 256 | none => d1).mem = d1.mem
    split
    · exact Dev.count_mem _ _ _ _ _
    · rfl
  exact Dev.ite_part (d := r.1) Dev.mem h2 h2

theorem SameAt.readWord {w : Nat} (hw : w % 32 = 0) (hd : d.mem.diff (x - x % 32) = 0) (hs : acc.severity (x - x % 32) ≠ 2) :
    SameAt x d (d.readWord acc w).1 := by
  have hfetch : ∀ y : Dev, y.mem = d.mem → ∀ site, SameAt x d (y.fetchLine acc site w).1 :=
    fun y hy site => (SameAt.of_mem hy).trans (.fetchLine site w (by rw [hy]; exact hd) hs)
  unfold Dev.readWord
  dsimp only
  split
  · exact .touch _ hw hd hs
  · split
    · split
      · exact hfetch _ (by rw [Dev.count_mem]; rfl) _
      · exact .of_mem (by dsimp only; rw [Dev.count_mem]; rfl)
    · exact hfetch _ (by rw [Dev.count_mem]) _

/-- A read leaves the byte at x alone. -/
theorem SameAt.readBytes (a n : Nat) (hd : d.mem.diff (x - x % 32) = 0) (hs : acc.severity (x - x % 32) ≠ 2) :
    SameAt x d (d.readBytes acc a n).d := by
  unfold Dev.readBytes
  split
  · exact .refl x d
  · extract_lets a' r direct
    split
    · split
      · exact .of_mem (Dev.regBytes_mem _ _ _ _)
      · exact .refl x d
    · extract_lets d2 d3
      have hr : SameAt x d r.d := SameAt.foldl (fun y : RdR => y.d) _ _ (fun b hb _ hw => .readWord (wordsOf_aligned hw) hb hs) { d := d } hd
      have h2 : d2.mem = r.d.mem := by
        show (match (d.locate a').memIdx with | some i => r.d.count acc.owner 0 i _ | none => r.d).mem = r.d.mem
        split
        · exact Dev.count_mem _ _ _ _ _
        · rfl
      exact hr.rest (Dev.ite_part (d := r.d) Dev.mem ((Dev.askExt_mem _ _ _ _ _).trans h2) h2)

/-- The pieces a run of bytes is cut into lie in its range, each in one word. -/
theorem cutWords_range (k : Nat) : ∀ (a : Nat) (b : List Byte), ∀ p ∈ cutWords k a b,
    p.1 % 32 = 0 ∧ p.2.1 + p.2.2.length ≤ 32 ∧ a ≤ p.1 + p.2.1 ∧ p.1 + p.2.1 + p.2.2.length ≤ a + b.length := by
  induction k with
  | zero => exact fun _ _ _ h => absurd h List.not_mem_nil
  | succ k ih =>
    intro a b p hp
    cases b with
    | nil => exact absurd hp List.not_mem_nil
    | cons b0 r =>
      rcases List.mem_cons.1 hp with rfl | hp
      · simp only [List.length_take]
        omega
      · have hlen : (List.drop (32 - a % 32) (b0 :: r)).length = (b0 :: r).length - (32 - a % 32) := List.length_drop
        have hrest := ih _ _ p hp
        by_cases hnil : List.drop (32 - a % 32) (b0 :: r) = []
        · rw [hnil] at hp
          cases k <;> exact absurd hp List.not_mem_nil
        · have hpos := List.length_pos_iff.2 hnil
          omega

theorem SameAt.storeWord {w o : Nat} {b : List Byte} (hw : w % 32 = 0) (ho : o + b.length ≤ 32) (hx : x < w + o ∨ w + o + b.length ≤ x)
    (hloc : (d.locate w).checked = true) (hd : d.mem.diff (x - x % 32) = 0) (hs : acc.severity (x - x % 32) ≠ 2) :
    SameAt x d (d.storeWord acc w o b).1 := by
  unfold Dev.storeWord
  split
  · exact .of_mem rfl
  · split
    · next hb =>
      have hlen : b.length = 32 := by simpa using hb
      exact (SameAt.putWord d hw hlen (by omega)).rest (Dev.breakRsv_mem _ _ _ _)
    · extract_lets r
      have hr : SameAt x d r.1 := .touch _ hw hd hs
      split
      · next hexc =>
        have hne : w ≠ x - x % 32 := by
          intro h
          have hok : r.2 = sOk := (Dev.touchWord_clean d _ _ (h ▸ hd) (h ▸ hs)).2 hloc
          rw [hok] at hexc
          exact absurd hexc (by decide)
        exact hr.trans (.poisonWord _ acc hw hne)
      · exact (hr.trans (.putList r.1 hx)).rest (Dev.breakRsv_mem _ _ _ _)

theorem SameAt.writeWord {w o : Nat} {b : List Byte} (hw : w % 32 = 0) (ho : o + b.length ≤ 32) (hx : x < w + o ∨ w + o + b.length ≤ x)
    (hd : d.mem.diff (x - x % 32) = 0) (hs : acc.severity (x - x % 32) ≠ 2) : SameAt x d (d.writeWord acc w o b).1 := by
  have hout : ∀ s : BitVec 16, SameAt x d (if isExc s then d else { d with mem := d.mem.putList (w + o) b }) := by
    intro s
    split
    · exact .refl x d
    · exact .putList d hx
  unfold Dev.writeWord
  dsimp only
  split
  · exact .refl x d
  · exact .of_mem rfl
  · next h => exact .storeWord hw ho hx (by rw [h]; rfl) hd hs
  · next h =>
    split
    · exact .refl x d
    · exact .storeWord hw ho hx (by rw [h]; rfl) hd hs
  · next h => exact .storeWord hw ho hx (by rw [h]; rfl) hd hs
  · split
    · exact hout _
    · exact .refl x d
  · exact hout _
  · exact hout _

/-- A write leaves the byte at x alone, where it does not cover it. -/
theorem SameAt.writeBytes {a : Nat} {b : List Byte} (hx : x < d.canon a ∨ d.canon a + b.length ≤ x) (hd : d.mem.diff (x - x % 32) = 0)
    (hs : acc.severity (x - x % 32) ≠ 2) : SameAt x d (d.writeBytes acc a b).d := by
  unfold Dev.writeBytes
  extract_lets a' r d2
  have hr : SameAt x d r.d := by
    refine SameAt.foldl (fun y : WrR => y.d) _ _ (fun y hy p hp => ?_) { d := d } hd
    obtain ⟨hw, ho, hlo, hhi⟩ := cutWords_range _ _ _ p hp
    exact .writeWord hw ho (by omega) hy hs
  split
  · exact hr
  · have h2 : d2.mem = r.d.mem := by
      show (match (d.locate a').memIdx with | some i => r.d.count acc.owner 0 (i + 1) b.length | none => r.d).mem = r.d.mem
      split
      · exact Dev.count_mem _ _ _ _ _
      · rfl
    exact hr.rest ((Dev.askExt_mem _ _ _ _ _).trans h2)

end

/-- Settles O59: the read and the write, word by word; what no operation on data reaches is the frame every access has. -/
theorem dataAccessFrame : Obligations.DataAccessFrame := by
  intro d acc a x _ hd hs
  exact ⟨fun n => ⟨(SameAt.readBytes a n hd hs).byte, (d.readBytes_data acc a n).kept⟩,
    fun b hx => ⟨(SameAt.writeBytes hx hd hs).byte, (d.writeBytes_data acc a b).kept⟩⟩

end Sys2Proof.Machine
end


section
/-!
BAR4: what the physical function reads after its own write (09 R209, R210, 10 R223, R235).
-/
namespace Sys2Proof.Machine

/-- The module without memory, reservations, counters and output: what a store of a whole word may touch. -/
def Dev.besideStore (d : Dev) : Dev := { d with mem := {}, parts := [], cnt := {}, out := [], kpm := { d.kpm with slots := [] } }

theorem Dev.breakRsv_besideStore (d : Dev) (a n : Nat) (own : Option Nat) : (d.breakRsv a n own).besideStore = d.besideStore := by
  refine foldl_leaves Dev.besideStore (fun d (e : Nat × KSlot) => d.dropRsv e.1) (fun d e => ?_) _ d
  show (d.dropRsv e.1).besideStore = d.besideStore
  unfold Dev.dropRsv
  dsimp only
  split
  · rfl
  · unfold Dev.countRsv
    split <;> rfl

theorem Dev.count_besideStore (d : Dev) (o : Option Nat) (g i n : Nat) : (d.count o g i n).besideStore = d.besideStore := by
  have h := congrArg Dev.besideStore (d.count_besideCounts o g i n)
  exact h

/-- Where an address lies, and whether the host is answered, is told by what no store touches. -/
theorem Dev.locate_besideStore (d : Dev) (a : Nat) : d.besideStore.locate a = d.locate a := rfl

theorem Dev.hostOk_besideStore (d : Dev) (fn : Fn) : d.besideStore.hostOk fn = d.hostOk fn := rfl

/-- Events counted add to the output at most. -/
theorem Dev.bump_out (d : Dev) (bank g i n : Nat) : ∃ l, (d.bump bank g i n).out = d.out ++ l := by
  unfold Dev.bump
  dsimp only
  split
  · split
    · split
      · exact ⟨[], (List.append_nil _).symm⟩
      · exact ⟨_, rfl⟩
    · exact ⟨[], (List.append_nil _).symm⟩
  · exact ⟨[], (List.append_nil _).symm⟩

theorem Dev.count_out (d : Dev) (o : Option Nat) (g i n : Nat) : ∃ l, (d.count o g i n).out = d.out ++ l := by
  unfold Dev.count
  split
  · exact ⟨[], (List.append_nil _).symm⟩
  · split
    · exact d.bump_out _ _ _ _
    · next o =>
      obtain ⟨l, hl⟩ := d.bump_out o g i n
      obtain ⟨k, hk⟩ := (d.bump o g i n).bump_out 9 g i n
      exact ⟨l ++ k, by rw [hk, hl, List.append_assoc]⟩

/-- A run of bytes within one word is one piece, and one word is read for it. -/
theorem cutWords_inWord {a : Nat} {b : List Byte} (hpos : b ≠ []) (h : a % 32 + b.length ≤ 32) :
    cutWords (b.length / 32 + 2) a b = [(a - a % 32, a % 32, b)] := by
  cases b with
  | nil => exact absurd rfl hpos
  | cons b0 r =>
    have htake : (b0 :: r).take (32 - a % 32) = b0 :: r := List.take_of_length_le (by omega)
    have hdrop : (b0 :: r).drop (32 - a % 32) = [] := List.drop_of_length_le (by omega)
    generalize (b0 :: r).length / 32 = k
    show (a - a % 32, a % 32, (b0 :: r).take (32 - a % 32)) :: cutWords (k + 1) (a - a % 32 + 32) ((b0 :: r).drop (32 - a % 32)) = _
    rw [htake, hdrop]
    rfl

theorem wordsOf_inWord {a n : Nat} (hpos : 0 < n) (h : a % 32 + n ≤ 32) : wordsOf a n = [a - a % 32] := by
  unfold wordsOf
  rw [show (a + n - 1) / 32 + 1 - a / 32 = 1 by omega]
  simp
  omega

theorem cutWords_word {a : Nat} {b : List Byte} (ha : a % 32 = 0) (hb : b.length = 32) : cutWords (b.length / 32 + 2) a b = [(a, 0, b)] := by
  rw [cutWords_inWord (List.ne_nil_of_length_pos (by omega)) (by omega), ha, Nat.sub_zero]

theorem wordsOf_word {a : Nat} (ha : a % 32 = 0) : wordsOf a 32 = [a] := by
  rw [wordsOf_inWord (by decide) (by omega), ha, Nat.sub_zero]

section
variable {d : Dev} {off : Nat} {b : List Byte}

theorem Dev.bar4Dpa_pf (h : off < d.formedGranules * 4096) : d.bar4Dpa .pf off = some (mkDpa 0 off) := if_pos h

/-- A whole word written through BAR4. -/
theorem Dev.bar4Write_word (hoff : off % 32 = 0) (hb : b.length = 32) (hin : off < d.formedGranules * 4096) (e : Env) :
    d.bar4Write .pf e off b = ((d.writeWord (bar4Acc .pf e) (mkDpa 0 off) 0 b).1).count none 0 5 b.length := by
  unfold Dev.bar4Write
  rw [cutWords_word hoff hb]
  simp only [List.foldl, Dev.bar4Dpa_pf hin]

/-- A whole word read through BAR4. -/
theorem Dev.bar4Read_word (hoff : off % 32 = 0) (hin : off < d.formedGranules * 4096) (e : Env) :
    d.bar4Read .pf e off 32 = (((d.readWord (bar4Acc .pf e) (mkDpa 0 off)).1).count none 0 4 32,
      (d.readWord (bar4Acc .pf e) (mkDpa 0 off)).2.1.take 32, isExc (d.readWord (bar4Acc .pf e) (mkDpa 0 off)).2.2) := by
  unfold Dev.bar4Read
  rw [if_neg (by decide), wordsOf_word hoff, hoff]
  simp [Dev.bar4Dpa_pf hin]

/-- Beyond the formed extent zero is read. -/
theorem Dev.bar4Read_beyond (hoff : off % 32 = 0) (hout : d.formedGranules * 4096 ≤ off) (e : Env) :
    d.bar4Read .pf e off 32 = (d.count none 0 4 32, List.replicate 32 0, false) := by
  have hnone : d.bar4Dpa .pf off = none := if_neg (by omega)
  unfold Dev.bar4Read
  rw [if_neg (by decide), wordsOf_word hoff, hoff]
  simp only [List.foldl, hnone]
  rfl

/-- A word of HBM with a codeword, read by an access from outside the cores. -/
theorem Dev.readWord_clean {acc : Acc} {w h p i : Nat} {aff : Bool} (hsite : acc.site = none) (hloc : d.locate w = .hbm h p i aff) (hd : d.mem.diff w = 0)
    (hs : acc.severity w = 0) : d.readWord acc w = (d, d.mem.bytes w 32, sOk) := by
  have hrlc : d.rlcSite acc (d.locate w) = none := by simp [Dev.rlcSite, hsite]
  have htouch : d.touchWord acc w (.hbm h p i aff) = (d, sOk) := by
    have hc : (eccClass (d.mem.diff w) == .clean) = true := by rw [hd]; decide +kernel
    unfold Dev.touchWord
    dsimp only
    rw [hs, if_neg (by decide), if_pos hc, if_neg (by decide)]
  have hdata : d.wordData w sOk = d.mem.bytes w 32 := if_neg (by decide)
  unfold Dev.readWord
  dsimp only
  rw [hrlc, hloc]
  dsimp only
  rw [htouch]
  exact Prod.ext rfl (Prod.ext hdata rfl)

/-- What a read through BAR4 answers. -/
def Dev.bar4Answer (d : Dev) (fn : Fn) (off len : Nat) : Dev :=
  (d.bar4Read fn {} off len).1.emit (.bar4 fn (d.bar4Read fn {} off len).2.1 (d.bar4Read fn {} off len).2.2)

/-- The BAR4 accesses of a function that is answered. -/
theorem exec_bar4Read {s : State} {fn : Fn} (hok : s.dev.hostOk fn = true) (off len : Nat) :
    exec (.bar4Read fn off len {}) s = .next { s with dev := s.dev.hostTurn.bar4Answer fn off len } :=
  (onDev_next s (fun d => d.hostReq? fn (fun d => (d.applyEnv {}).bar4Answer fn off len))).trans (next_congr s (if_pos hok))

theorem exec_bar4Write {s : State} {fn : Fn} (hok : s.dev.hostOk fn = true) (off : Nat) (b : List Byte) :
    exec (.bar4Write fn off b {}) s = .next { s with dev := s.dev.hostTurn.bar4Write fn {} off b } :=
  (onDev_next s (fun d => d.hostReq? fn (fun d => (d.applyEnv {}).bar4Write fn {} off b))).trans (next_congr s (if_pos hok))

end

/-- A word written through BAR4 in the formed extent, whose granule is in no exclusive hold, is what the next read answers. -/
theorem bar4_word_readback {s : State} {off h p w : Nat} {b : List Byte} (hok : s.dev.hostOk .pf = true) (hwf : s.dev.mem.wf = true) (hb : b.length = 32)
    (hoff : off % 32 = 0) (hidle : ∀ x ∈ s.dev.kpm.held, x.bar4 = false) (hin : off < s.dev.formedGranules * 4096)
    (hloc : s.dev.locate (mkDpa 0 off) = .hbm h p w false) (hfree : s.dev.isHeld (mkDpa 0 off) none = false) :
    ∃ d : Dev, exec (.bar4Write .pf off b {}) s = .next { s with dev := d } ∧
      (∀ a : Nat, ¬(mkDpa 0 off ≤ a ∧ a < mkDpa 0 off + 32) → d.mem.byte a = s.dev.mem.byte a) ∧
      ∃ d' : Dev, exec (.bar4Read .pf off 32 {}) { s with dev := d } = .next { s with dev := d' } ∧ d'.mem = d.mem ∧
        ∃ l : List Out, d'.out = d.out ++ l ++ [.bar4 .pf b false] := by
  have hwrite := exec_bar4Write hok off b
  rw [Dev.hostTurn_idle _ hidle, Dev.bar4Write_word hoff hb hin] at hwrite
  have hstore : s.dev.writeWord (bar4Acc .pf {}) (mkDpa 0 off) 0 b =
      (({ s.dev with mem := (s.dev.mem.putList (mkDpa 0 off) b).setDiff (mkDpa 0 off) 0 }).breakRsv (mkDpa 0 off) 32 none, sOk) := by
    unfold Dev.writeWord
    dsimp only
    rw [hloc]
    exact Dev.storeWord_full hfree hb 0
  rw [hstore] at hwrite
  refine ⟨_, hwrite, ?_⟩
  generalize hd : (Dev.count _ none 0 5 b.length) = d
  have hmem : d.mem = (s.dev.mem.putList (mkDpa 0 off) b).setDiff (mkDpa 0 off) 0 := by
    rw [← hd, Dev.count_mem, Dev.breakRsv_mem]
  have hview : d.besideStore = s.dev.besideStore := by
    rw [← hd]
    exact (Dev.count_besideStore _ _ _ _ _).trans ((Dev.breakRsv_besideStore _ _ _ _).trans rfl)
  have hok' : d.hostOk .pf = true := by rw [← Dev.hostOk_besideStore, hview]; exact hok
  have hheld : d.kpm.held = s.dev.kpm.held := congrArg (·.kpm.held) hview
  have hform : d.formedGranules = s.dev.formedGranules := congrArg (·.formedGranules) hview
  have hloc' : d.locate (mkDpa 0 off) = .hbm h p w false := by rw [← Dev.locate_besideStore, hview]; exact hloc
  have hdiff : d.mem.diff (mkDpa 0 off) = 0 := by
    rw [hmem]
    simp [Mem.diff, Mem.setDiff]
  have hbytes : d.mem.bytes (mkDpa 0 off) 32 = b := by
    rw [hmem, ← hb]
    exact (Mem.bytes_setDiff _ _ _ _ _).trans (Mem.bytes_putList _ _ _ hwf)
  refine ⟨fun a ha => ?_, ?_⟩
  · rw [hmem, Mem.byte_setDiff]
    exact Mem.byte_putList_other _ _ _ _ (by rwa [hb])
  · have hread := exec_bar4Read (s := { s with dev := d }) hok' off 32
    rw [Dev.hostTurn_idle _ (fun x hx => hidle x (hheld ▸ hx)), Dev.bar4Answer, Dev.bar4Read_word hoff (hform ▸ hin),
      Dev.readWord_clean rfl hloc' hdiff rfl, hbytes, List.take_of_length_le (Nat.le_of_eq hb)] at hread
    refine ⟨_, hread, Dev.count_mem _ _ _ _ _, ?_⟩
    obtain ⟨l, hl⟩ := d.count_out none 0 4 32
    exact ⟨l, congrArg (· ++ [Out.bar4 .pf b false]) hl⟩

/-- Settles O26: a whole word in the formed extent is one store and one read of a word; the host waits for nothing where none of its writes is kept back. -/
theorem bar4ReadsWhatItWrote : Obligations.Bar4ReadsWhatItWrote := by
  intro s off b hok hwf hb hoff
  refine ⟨fun len => ⟨_, exec_bar4Read hok off len, _, rfl, rfl⟩, fun hidle => ⟨fun h p w hin _ hloc hfree => ?_, fun h p w hin _ hloc hheld => ?_, fun hout => ?_⟩⟩
  · exact bar4_word_readback hok hwf hb hoff hidle (by omega) hloc hfree
  · have hwrite := exec_bar4Write hok off b
    have hkeep : (s.dev.writeWord (bar4Acc .pf {}) (mkDpa 0 off) 0 b).1 = s.dev.keepBack (bar4Acc .pf {}) (mkDpa 0 off) b false := by
      unfold Dev.writeWord
      dsimp only
      rw [hloc]
      dsimp only
      unfold Dev.storeWord
      rw [if_pos (show s.dev.isHeld (mkDpa 0 off) (bar4Acc .pf {}).slot = true from hheld), Nat.add_zero]
    rw [Dev.hostTurn_idle _ hidle, Dev.bar4Write_word hoff hb (by omega), hkeep] at hwrite
    have hview := Dev.count_besideStore (s.dev.keepBack (bar4Acc .pf {}) (mkDpa 0 off) b false) none 0 5 b.length
    exact ⟨_, _, hwrite, Dev.count_mem _ _ _ _ _, congrArg (·.kpm.held) hview, rfl, rfl, rfl⟩
  · have hread := exec_bar4Read hok off 32
    rw [Dev.hostTurn_idle _ hidle, Dev.bar4Answer, Dev.bar4Read_beyond hoff hout] at hread
    refine ⟨_, hread, Dev.count_mem _ _ _ _ _, ?_⟩
    obtain ⟨l, hl⟩ := s.dev.count_out none 0 4 32
    exact ⟨l, congrArg (· ++ [Out.bar4 .pf (List.replicate 32 0) false]) hl⟩

end Sys2Proof.Machine
end


section
/-!
SYS_NODE and the accesses of BAR0 (09 R218, 21 R435-R438).
-/
namespace Sys2Proof.Machine

/-! An access to another node while this module has no ID. -/

theorem locate_noNode {d : Dev} {a : Nat} (hnode : d.sys.node = 0xFF#8) (hloc : isLocal a = false) :
    d.locate a = .bad (if 4 ≤ dpaSpace a then sPerm else sUnmapped) := by
  have hbeq : (d.sys.node == 0xFF) = true := by simp [hnode]
  unfold Dev.locate
  dsimp only
  rw [if_pos (by simp [hloc])]
  by_cases h : 4 ≤ dpaSpace a
  · rw [if_pos h, if_pos h]
  · rw [if_neg h, if_pos hbeq, if_neg h]

/-- The word of an address has its node and space. -/
theorem dpaNode_word (a : Nat) : dpaNode (a - a % 32) = dpaNode a := by
  simp only [dpaNode, bf_eq]
  omega

theorem dpaSpace_word (a : Nat) : dpaSpace (a - a % 32) = dpaSpace a := by
  simp only [dpaSpace, bf_eq]
  omega

/-- An access within one word that lies nowhere ends with the reason. -/
theorem Dev.readBytes_bad {d : Dev} {acc : Acc} {a n : Nat} {s : BitVec 16} (hpos : 0 < n) (hin : d.canon a % 32 + n ≤ 32)
    (hloc : d.locate (d.canon a) = .bad s) (hword : d.locate (d.canon a - d.canon a % 32) = .bad s) : (d.readBytes acc a n).st = thenSt sOk s := by
  have hread : d.readWord acc (d.canon a - d.canon a % 32) = (d, d.wordData (d.canon a - d.canon a % 32) s, s) := by
    have hrlc : d.rlcSite acc (.bad s) = none := by
      unfold Dev.rlcSite
      split
      · simp [Loc.isMem]
      · rfl
    unfold Dev.readWord
    rw [hword]
    dsimp only
    rw [hrlc]
    rfl
  unfold Dev.readBytes
  rw [if_neg (by omega)]
  dsimp only
  rw [hloc]
  dsimp only
  rw [wordsOf_inWord hpos hin]
  simp only [List.foldl, hread]
  rfl

theorem Dev.writeBytes_bad {d : Dev} {acc : Acc} {a : Nat} {b : List Byte} {s : BitVec 16} (hpos : b ≠ []) (hin : d.canon a % 32 + b.length ≤ 32)
    (hword : d.locate (d.canon a - d.canon a % 32) = .bad s) : (d.writeBytes acc a b).st = thenSt sOk s := by
  have hwrite : d.writeWord acc (d.canon a - d.canon a % 32) (d.canon a % 32) b = (d, s) := by
    unfold Dev.writeWord
    rw [hword]
  unfold Dev.writeBytes
  dsimp only
  rw [cutWords_inWord hpos hin, if_neg (by simpa using hpos)]
  simp only [List.foldl, hwrite]
  rfl

/-- SYS_NODE written by the management function. -/
theorem exec_sysNodeWrite {s : State} (hok : s.dev.hostOk .pf = true) (v : BitVec 32) :
    exec (.sysNodeWrite .pf v) s = .next { s with dev := (s.dev.hostTurn.wrNode v.toNat).flushRegs {} } :=
  onHost_ok s .pf {} (fun d => if Fn.pf == .pf then d.wrNode v.toNat else d) hok

theorem nodeId_field (v : BitVec 32) : BitVec.ofNat 8 (bf v.toNat 7 0) = v.setWidth 8 := by
  apply BitVec.eq_of_toNat_eq
  simp [bf_eq]

/-- Settles O55: the write of SYS_NODE by its one guard; an access to another node ends where the address is located. -/
theorem nodeId : Obligations.NodeId := by
  refine ⟨fun s v t hok ht => ⟨fun h => ?_, fun hlive hne => ?_⟩, fun d acc a n b hnode hloc hpos hin hlen => ?_⟩
  · refine (exec_sysNodeWrite hok v).trans (next_congr s (congrArg (Dev.flushRegs · {}) ?_))
    have hguard : ¬((!t.livePart.isEmpty && v.setWidth 8 != t.sys.node) = true) := by
      rcases h with h | h <;> simp [h]
    rw [← ht]
    unfold Dev.wrNode
    dsimp only
    rw [nodeId_field, if_neg hguard, bit_toNat]
  · refine (exec_sysNodeWrite hok v).trans (next_congr s (congrArg (Dev.flushRegs · {}) ?_))
    rw [← ht]
    unfold Dev.wrNode
    dsimp only
    rw [nodeId_field, if_pos (by simp [hlive, hne])]
  · have hnil : b ≠ [] := List.ne_nil_of_length_pos (by omega)
    have hat := locate_noNode hnode hloc
    have hword : d.locate (d.canon a - d.canon a % 32) = .bad (if 4 ≤ dpaSpace (d.canon a) then sPerm else sUnmapped) := by
      rw [locate_noNode hnode (by rw [isLocal, dpaNode_word]; exact hloc), dpaSpace_word]
    have hread := Dev.readBytes_bad (acc := acc) hpos hin hat hword
    have hwrite := Dev.writeBytes_bad (acc := acc) hnil (by omega) hword
    refine ⟨fun hsp => ?_, fun hsp => ?_⟩
    · rw [hread, hwrite, if_neg (by omega)]
      decide
    · rw [hread, hwrite, if_pos (by omega)]
      decide

/-! Accesses of BAR0 (21 R437). -/

theorem take_leBytes (k j : Nat) : ∀ n : Nat, (leBytes (k + j) n).take k = leBytes k n := by
  induction k with
  | zero => exact fun _ => rfl
  | succ k ih =>
    intro n
    rw [Nat.add_right_comm, leBytes_succ, leBytes_succ, List.take_succ_cons, ih]

theorem pow_bytes_four : 256 ^ 4 = 2 ^ 32 := by decide

theorem slotsOf_four {off : Nat} (h : off % 8 = 0 ∨ off % 8 = 4) : slotsOf off 4 = [off / 8 * 8] := by
  unfold slotsOf
  rw [if_neg (by decide), show (off + (4 - 1)) / 8 + 1 - off / 8 = 1 by omega]
  simp

section
variable (d : Dev) (e : Env) (fn : Fn) (map : Nat → Option Nat)

/-- A write of fewer than four bytes covers no register. -/
theorem Dev.regWriteBytes_short {off : Nat} {b : List Byte} (h : b.length < 4) : d.regWriteBytes e fn map off b = d := by
  unfold Dev.regWriteBytes
  refine foldl_leaves (fun x : Dev => x) _ (fun x s => ?_) _ d
  have hguard : ¬((decide (off ≤ s) && decide (s + 4 ≤ off + b.length)) = true) := by
    simp
    omega
  exact if_neg hguard

/-- A write of the upper half of a slot covers no register. -/
theorem Dev.regWriteBytes_upper {off v : Nat} (h : off % 8 = 4) : d.regWriteBytes e fn map off (leBytes 4 v) = d := by
  unfold Dev.regWriteBytes
  rw [length_leBytes, slotsOf_four (.inr h)]
  refine if_neg ?_
  simp
  omega

/-- A write of the lower half of a slot writes the register that lies there, if one does. -/
theorem Dev.regWriteBytes_lower {off m : Nat} (v : Nat) (h : off % 8 = 0) (hmap : map off = some m) :
    d.regWriteBytes e fn map off (leBytes 4 v) = d.regWrite e fn m (v % 2 ^ 32) := by
  have hval : leNat ((leBytes 4 v).drop (off - off) |>.take 4) = v % 2 ^ 32 := by
    rw [Nat.sub_self, List.drop_zero, List.take_of_length_le (Nat.le_of_eq (length_leBytes 4 v)), leNat_leBytes, pow_bytes_four]
  unfold Dev.regWriteBytes
  rw [length_leBytes, slotsOf_four (.inl h), show off / 8 * 8 = off by omega, List.foldl_cons, List.foldl_nil, if_pos (by simp), hmap]
  exact congrArg (d.regWrite e fn m) hval

theorem Dev.regWriteBytes_nowhere {off : Nat} (v : Nat) (h : off % 8 = 0) (hmap : map off = none) : d.regWriteBytes e fn map off (leBytes 4 v) = d := by
  unfold Dev.regWriteBytes
  rw [length_leBytes, slotsOf_four (.inl h), show off / 8 * 8 = off by omega, List.foldl_cons, List.foldl_nil, if_pos (by simp), hmap]

/-- A read of the lower half of a slot reads the register that lies there. -/
theorem Dev.regReadBytes_lower {off m : Nat} (h : off % 8 = 0) (hmap : map off = some m) :
    d.regReadBytes fn map off 4 = (d.regSide fn m, leBytes 4 (d.regVal fn m)) := by
  unfold Dev.regReadBytes
  rw [slotsOf_four (.inl h), show off / 8 * 8 = off by omega, h]
  simp only [List.foldl, hmap]
  rw [if_neg (by omega)]
  exact Prod.ext rfl (take_leBytes 4 4 _)

/-- A register the function does not see: a write is ignored, a read answers zero. -/
theorem Dev.regWrite_hidden {m : Nat} (hfn : fn ≠ .pf) (hvis : d.regVisible (fnOwner fn) m = false) (v : Nat) : d.regWrite e fn m v = d :=
  if_pos (by simp [hfn, hvis])

theorem Dev.regVal_hidden {m : Nat} (hfn : fn ≠ .pf) (hvis : d.regVisible (fnOwner fn) m = false) : d.regVal fn m = 0 :=
  if_pos (by simp [hfn, hvis])

end

/-- Accesses of the host to BAR0. -/
theorem exec_registerWrite {s : State} {fn : Fn} (hok : s.dev.hostOk fn = true) (off size : Nat) (v : BitVec 64) (e : Env) :
    exec (.registerWrite fn off size v e) s =
      .next { s with dev := ((s.dev.hostTurn.applyEnv e).regWriteBytes e fn (fnMap fn) off (leBytes (min size 8) v.toNat)).flushRegs e } :=
  onHost_ok s fn e (fun d => (d.applyEnv e).regWriteBytes e fn (fnMap fn) off (leBytes (min size 8) v.toNat)) hok

theorem exec_registerRead_four {s : State} {fn : Fn} (hok : s.dev.hostOk fn = true) {off m : Nat} (h : off % 8 = 0) (hmap : fnMap fn off = some m) :
    exec (.registerRead fn off 4) s = .next { s with dev :=
      ((s.dev.hostTurn.regSide fn m).emit (.reg fn off (s.dev.hostTurn.regVal fn m % 2 ^ 32))).flushRegs {} } := by
  refine (onHost_ok s fn {} (fun d => (d.regReadBytes fn (fnMap fn) off (min 4 8)).1.emit
    (.reg fn off (leNat (d.regReadBytes fn (fnMap fn) off (min 4 8)).2))) hok).trans (next_congr s (congrArg (Dev.flushRegs · {}) ?_))
  rw [show min 4 8 = 4 from rfl, Dev.regReadBytes_lower _ _ _ h hmap, leNat_leBytes, pow_bytes_four]

/-- A register of the management function written with no earlier write of its own kept back. -/
theorem exec_pfRegisterWrite {s : State} (hok : s.dev.hostOk .pf = true) {off : Nat} (h : off % 8 = 0) (hlt : off < 2 ^ 26) (v : BitVec 64) :
    exec (.registerWrite .pf off 4 v {}) s = .next { s with dev := (s.dev.hostTurn.regWrite {} .pf off (v.toNat % 2 ^ 32)).flushRegs {} } := by
  have hmap : fnMap .pf off = some off := if_pos hlt
  refine (exec_registerWrite hok off 4 v {}).trans (next_congr s (congrArg (Dev.flushRegs · {}) ?_))
  rw [show min 4 8 = 4 from rfl, Dev.regWriteBytes_lower _ _ _ _ _ h hmap]
  rfl

/-- Bits written 1 are cleared. -/
theorem w1c_field {w : Nat} (x : BitVec w) (v : BitVec 64) (h : w ≤ 32) : w1c x (v.toNat % 2 ^ 32 % 2 ^ 32) = x &&& ~~~(v.setWidth w) := by
  have hv : BitVec.ofNat w (v.toNat % 2 ^ 32 % 2 ^ 32) = v.setWidth w := by
    apply BitVec.eq_of_toNat_eq
    simp [Nat.mod_mod_of_dvd _ (Nat.pow_dvd_pow 2 h)]
  rw [w1c, hv]

/-- LNK_TIMEOUT keeps to its range. -/
theorem lnkTimeout_range (v : BitVec 64) :
    (BitVec.ofNat 20 (max 100 (min 1000000 (bf (v.toNat % 2 ^ 32 % 2 ^ 32) 19 0)))).toNat = max 100 (min 1000000 (v.toNat % 2 ^ 20)) := by
  rw [bf_eq, BitVec.toNat_ofNat]
  omega

/-- Settles O53: an access comes down to the one slot it touches. -/
theorem registerAccess : Obligations.RegisterAccess := by
  intro s fn off m v e t hok ht
  subst ht
  refine ⟨fun size hsize => ?_, fun h8 hmap => ?_, fun h8 hmap hfn hvis => ⟨?_, ?_⟩, fun h4 => ?_, fun h8 hmap => ⟨?_, exec_registerRead_four hok h8 hmap⟩,
    fun hpf => ⟨?_, ?_, ?_⟩⟩
  · rw [exec_registerWrite hok, Dev.regWriteBytes_short _ _ _ _ (by rw [length_leBytes]; omega)]
  · rw [exec_registerWrite hok, show min 4 8 = 4 from rfl, Dev.regWriteBytes_nowhere _ _ _ _ _ h8 hmap]
  · rw [exec_registerWrite hok, show min 4 8 = 4 from rfl, Dev.regWriteBytes_lower _ _ _ _ _ h8 hmap]
    rw [Dev.regWrite_hidden (s.dev.hostTurn.applyEnv e) e fn hfn hvis]
  · have hread := exec_registerRead_four hok h8 hmap
    simp only [Dev.regVal_hidden _ _ hfn hvis, Nat.zero_mod] at hread
    exact hread
  · rw [exec_registerWrite hok, show min 4 8 = 4 from rfl, Dev.regWriteBytes_upper _ _ _ _ h4]
  · rw [exec_registerWrite hok, show min 4 8 = 4 from rfl, Dev.regWriteBytes_lower _ _ _ _ _ h8 hmap]
  · subst hpf
    refine ⟨_, exec_pfRegisterWrite hok (by decide) (by decide) v, ?_, rfl, rfl⟩
    exact congrArg (fun x => ({ s.dev.hostTurn.pwr with evt := x } : Pwr)) (w1c_field s.dev.hostTurn.pwr.evt v (by decide))
  · subst hpf
    refine ⟨_, exec_pfRegisterWrite hok (by decide) (by decide) v, ?_, s.dev.hostTurn_data.kept.trans ?_, rfl⟩
    · exact congrArg (fun x => ({ s.dev.hostTurn.lnk with evt := x } : Lnk)) (w1c_field s.dev.hostTurn.lnk.evt v (by decide))
    · exact .of_eq rfl rfl rfl rfl rfl rfl rfl rfl rfl rfl rfl
  · subst hpf
    refine ⟨_, exec_pfRegisterWrite hok (by decide) (by decide) v, ?_, s.dev.hostTurn_data.kept.trans ?_, rfl⟩
    · exact lnkTimeout_range v
    · exact .of_eq rfl rfl rfl rfl rfl rfl rfl rfl rfl rfl rfl

end Sys2Proof.Machine
end


section
/-!
What accesses to data leave of the Dispatcher (11 R243): the packets in flight but for their outcomes, ABORTs, SENDs and VERIFYs.
-/
namespace Sys2Proof.Machine

section
variable (d : Dev) (acc : Acc)

theorem Dev.ite_berth {d a b : Dev} {c : Prop} [Decidable c] (ha : a.berth = d.berth) (hb : b.berth = d.berth) :
    (if c then a else b).berth = d.berth := Dev.ite_part Dev.berth ha hb

/-! Words and bytes. -/

theorem Dev.setMem_berth (m : Mem) : ({ d with mem := m } : Dev).berth = d.berth := rfl

theorem Dev.poisonWord_berth (w : Nat) : (d.poisonWord acc w).berth = d.berth := by
  unfold Dev.poisonWord
  split
  · rfl
  · exact (Dev.breakRsv_berth _ _ _ _).trans (d.setMem_berth _)

@[simp] theorem Dev.touchWord_berth (w : Nat) (loc : Loc) : (d.touchWord acc w loc).1.berth = d.berth := by
  have hpois : ∀ y : Dev, y.berth = d.berth → (y.poisonWord acc w).berth = d.berth := fun y hy => (y.poisonWord_berth acc w).trans hy
  unfold Dev.touchWord
  cases loc
  case hbm h p i a =>
    dsimp only
    split
    · exact (Dev.tallyRow_berth _ _ _ _ _).trans (hpois _ (by simp))
    · split
      · split
        · exact (Dev.count_berth _ _ _ _ _).trans rfl
        · rfl
      · split
        · exact (Dev.count_berth _ _ _ _ _).trans rfl
        · split
          · dsimp only
            exact Dev.ite_berth (hpois _ (by simp)) (by simp)
          · exact (Dev.tallyRow_berth _ _ _ _ _).trans (hpois _ (by simp))
  case slice n c off =>
    dsimp only
    split
    · rfl
    · split
      · exact (Dev.tallyLane_berth _ _ _ _ _ _ _).trans ((Dev.count_berth _ _ _ _ _).trans rfl)
      · split
        · dsimp only
          exact Dev.ite_berth (hpois _ (by simp)) (by simp)
        · exact hpois _ (by simp)
  case sram n c off =>
    dsimp only
    split
    · rfl
    · split
      · exact (Dev.count_berth _ _ _ _ _).trans rfl
      · split
        · simp
        · exact hpois _ (by simp)
  all_goals rfl

theorem Dev.touchLine_berth (tag : Nat) : (d.touchLine acc tag).1.berth = d.berth := by
  unfold Dev.touchLine
  exact foldl_leaves (fun x : Dev × List (BitVec 16) => x.1.berth) _ (fun x w => x.1.touchWord_berth acc w _) _ (d, [])

/-- A count where a range has one. -/
theorem Dev.countAt_berth {d x : Dev} (o i : Option Nat) (f : Nat → Nat) (n : Nat) (h : x.berth = d.berth) :
    (match i with | some i => x.count o 0 (f i) n | none => x).berth = d.berth := by
  split
  · exact (x.count_berth _ _ _ _).trans h
  · exact h

theorem Dev.fetchLine_berth (site w : Nat) : (d.fetchLine acc site w).1.berth = d.berth := by
  unfold Dev.fetchLine
  extract_lets tag r d1 d2 st d3
  have h1 : d1.berth = d.berth := (Dev.askExt_berth _ _ _ _ _).trans (d.touchLine_berth acc _)
  have h2 : d2.berth = d.berth := Dev.countAt_berth acc.owner (d1.locate w).memIdx id 256 h1
  exact Dev.ite_berth h2 h2

@[simp] theorem Dev.readWord_berth (w : Nat) : (d.readWord acc w).1.berth = d.berth := by
  unfold Dev.readWord
  dsimp only
  split
  · exact d.touchWord_berth acc w _
  · split
    · split
      · exact (Dev.fetchLine_berth _ _ _ _).trans ((Dev.count_berth _ _ _ _ _).trans rfl)
      · exact (Dev.count_berth _ _ _ _ _).trans rfl
    · exact (Dev.fetchLine_berth _ _ _ _).trans (Dev.count_berth _ _ _ _ _)

theorem Dev.storeWord_berth (w o : Nat) (b : List Byte) : (d.storeWord acc w o b).1.berth = d.berth := by
  unfold Dev.storeWord
  split
  · rfl
  · split
    · exact (Dev.breakRsv_berth _ _ _ _).trans rfl
    · extract_lets r
      have hr : r.1.berth = d.berth := d.touchWord_berth _ _ _
      split
      · exact (r.1.poisonWord_berth acc w).trans hr
      · exact (Dev.breakRsv_berth _ _ _ _).trans hr

@[simp] theorem Dev.writeWord_berth (w o : Nat) (b : List Byte) : (d.writeWord acc w o b).1.berth = d.berth := by
  have hout : ∀ (s : BitVec 16) (m : Mem), (if isExc s then d else { d with mem := m }).berth = d.berth := fun s m => Dev.ite_berth rfl rfl
  unfold Dev.writeWord
  dsimp only
  split
  · rfl
  · rfl
  · exact d.storeWord_berth _ _ _ _
  · split
    · rfl
    · exact d.storeWord_berth _ _ _ _
  · exact d.storeWord_berth _ _ _ _
  · split
    · exact hout _ _
    · rfl
  · exact hout _ _
  · exact hout _ _

@[simp] theorem Dev.writeBytes_berth (a : Nat) (b : List Byte) : (d.writeBytes acc a b).d.berth = d.berth := by
  unfold Dev.writeBytes
  extract_lets a' r d2
  have hr : r.d.berth = d.berth :=
    foldl_leaves (fun x : WrR => x.d.berth) _ (fun x p => x.d.writeWord_berth acc p.1 p.2.1 p.2.2) _ { d := d }
  split
  · exact hr
  · have h2 : d2.berth = d.berth := Dev.countAt_berth acc.owner (d.locate a').memIdx (· + 1) _ hr
    exact (Dev.askExt_berth _ _ _ _ _).trans h2

@[simp] theorem Dev.poisonRange_berth (a n : Nat) : (d.poisonRange acc a n).berth = d.berth := by
  unfold Dev.poisonRange
  split
  · rfl
  · extract_lets a' x
    have hx : x.berth = d.berth := by
      refine foldl_leaves Dev.berth _ (fun y w => ?_) _ d
      split
      · exact y.poisonWord_berth _ _
      · exact Dev.ite_berth rfl (y.poisonWord_berth _ _)
      · exact y.poisonWord_berth _ _
      · rfl
    clear_value x
    split
    · exact hx
    · exact hx

/-! Writes kept back and the store buffers. -/

@[simp] theorem Dev.applyEnv_flight (e : Env) : (d.applyEnv e).flight = d.flight := rfl

@[simp] theorem Dev.meet_flight (e : Env) (o : Option Nat) : (d.meet e o).flight = d.flight :=
  (congrArg Dev.flight (d.meet_besideCounts e o) :)

/-- The outcome of a packet is no part of what accesses leave alone. -/
@[simp] theorem Dev.failPkt_berth (o : Nat) (s : BitVec 16) : (d.failPkt o s).berth = d.berth := by
  have hbare : ∀ p : Pkt, Pkt.bare (if p.ord == o then
      { p with status := p.asListed (thenSt p.status s), result := if isExc s && !isExc p.status then Config.freeValue d.free else p.result }
      else p) = p.bare := fun p => by split <;> rfl
  have hl : (d.failPkt o s).disp.pkts.map Pkt.bare = d.disp.pkts.map Pkt.bare :=
    (List.map_map ..).trans (List.map_congr_left fun p _ => hbare p)
  show ((({ d.disp with regq := [], tlb := [], pkts := (d.failPkt o s).disp.pkts.map Pkt.bare } : Disp), d.time.scanAt, d.lpe, d.lnk.held, d.sys.node, d.kpm.last),
    d.queues) = d.berth
  rw [hl]
  rfl

theorem Dev.makeHeld_berth (e : Env) (h : HeldW) : (d.makeHeld e h).berth = d.berth := by
  unfold Dev.makeHeld
  refine Dev.ite_berth (d.poisonWord_berth _ _) ?_
  extract_lets r
  have hr : r.1.berth = d.berth := d.writeWord_berth _ _ _ _
  split
  · exact Dev.ite_berth hr ((Dev.failPkt_berth _ _ _).trans hr)
  · exact hr

theorem Dev.releaseHeld_berth (e : Env) : (d.releaseHeld e).berth = d.berth :=
  foldl_leaves Dev.berth _ (fun x h => x.makeHeld_berth e h) d.kpm.held { d with kpm := { d.kpm with held := [] } }

theorem Dev.endHold_berth (e : Env) (k : Nat) : (d.endHold e k).berth = d.berth := by
  unfold Dev.endHold
  dsimp only
  split
  · rfl
  · exact (Dev.releaseHeld_berth _ _).trans (Dev.ite_berth (d := d) rfl rfl)

@[simp] theorem Dev.awaitHeld_berth (e : Env) (sel : HeldW → Bool) : (d.awaitHeld e sel).berth = d.berth :=
  foldl_leaves Dev.berth _ (fun x _ => x.endHold_berth e _) _ d

theorem Dev.issueEntry_berth (env : Env) (k : Nat) (e : SbEntry) : (d.issueEntry env k e).berth = d.berth := by
  unfold Dev.issueEntry
  extract_lets acc r
  have hr : r.d.berth = d.berth := by
    refine foldl_leaves (fun x : WrR => x.d.berth) _ (fun x p => ?_) _ { d := d }
    exact x.d.writeBytes_berth _ _ _
  exact Dev.ite_berth hr ((Dev.failPkt_berth _ _ _).trans hr)

theorem Dev.issueN_berth (e : Env) (k n : Nat) : ∀ d : Dev, (d.issueN e k n).berth = d.berth := by
  induction n with
  | zero => exact fun _ => rfl
  | succ n ih =>
    intro d
    unfold Dev.issueN
    split
    · rfl
    · exact (ih _).trans ((Dev.issueEntry_berth _ _ _ _).trans rfl)

@[simp] theorem Dev.drain_berth (e : Env) (k : Nat) : (d.drain e k).berth = d.berth :=
  (Dev.awaitHeld_berth _ _ _).trans (Dev.issueN_berth _ _ _ d)

@[simp] theorem Dev.drainPkt_berth (e : Env) (p : Pkt) : (d.drainPkt e p).berth = d.berth :=
  foldl_leaves Dev.berth _ (fun x k => x.drain_berth e k) _ d

theorem Dev.countSb_berth (o : Nat) (f : Bool) : (d.countSb o f).berth = d.berth := Dev.ite_berth rfl rfl

theorem Dev.sbPush_berth (e : Env) (p : Pkt) (k blk o : Nat) (b : List Byte) : (d.sbPush e p k blk o b).berth = d.berth := by
  unfold Dev.sbPush
  dsimp only
  split
  · refine Dev.ite_berth rfl ?_
    exact Eq.trans rfl (Dev.ite_berth (d := d) ((Dev.issueN_berth _ _ _ _).trans (d.countSb_berth _ _)) rfl)
  · rfl

theorem Dev.coreWrite_berth (p : Pkt) (k a : Nat) (b : List Byte) : (d.coreWrite p acc k a b).d.berth = d.berth := by
  unfold Dev.coreWrite
  dsimp only
  split
  · exact d.writeBytes_berth _ _ _
  · split
    · exact (Dev.writeBytes_berth _ _ _ _).trans (d.drain_berth _ _)
    · split
      · rfl
      · exact foldl_leaves Dev.berth _ (fun x y => x.sbPush_berth _ _ _ _ _ _) _ d

/-! Accesses of a packet. -/

@[simp] theorem Dev.writeA_berth (p : Pkt) (a : Nat) (b : List Byte) : (d.writeA p acc a b).d.berth = d.berth := by
  unfold Dev.writeA
  split
  · exact d.coreWrite_berth _ _ _ _ _
  · exact d.writeBytes_berth _ _ _

@[simp] theorem Dev.writeP_berth (p : Pkt) (e : Env) (a : Nat) (b : List Byte) : (d.writeP p e a b).d.berth = d.berth := by
  unfold Dev.writeP
  refine foldl_leaves (fun x : WrR × List Byte => x.1.d.berth) _ (fun x q => ?_) _ ({ d := d }, b)
  dsimp only
  split
  · rfl
  · exact x.1.d.writeA_berth _ _ _ _

@[simp] theorem Dev.poisonP_berth (p : Pkt) (e : Env) (a n : Nat) : (d.poisonP p e a n).berth = d.berth :=
  (foldl_leaves Dev.berth (fun (d : Dev) (q : Nat × Nat) => d.poisonRange (p.acc e) q.1 q.2) (fun x _ => x.poisonRange_berth _ _ _) _ _).trans
    (d.drainPkt_berth e p)

end

/-! What reads leave, which may read registers, and so all accesses. -/

/-- A relation that an access respects, for what it does beside the part that writes leave alone and for the reads of registers. -/
structure Reads (R : Dev → Dev → Prop) : Prop where
  /-- One after the other. -/
  trans : ∀ {d x y}, R d x → R x y → R d y
  /-- What no write reaches stays. -/
  berth : ∀ {d x : Dev}, x.berth = d.berth → R d x
  /-- Registers are read. -/
  regBytes : ∀ (d : Dev) o off n, R d (d.regBytes o off n).1

section
variable {R : Dev → Dev → Prop} (S : Reads R) (d : Dev) (acc : Acc)
include S

theorem Reads.foldlOn {α β : Type} (p : β → Dev) {f : β → α → β} (h : ∀ b a, R (p b) (p (f b a))) (l : List α) : ∀ b, R (p b) (p (l.foldl f b)) := by
  induction l with
  | nil => exact fun b => S.berth rfl
  | cons a r ih => exact fun b => S.trans (h b a) (ih (f b a))

theorem Dev.readBytes_reads (a n : Nat) : R d (d.readBytes acc a n).d := by
  unfold Dev.readBytes
  split
  · exact S.berth rfl
  · extract_lets a' r direct
    split
    · split
      · exact S.regBytes _ _ _ _
      · exact S.berth rfl
    · extract_lets d2 d3
      have hr : r.d.berth = d.berth := foldl_leaves (fun x : RdR => x.d.berth) _ (fun x w => x.d.readWord_berth acc w) _ { d := d }
      have h2 : d2.berth = d.berth := Dev.countAt_berth acc.owner (d.locate a').memIdx id _ hr
      exact S.berth (Dev.ite_berth ((Dev.askExt_berth _ _ _ _ _).trans h2) h2)

theorem Dev.coreLoad_reads (p : Pkt) (k a n : Nat) : R d (d.coreLoad p acc k a n).d := by
  unfold Dev.coreLoad
  dsimp only
  split
  · exact d.readBytes_reads S _ _ _
  · split
    · exact S.berth rfl
    · exact S.trans (S.berth ((Dev.awaitHeld_berth _ _ _).trans ((Dev.issueN_berth _ _ _ _).trans (d.countSb_berth _ _)))) (Dev.readBytes_reads S _ _ _ _)

theorem Dev.coreRead_reads (p : Pkt) (k a n : Nat) : R d (d.coreRead p acc k a n).d := by
  unfold Dev.coreRead
  dsimp only
  split
  · exact d.readBytes_reads S _ _ _
  · split
    · exact S.trans (S.berth (d.drain_berth _ _)) (Dev.readBytes_reads S _ _ _ _)
    · refine S.foldlOn (fun x : RdR => x.d) (fun x q => ?_) _ { d := d }
      exact x.d.coreLoad_reads S acc p k _ _

theorem Dev.readA_reads (p : Pkt) (a n : Nat) : R d (d.readA p acc a n).d := by
  unfold Dev.readA
  split
  · exact d.coreRead_reads S _ _ _ _ _
  · exact d.readBytes_reads S _ _ _

theorem Dev.readP_reads (p : Pkt) (e : Env) (a n : Nat) : R d (d.readP p e a n).d := by
  unfold Dev.readP
  refine S.foldlOn (fun x : RdR => x.d) (fun x q => ?_) _ { d := d }
  dsimp only
  split
  · exact S.berth rfl
  · exact x.d.readA_reads S _ _ _ _

/-- All accesses respect it. -/
theorem Reads.accesses : Accesses R where
  refl _ := S.berth rfl
  trans := S.trans
  readBytes d := d.readBytes_reads S
  writeBytes d acc a b := S.berth (d.writeBytes_berth acc a b)
  poisonRange d acc a n := S.berth (d.poisonRange_berth acc a n)
  readA d p acc a n := d.readA_reads S acc p a n
  readP d := d.readP_reads S
  writeP d p e a b := S.berth (d.writeP_berth p e a b)
  poisonP d p e a n := S.berth (d.poisonP_berth p e a n)
  count d o g i n := S.berth (d.count_berth o g i n)
  rest _ _ _ _ := S.berth rfl

end

/-- The Dispatcher but for outcomes, and what else accesses leave alone. -/
theorem flightReads : Reads (fun d x => x.flight = d.flight) where
  trans h g := g.trans h
  berth h := congrArg Prod.fst h
  regBytes d := d.regBytes_flight

/-- Every operation built from accesses leaves the Dispatcher alone but for outcomes. -/
theorem flightAccesses : Accesses (fun d x => x.flight = d.flight) := flightReads.accesses

section
variable (d : Dev) (acc : Acc)

theorem Dev.ite_flight {d a b : Dev} {c : Prop} [Decidable c] (ha : a.flight = d.flight) (hb : b.flight = d.flight) :
    (if c then a else b).flight = d.flight := Dev.ite_part Dev.flight ha hb

@[simp] theorem Dev.readBytes_flight (a n : Nat) : (d.readBytes acc a n).d.flight = d.flight := d.readBytes_reads flightReads acc a n
@[simp] theorem Dev.writeBytes_flight (a : Nat) (b : List Byte) : (d.writeBytes acc a b).d.flight = d.flight := congrArg Prod.fst (d.writeBytes_berth acc a b)
@[simp] theorem Dev.awaitHeld_flight (e : Env) (sel : HeldW → Bool) : (d.awaitHeld e sel).flight = d.flight := congrArg Prod.fst (d.awaitHeld_berth e sel)
@[simp] theorem Dev.drain_flight (e : Env) (k : Nat) : (d.drain e k).flight = d.flight := congrArg Prod.fst (d.drain_berth e k)
@[simp] theorem Dev.drainPkt_flight (e : Env) (p : Pkt) : (d.drainPkt e p).flight = d.flight := congrArg Prod.fst (d.drainPkt_berth e p)
@[simp] theorem Dev.readP_flight (p : Pkt) (e : Env) (a n : Nat) : (d.readP p e a n).d.flight = d.flight := d.readP_reads flightReads p e a n
@[simp] theorem Dev.writeP_flight (p : Pkt) (e : Env) (a : Nat) (b : List Byte) : (d.writeP p e a b).d.flight = d.flight := congrArg Prod.fst (d.writeP_berth p e a b)

@[simp] theorem Dev.readDva_flight (ls : List Leaf) (a n : Nat) : (d.readDva acc ls a n).d.flight = d.flight := by
  unfold Dev.readDva
  refine foldl_leaves (fun x : RdR => x.d.flight) _ (fun x q => ?_) _ { d := d }
  dsimp only
  split
  · rfl
  · exact x.d.readBytes_flight _ _ _

end

end Sys2Proof.Machine
end


section
/-!
Operations of the arrays and the vector unit (05 R115-R127, 12 R270): what their packet holds when they are done.
-/
namespace Sys2Proof.Machine

/-- A packet in flight, seen without its outcome. -/
theorem Dev.pkt?_bare (d : Dev) (q : QRef) (tag : BitVec 16) :
    (d.pkt? q tag).map Pkt.bare = (d.disp.pkts.map Pkt.bare).find? (fun p => p.q == q && p.tag == tag) := by
  rw [List.find?_map]
  rfl

/-- A packet stays in flight across accesses, with the outcome it has then. -/
theorem Dev.pkt?_of_flight {d x : Dev} {q : QRef} {tag : BitVec 16} {p : Pkt} (h : x.flight = d.flight) (hp : d.pkt? q tag = some p) :
    ∃ y, x.pkt? q tag = some y ∧ y.bare = p.bare := by
  have hl : x.disp.pkts.map Pkt.bare = d.disp.pkts.map Pkt.bare := congrArg (fun f : Flight => f.1.pkts) h
  have hx := x.pkt?_bare q tag
  rw [hl, ← d.pkt?_bare, hp] at hx
  exact Option.map_eq_some_iff.1 hx

/-- The packet of an effect that ends. -/
theorem Dev.close_pkt {d : Dev} {q : QRef} {tag : BitVec 16} {p y : Pkt} (h : d.pkt? q tag = some y) (hord : y.ord = p.ord) (st : BitVec 16) (res : Nat) :
    ∃ z, (d.close p st res).pkt? q tag = some z ∧ z.ord = p.ord ∧ z.phase = .done ∧ z.status = thenSt st y.status ∧
      (p.resultSaid st res = true → z.result = BitVec.ofNat 64 res) := by
  unfold Dev.close
  rw [← hord]
  split
  · exact ⟨_, d.finish_pkt q tag y h st res, rfl, rfl, rfl, fun _ => rfl⟩
  · next hsaid => exact ⟨_, d.draw.finish_pkt q tag y h st _, rfl, rfl, rfl, fun hs => absurd hs hsaid⟩

/-- A status that is no exception was none before an earlier one was noted. -/
theorem isExc_thenSt {a b : BitVec 16} (h : isExc (thenSt a b) = false) : isExc a = false ∧ isExc b = false := by
  unfold thenSt at h
  split at h
  · next ha => exact absurd h (by simp [ha])
  · next ha =>
    split at h
    · next hb => exact absurd h (by simp [hb])
    · next hb => exact ⟨by simpa using ha, by simpa using hb⟩

theorem isExc_asListed {p : Pkt} {st : BitVec 16} (h : isExc (p.asListed st) = false) : isExc st = false := by
  unfold Pkt.asListed at h
  split at h
  · next hc =>
    have hst : st = sCorrected := by
      have := (Bool.and_eq_true _ _ ▸ hc : _ ∧ _).1
      simpa using this
    rw [hst]
    decide
  · exact h

/-- The opcodes whose RESULT the specification leaves to the implementation even where nothing fails. -/
def openResultOps : List Nat := [0x04, 0x37, 0x52, 0x60, 0x61]

/-- The packet of an operation that has ended is done. -/
theorem concluded_done {q : QRef} {tag : BitVec 16} {p y : Pkt} {r : OpR} (hy : r.d.pkt? q tag = some y) (hord : y.ord = p.ord) :
    ∃ p', (Dev.conclude p r).pkt? q tag = some p' ∧ p'.phase = .done ∧ p'.status = thenSt (p.asListed r.st) y.status ∧
      (p.resultSaid (p.asListed r.st) r.res = true → p'.result = BitVec.ofNat 64 r.res) := by
  obtain ⟨z, hclose, hz, hphase, hstatus, hsaid⟩ := Dev.close_pkt hy hord (p.asListed r.st) r.res
  have hmod := Dev.modPkt_pkt hclose (f := fun x => { x with wrote := r.wrote, trig := if isExc r.st then [] else r.d.triggered p.owner r.wrote })
    (fun _ => rfl) (fun _ => rfl)
  rw [hz] at hmod
  exact ⟨_, hmod, hphase, hstatus, hsaid⟩

/-- RESULT is said where nothing failed. -/
theorem resultSaid_ok {p : Pkt} {st : BitVec 16} (hst : isExc st = false) (hopen : p.opc.toNat ∉ openResultOps) (res : Nat) : p.resultSaid st res = true := by
  have hop : List.contains [0x04, 0x37, 0x52, 0x60, 0x61] p.opc.toNat = false := by simpa [openResultOps] using hopen
  unfold Pkt.resultSaid
  rw [hst, hop]
  rfl

/-- An operation concluded across accesses: its packet is done, with its RESULT where nothing failed. -/
theorem conclude_pkt {d : Dev} {q : QRef} {tag : BitVec 16} {p : Pkt} {r : OpR} (hp : d.pkt? q tag = some p) (hr : r.d.flight = d.flight) :
    ∃ p', (Dev.conclude p r).pkt? q tag = some p' ∧ p'.phase = .done ∧
      (p.opc.toNat ∉ openResultOps → isExc p'.status = false → isExc r.st = false ∧ p'.result = BitVec.ofNat 64 r.res) := by
  obtain ⟨y, hy, hbare⟩ := Dev.pkt?_of_flight hr hp
  obtain ⟨p', hp', hdone, hstatus, hsaid⟩ := concluded_done hy (congrArg Pkt.ord hbare :)
  refine ⟨p', hp', hdone, fun hopen hexc => ?_⟩
  have hst : isExc (p.asListed r.st) = false := (isExc_thenSt (hstatus ▸ hexc)).1
  exact ⟨isExc_asListed hst, hsaid (resultSaid_ok hst hopen _)⟩

/-! RESULT of the operations (12 Tables 12-4, 12-5). -/

theorem Dev.opGemm_res {d : Dev} {p : Pkt} {e : Env} (h : isExc (d.opGemm p e).st = false) : (d.opGemm p e).res =
    ((if p.opc == 0x12 then p.conv.batch * p.conv.oh * p.conv.ow else p.shape.m) + 63) / 64 *
      (((if p.opc == 0x12 then (p.td 0 1).cols else p.shape.n) + 63) / 64) % 2 ^ 32 + 2 ^ 32 * b2n p.det := by
  revert h
  unfold Dev.opGemm
  extract_lets conv s cv ta tb td tc m k n cEn bEn bf x y c bi st
  split
  · next hst => exact fun h => absurd (hst.symm.trans h) (by decide)
  · exact fun _ => rfl

theorem Dev.opVxu_res {d : Dev} {p : Pkt} {e : Env} (h : isExc (d.opVxu p e).st = false) : (d.opVxu p e).res = (p.td 1 1).rows * (p.td 1 1).cols := by
  revert h
  unfold Dev.opVxu
  extract_lets op tx ty tz t yEn x y z st
  split
  · next hst => exact fun h => absurd (hst.symm.trans h) (by decide)
  · exact fun _ => rfl

theorem Dev.opNorm_res {d : Dev} {p : Pkt} {e : Env} (h : isExc (d.opNorm p e).st = false) : (d.opNorm p e).res = (p.td 0 0).rows % 2 ^ 32 := by
  revert h
  unfold Dev.opNorm
  extract_lets tx t v aff x g b st dst
  split
  · next hst => exact fun h => absurd (hst.symm.trans h) (by decide)
  · exact fun _ => rfl

theorem Dev.opOptim_res {d : Dev} {p : Pkt} {e : Env} (h : isExc (d.opOptim p e).st = false) : (d.opOptim p e).res = p.f 1 39 0 := by
  revert h
  unfold Dev.opOptim
  extract_lets n adam cp gf a dst w g m v st
  split
  · next hst => exact fun h => absurd (hst.symm.trans h) (by decide)
  · exact fun _ => rfl

/-! The commands. -/

section
variable {s : State} {q : QRef} {tag : BitVec 16} {c : Nat} {p : Pkt} (h : Runs s.dev q tag c p) (e : Env)
include h

/-- A command on units whose packet runs: held units run nothing. -/
theorem onCores_runs (hplain : c ∉ [0x31, 0x32, 0x33, 0x34, 0x36, 0x37]) (f : Dev → Pkt → OpR) :
    onRun s e (fun d => (d.meet e (some (qOwner q))).onCores [c] q tag f) =
      .next { s with dev := (if (s.dev.meet e (some (qOwner q))).unitsHeld p then s.dev.meet e (some (qOwner q))
        else Dev.conclude p (f (s.dev.meet e (some (qOwner q))) p)).flushRegs e } :=
  onRun_pkt_in h (List.mem_singleton.2 rfl) e (fun d => d.meet e (some (qOwner q))) (s.dev.meet_disp _ _) hplain
    (fun d p => if d.unitsHeld p then d else Dev.conclude p (f d p))

/-- An operation on data that ends: nothing but data has changed, and its packet is done with its RESULT. -/
theorem opDone {r : OpR} {n : Nat} (hdata : DataStep (s.dev.meet e (some (qOwner q))) r.d) (hflight : r.d.flight = (s.dev.meet e (some (qOwner q))).flight)
    (hopen : c ∉ openResultOps) (hres : isExc r.st = false → r.res = n) :
    Kept s.dev (Dev.conclude p r) ∧ ∃ p', (Dev.conclude p r).pkt? q tag = some p' ∧ p'.phase = .done ∧
      (isExc p'.status = false → p'.result = BitVec.ofNat 64 n) := by
  have hpkt : (s.dev.meet e (some (qOwner q))).pkt? q tag = some p := (Dev.pkt?_congr (s.dev.meet_disp _ _) _ _).trans h.here
  obtain ⟨p', hp', hdone, hresult⟩ := conclude_pkt hpkt hflight
  refine ⟨(((s.dev.meet_data e _).trans hdata).trans (Dev.conclude_data p r)).kept, p', hp', hdone, fun hexc => ?_⟩
  obtain ⟨hst, heq⟩ := hresult (h.opc ▸ hopen) hexc
  rw [heq, hres hst]

end

/-- Settles O41: each operation is built from accesses; a pause that ends and an entry issued are one step each. -/
theorem tensorCommands : Obligations.TensorCommands := by
  intro s q tag e p d hd
  subst hd
  refine ⟨fun c op hc h => ?_, fun c op res f hc h hf => ?_, fun site core u hup => ⟨fun hhalt => ?_, fun hhalt => ?_⟩, fun site core x l hup hsb => ?_⟩
  · have hrun : exec c s = onRun s e (fun d => (d.meet e (some (qOwner q))).onCores [op] q tag (fun d p => d.opGemm p e)) ∧
        op ∉ [0x31, 0x32, 0x33, 0x34, 0x36, 0x37] ∧ op ∉ openResultOps := by
      simp only [List.mem_cons, Prod.mk.injEq, List.not_mem_nil, or_false] at hc
      rcases hc with ⟨rfl, rfl⟩ | ⟨rfl, rfl⟩ | ⟨rfl, rfl⟩ <;> exact ⟨rfl, by decide, by decide⟩
    obtain ⟨hexec, hplain, hopen⟩ := hrun
    have hopc : (p.opc == 0x12) = decide (op = 0x12) := by
      rw [← h.opc]
      exact decide_eq_decide.2 ⟨fun h => by rw [h]; rfl, fun h => BitVec.eq_of_toNat_eq h⟩
    rw [hexec, onCores_runs h e hplain]
    refine ⟨fun hheld => by rw [if_pos hheld], fun hheld => ?_⟩
    obtain ⟨hkept, p', hp', hdone, hres⟩ := opDone h e (Dev.opGemm_data _ p e) (Dev.opGemm_step flightAccesses _ p e) hopen Dev.opGemm_res
    refine ⟨_, p', by rw [if_neg (by simp [hheld])], rfl, hkept, hp', hdone, fun hexc => ?_⟩
    rw [hres hexc, hopc]
    simp only [decide_eq_true_eq]
  · have hrun : exec c s = onRun s e (fun d => (d.meet e (some (qOwner q))).onCores [op] q tag
          (fun d p => if op = 0x13 then d.opVxu p e else if op = 0x14 then d.opNorm p e else d.opOptim p e)) ∧
        op ∉ [0x31, 0x32, 0x33, 0x34, 0x36, 0x37] ∧ op ∉ openResultOps ∧
        (∀ d, DataStep d (f d).d ∧ (f d).d.flight = d.flight ∧ (isExc (f d).st = false → (f d).res = res)) := by
      subst hf
      simp only [List.mem_cons, Prod.mk.injEq, List.not_mem_nil, or_false] at hc
      rcases hc with ⟨rfl, rfl, rfl⟩ | ⟨rfl, rfl, rfl⟩ | ⟨rfl, rfl, rfl⟩
      · exact ⟨rfl, by decide, by decide, fun d => ⟨d.opVxu_data p e, d.opVxu_step flightAccesses p e, Dev.opVxu_res⟩⟩
      · exact ⟨rfl, by decide, by decide, fun d => ⟨d.opNorm_data p e, d.opNorm_step flightAccesses p e, Dev.opNorm_res⟩⟩
      · exact ⟨rfl, by decide, by decide, fun d => ⟨d.opOptim_data p e, d.opOptim_step flightAccesses p e, Dev.opOptim_res⟩⟩
    obtain ⟨hexec, hplain, hopen, hop⟩ := hrun
    obtain ⟨hdata, hflight, hres⟩ := hop (s.dev.meet e (some (qOwner q)))
    have hfd : (if op = 0x13 then (s.dev.meet e (some (qOwner q))).opVxu p e else if op = 0x14 then (s.dev.meet e (some (qOwner q))).opNorm p e
        else (s.dev.meet e (some (qOwner q))).opOptim p e) = f (s.dev.meet e (some (qOwner q))) := by
      rw [hf]
      split
      · rfl
      · split <;> rfl
    rw [hexec, onCores_runs h e hplain, hfd]
    refine ⟨fun hheld => by rw [if_pos hheld], fun hheld => ?_⟩
    obtain ⟨hkept, p', hp', hdone, hresult⟩ := opDone h e hdata hflight hopen hres
    exact ⟨_, p', by rw [if_neg (by simp [hheld])], rfl, hkept, hp', hdone, hresult⟩
  · exact (onRun_on s {} (fun d => if d.halt site.val then d else { d with units := tdel d.units (6 * coreKey site.val core.val + u.val) }) hup).trans
      (next_congr s (by rw [if_neg (by simp [hhalt])]))
  · exact (onRun_on s {} (fun d => if d.halt site.val then d else { d with units := tdel d.units (6 * coreKey site.val core.val + u.val) }) hup).trans
      (next_congr s (by rw [if_pos hhalt]))
  · refine (onRun_on s e (fun d => (d.applyEnv e).issueN e (coreKey site.val core.val) 1) hup).trans (next_congr s (congrArg (Dev.flushRegs · e) ?_))
    have hsb' : (s.dev.applyEnv e).sbOf (coreKey site.val core.val) = x :: l := hsb
    unfold Dev.issueN
    rw [hsb']
    rfl

end Sys2Proof.Machine
end


section
/-!
Attention and VERIFY (15 R328-R340).
-/
namespace Sys2Proof.Machine

theorem thenSt_exc {a : BitVec 16} (h : isExc a = true) (b : BitVec 16) : thenSt a b = a := if_pos h

/-! ATTEND (15 R328). -/

/-- Sequences attended one after the other until one fails: where none fails, every row was written. -/
theorem foldl_rows {f : Got SeqOut × Nat → SeqEntry → Got SeqOut × Nat} (hstop : ∀ x s, isExc x.1.st = true → f x s = x)
    (hrow : ∀ x s, isExc (f x s).1.st = false → (f x s).2 = x.2 + s.qLen) (l : List SeqEntry) :
    ∀ x, isExc (l.foldl f x).1.st = false → (l.foldl f x).2 = l.foldl (fun n y => n + y.qLen) x.2 := by
  have hstuck : ∀ (l : List SeqEntry) x, isExc x.1.st = true → l.foldl f x = x := by
    intro l
    induction l with
    | nil => exact fun _ _ => rfl
    | cons a r ih => exact fun x hx => by rw [List.foldl_cons, hstop x a hx, ih x hx]
  induction l with
  | nil => exact fun _ _ => rfl
  | cons a r ih =>
    intro x hx
    rw [List.foldl_cons] at hx ⊢
    cases hfa : isExc (f x a).1.st with
    | true =>
      rw [hstuck r _ hfa, hfa] at hx
      cases hx
    | false => rw [ih _ hx, hrow x a hfa, List.foldl_cons]

theorem sumRows_filter (l : List SeqEntry) : ∀ n : Nat, (l.filter (fun s => s.qLen != 0)).foldl (fun n y => n + y.qLen) n = l.foldl (fun n y => n + y.qLen) n := by
  induction l with
  | nil => exact fun _ => rfl
  | cons a r ih =>
    intro n
    by_cases h : a.qLen = 0
    · rw [List.filter_cons_of_neg (by simp [h]), ih, List.foldl_cons, h, Nat.add_zero]
    · rw [List.filter_cons_of_pos (by simp [h]), List.foldl_cons, List.foldl_cons, ih]

/-- RESULT of an attention that did not fail counts its rows. -/
theorem Dev.opAttend_res {d : Dev} {p : Pkt} {e : Env} (h : isExc (d.opAttend p e none 0).st = false) :
    (d.opAttend p e none 0).res % 2 ^ 32 = (p.seqs.foldl (fun n y => n + y.qLen) 0) % 2 ^ 32 := by
  revert h
  unfold Dev.opAttend
  extract_lets t r g f w x
  have hf : f.st = g.st := by
    dsimp only [f]
    split <;> rfl
  split
  · next hexc =>
    intro h
    rw [← hf] at hexc
    exact absurd (hexc.symm.trans h) (by decide)
  · next hexc =>
    intro _
    have hr : r.2 = p.seqs.foldl (fun n y => n + y.qLen) 0 := by
      refine Eq.trans (foldl_rows ?_ ?_ _ _ (by simpa using hexc)) (sumRows_filter _ _)
      · intro x s hx
        exact if_pos hx
      · intro x s hx
        revert hx
        dsimp only
        split
        · next hxe => exact fun hx => absurd (hxe.symm.trans hx) (by decide)
        · split
          · next hye => exact fun hx => absurd (hye.symm.trans hx) (by decide)
          · exact fun _ => rfl
    dsimp only
    rw [hr]
    omega

/-! VERIFY (15 R331-R340). -/

@[simp] theorem Dev.close_verifies (d : Dev) (p : Pkt) (st : BitVec 16) (res : Nat) : (d.close p st res).disp.verifies = d.disp.verifies := by
  rcases d.close_cases p st res with ⟨-, heq⟩ | ⟨r, heq⟩ <;> rw [heq] <;> rfl

/-- A VERIFY taken out of those kept. -/
theorem Dev.verify?_dropped {d : Dev} {p : Pkt} {l : List RunVerify} (h : d.disp.verifies = l.filter (fun x => !(x.q == p.q && x.tag == p.tag))) :
    d.verify? p = none := by
  unfold Dev.verify?
  rw [h, List.find?_eq_none]
  intro v hv
  have hother := (List.mem_filter.1 hv).2
  rw [Bool.not_eq_true, ← Bool.not_eq_true']
  exact hother

theorem Dev.countRolled_disp (d : Dev) (o : Nat) : (d.countRolled o).disp = d.disp := by
  unfold Dev.countRolled
  split <;> rfl

/-- A VERIFY that is cancelled is kept no longer, and its packet is done. -/
theorem Dev.cancelVerify_ends {d : Dev} {q : QRef} {tag : BitVec 16} {p y : Pkt} (hp : d.pkt? q tag = some y) (hord : y.ord = p.ord)
    (e : Env) (st : BitVec 16) : (∃ t, DoneWith (d.cancelVerify e st p) q tag (thenSt st t)) ∧ (d.cancelVerify e st p).verify? p = none := by
  unfold Dev.cancelVerify
  extract_lets x src z
  have hx : x.flight = d.flight := by
    dsimp only [x]
    split
    · rfl
    · exact Dev.rollbackAll_step flightAccesses _ _ _
  obtain ⟨w, hw, hbare⟩ := Dev.pkt?_of_flight hx hp
  have hz : (z.countRolled p.owner).pkt? q tag = some w := (Dev.pkt?_congr (d := z) (z.countRolled_disp _) q tag).trans hw
  refine ⟨⟨w.status, doneWith_close hz ?_ st 0⟩, Dev.verify?_dropped (l := x.disp.verifies) ?_⟩
  · exact (congrArg Pkt.ord hbare :).trans hord
  · rw [Dev.close_verifies, Dev.countRolled_disp]

theorem Dev.conclude_verifies (p : Pkt) (r : OpR) : (Dev.conclude p r).disp.verifies = r.d.disp.verifies :=
  r.d.close_verifies _ _ _

/-- A VERIFY that commits is kept no longer, and its packet is done. -/
theorem Dev.commitVerify_ends {d : Dev} {q : QRef} {tag : BitVec 16} {p y : Pkt} (hp : d.pkt? q tag = some y) (hord : y.ord = p.ord)
    (e : Env) (v : RunVerify) (a : Accepted) (st : BitVec 16) :
    (∃ p', (d.commitVerify p e v a st).pkt? q tag = some p' ∧ p'.phase = .done) ∧ (d.commitVerify p e v a st).verify? p = none := by
  unfold Dev.commitVerify
  extract_lets c toks w x src y1 n x2 z st2 res wrote
  have hw : w.d.flight = d.flight := (Dev.writeP_flight _ _ _ _ _).trans (Dev.commitAll_step flightAccesses _ _ _ _ _)
  have hz : z.disp = y1.disp := by
    dsimp only [z]
    split <;> rfl
  obtain ⟨u, hu, hbare⟩ := Dev.pkt?_of_flight hw hp
  have hzu : z.pkt? q tag = some u := (Dev.pkt?_congr hz q tag).trans hu
  have huord : u.ord = p.ord := (congrArg Pkt.ord hbare :).trans hord
  have hdrop : z.disp.verifies = w.d.disp.verifies.filter (fun x => !(x.q == p.q && x.tag == p.tag)) := congrArg Disp.verifies hz
  split
  · exact ⟨⟨_, huord ▸ z.draw.finish_pkt q tag u hzu st2 _, rfl⟩, Dev.verify?_dropped hdrop⟩
  · obtain ⟨p', hp', hdone, -⟩ := concluded_done (r := { d := z, st := st2, res := res, wrote := wrote }) hzu huord
    exact ⟨⟨p', hp', hdone⟩, Dev.verify?_dropped ((Dev.conclude_verifies _ _).trans hdrop)⟩

/-- Acceptance of a VERIFY whose stream has ended: it commits or is cancelled, and is kept no longer. -/
theorem Dev.acceptVerify_ends {d : Dev} {q : QRef} {tag : BitVec 16} {p y : Pkt} {v : RunVerify} (hp : d.pkt? q tag = some y) (hord : y.ord = p.ord)
    (hv : d.verify? p = some v) (hended : v.ended = true) (e : Env) :
    (∃ p', (d.acceptVerify p e).pkt? q tag = some p' ∧ p'.phase = .done) ∧ (d.acceptVerify p e).verify? p = none := by
  have cancel : ∀ (x : Dev) (st : BitVec 16), x.flight = d.flight →
      (∃ p', (x.cancelVerify e st p).pkt? q tag = some p' ∧ p'.phase = .done) ∧ (x.cancelVerify e st p).verify? p = none := by
    intro x st hx
    obtain ⟨w, hw, hbare⟩ := Dev.pkt?_of_flight hx hp
    obtain ⟨⟨t, p', hp', hdone, -⟩, hnone⟩ := Dev.cancelVerify_ends hw ((congrArg Pkt.ord hbare :).trans hord) e st
    exact ⟨⟨p', hp', hdone⟩, hnone⟩
  unfold Dev.acceptVerify
  rw [hv]
  dsimp only
  rw [if_neg (by simp [hended])]
  have ha : (d.pagesFull p e v).d.flight = d.flight := Dev.pagesFull_step flightAccesses _ _ _ _
  generalize d.pagesFull p e v = a at ha ⊢
  have hu : (a.d.verifyU p e v.tree.length).d.flight = d.flight := (Dev.verifyU_step flightAccesses _ _ _ _).trans ha
  generalize a.d.verifyU p e v.tree.length = u at hu ⊢
  have hg := (acceptFrom_step flightAccesses p e v (p.f 6 17 16) u.v (v.tree.length + 1) 0 u.d [] (thenSt a.st u.st)).trans hu
  generalize acceptFrom p e v (p.f 6 17 16) u.v (v.tree.length + 1) 0 u.d [] (thenSt a.st u.st) = g at hg ⊢
  split
  · exact cancel _ _ ha
  · split
    · exact cancel _ _ hu
    · split
      · exact cancel _ _ hu
      · split
        · exact cancel _ _ hg
        · obtain ⟨w, hw, hbare⟩ := Dev.pkt?_of_flight hg hp
          exact Dev.commitVerify_ends hw ((congrArg Pkt.ord hbare :).trans hord) e v g.v g.st

/-- A packet of a VERIFY's stream that cannot be read fails the VERIFY. -/
theorem Dev.stepStream_unread {d : Dev} {p : Pkt} {e : Env} {v : RunVerify} (hv : d.verify? p = some v) (hrun : v.ended = false)
    (hexc : isExc (d.readStream p e v.off 64).st = true) :
    d.stepStream p e = (d.readStream p e v.off 64).d.cancelVerify e (d.readStream p e v.off 64).st p := by
  unfold Dev.stepStream
  rw [hv]
  dsimp only
  rw [if_neg (by simp [hrun]), if_pos hexc]

theorem Dev.stepStream_ended {d : Dev} {p : Pkt} {e : Env} {v : RunVerify} (hv : d.verify? p = some v) (hend : v.ended = true) : d.stepStream p e = d := by
  unfold Dev.stepStream
  rw [hv]
  exact if_pos hend

theorem Dev.acceptVerify_running {d : Dev} {p : Pkt} {e : Env} {v : RunVerify} (hv : d.verify? p = some v) (hrun : v.ended = false) :
    d.acceptVerify p e = d := by
  unfold Dev.acceptVerify
  rw [hv]
  exact if_pos (by simp [hrun])

/-- What a VERIFY keeps of itself while its stream runs. -/
def verifyKept (p : Pkt) (r : RdR) : RunVerify :=
  { q := p.q, tag := p.tag, tree := treeOf r.bytes, vocab := fieldAt p.hdr 0 4, fmt := fieldAt p.hdr 4 1,
    stride := fieldAt p.hdr 8 4, temp := BitVec.ofNat 32 (fieldAt p.hdr 12 4), corr := r.st == sCorrected }

section
variable {d : Dev} {p : Pkt} {e : Env} {r : RdR} (hnone : d.verify? p = none) (hr : r = d.readP p e (p.f 2 47 0) (16 * p.f 6 6 0)) (hst : isExc r.st = false)
include hnone hr hst

theorem Dev.opVerify_keeps (hshape : treeShape (treeOf r.bytes) (p.f 6 12 8) = true) (hdraft : p.f 6 17 16 = 0 ∨ draftsOk (treeOf r.bytes) = true) :
    d.opVerify p e = { r.d with disp := { r.d.disp with verifies := r.d.disp.verifies ++ [verifyKept p r] } } := by
  unfold Dev.opVerify
  rw [if_neg (by simp [hnone]), ← hr]
  dsimp only
  rw [if_neg (by simp [hst]), if_neg (by rcases hdraft with h | h <;> simp [hshape, h])]
  rfl

theorem Dev.opVerify_rejects (hshape : treeShape (treeOf r.bytes) (p.f 6 12 8) = false) : d.opVerify p e = r.d.rejectTree p sBadParam := by
  unfold Dev.opVerify
  rw [if_neg (by simp [hnone]), ← hr]
  dsimp only
  rw [if_neg (by simp [hst]), if_pos (by simp [hshape])]

end

/-- A command on a packet, once what it meets outside has happened. -/
theorem meetPkt_runs {s : State} {q : QRef} {tag : BitVec 16} {c : Nat} {p : Pkt} (h : Runs s.dev q tag c p) (e : Env)
    (hplain : c ∉ [0x31, 0x32, 0x33, 0x34, 0x36, 0x37]) (f : Dev → Pkt → Dev) :
    onRun s e (fun d => (d.meet e (some (qOwner q))).onPkt [c] q tag f) = .next { s with dev := (f (s.dev.meet e (some (qOwner q))) p).flushRegs e } :=
  onRun_pkt_in h (List.mem_singleton.2 rfl) e (fun d => d.meet e (some (qOwner q))) (s.dev.meet_disp _ _) hplain f

/-- Settles O42: rows are counted as they are attended; a VERIFY is kept while it runs, and its end takes it out. -/
theorem attentionCommands : Obligations.AttentionCommands := by
  intro s q tag e p d hd
  have hpkt (h : Runs s.dev q tag 0x22 p) : d.pkt? q tag = some p := (Dev.pkt?_congr (hd ▸ s.dev.meet_disp _ _) _ _).trans h.here
  have hdata : DataStep s.dev d := hd ▸ s.dev.meet_data e _
  have hverify (h : Runs s.dev q tag 0x22 p) : exec (.verify q tag e) s = .next { s with dev := (if d.unitsHeld p then d else d.opVerify p e).flushRegs e } :=
    hd ▸ meetPkt_runs h e (by decide) (fun d p => if d.unitsHeld p then d else d.opVerify p e)
  have hstream (h : Runs s.dev q tag 0x22 p) : exec (.verifyStreamPacket q tag e) s = .next { s with dev := (d.stepStream p e).flushRegs e } :=
    hd ▸ meetPkt_runs h e (by decide) (fun d p => d.stepStream p e)
  have haccept (h : Runs s.dev q tag 0x22 p) :
      exec (.verifyAcceptance q tag e) s = .next { s with dev := (if d.unitsHeld p then d else d.acceptVerify p e).flushRegs e } :=
    hd ▸ meetPkt_runs h e (by decide) (fun d p => if d.unitsHeld p then d else d.acceptVerify p e)
  refine ⟨fun c op hc h hheld => ?_, fun h hheld hnone r hr => ⟨fun hst hshape hdraft => ?_, fun hst hshape => ?_⟩,
    fun v h hv => ⟨fun hend => ?_, fun hrun => ⟨hstream h, fun hexc => ?_⟩, fun hrun hheld => ?_, fun hend hheld => ?_⟩⟩
  · have hrun : exec c s = onRun s e (fun d => (d.meet e (some (qOwner q))).onCores [op] q tag (fun d p => d.opAttend p e none 0)) ∧
        op ∉ [0x31, 0x32, 0x33, 0x34, 0x36, 0x37] ∧ op ∉ openResultOps := by
      simp only [List.mem_cons, Prod.mk.injEq, List.not_mem_nil, or_false] at hc
      rcases hc with ⟨rfl, rfl⟩ | ⟨rfl, rfl⟩ <;> exact ⟨rfl, by decide, by decide⟩
    obtain ⟨hexec, hplain, hopen⟩ := hrun
    subst hd
    obtain ⟨p', hp', hdone, hres⟩ := conclude_pkt (r := (s.dev.meet e (some (qOwner q))).opAttend p e none 0)
      ((Dev.pkt?_congr (s.dev.meet_disp _ _) _ _).trans h.here) (Dev.opAttend_step flightAccesses _ p e none 0)
    refine ⟨_, p', ?_, rfl, ((hdata.trans (Dev.opAttend_data _ p e none 0)).trans (Dev.conclude_data p _)).kept, hp', hdone, fun hexc => ?_⟩
    · rw [hexec, onCores_runs h e hplain, if_neg (by simp [hheld])]
    · obtain ⟨hst, heq⟩ := hres (h.opc ▸ hopen) hexc
      rw [heq, BitVec.toNat_ofNat, Nat.mod_mod_of_dvd _ (by decide), Dev.opAttend_res hst]
  · refine ⟨{ r.d with disp := { r.d.disp with verifies := r.d.disp.verifies ++ [verifyKept p r] } }, verifyKept p r, (hverify h).trans (next_congr s (congrArg (Dev.flushRegs · e) ?_)), ?_, rfl, rfl, rfl, rfl, rfl, rfl, rfl⟩
    · rw [if_neg (by simp [hheld]), Dev.opVerify_keeps hnone hr hst hshape hdraft]
    · exact ((hdata.trans (hr ▸ Dev.readP_data _ _ _ _ _)).rest).kept
  · have hrd : r.d.flight = d.flight := hr ▸ Dev.readP_flight _ _ _ _ _
    obtain ⟨y, hy, hbare⟩ := Dev.pkt?_of_flight hrd (hpkt h)
    refine ⟨r.d.rejectTree p sBadParam, (hverify h).trans (next_congr s (congrArg (Dev.flushRegs · e) ?_)), ?_, ?_, ?_⟩
    · rw [if_neg (by simp [hheld]), Dev.opVerify_rejects hnone hr hst hshape]
    · exact ((hdata.trans (hr ▸ Dev.readP_data _ _ _ _ _)).trans (Dev.rejectTree_data _ _ _)).kept
    · exact ⟨_, (congrArg Pkt.ord hbare :) ▸ r.d.draw.finish_pkt q tag y hy sBadParam _, rfl, rfl⟩
    · rfl
  · rw [hstream h, Dev.stepStream_ended hv hend]
  · obtain ⟨y, hy, hbare⟩ := Dev.pkt?_of_flight (Dev.readStream_step flightAccesses d p e v.off 64) (hpkt h)
    obtain ⟨⟨t, hdone⟩, hnone⟩ := Dev.cancelVerify_ends hy (congrArg Pkt.ord hbare :) e (d.readStream p e v.off 64).st
    rw [thenSt_exc hexc] at hdone
    exact ⟨_, (hstream h).trans (next_congr s (congrArg (Dev.flushRegs · e) (Dev.stepStream_unread hv hrun hexc))), ⟨_, hexc, hdone⟩, hnone⟩
  · rw [haccept h, if_neg (by simp [hheld]), Dev.acceptVerify_running hv hrun]
  · obtain ⟨⟨p', hp', hdone⟩, hnone⟩ := Dev.acceptVerify_ends (hpkt h) rfl hv hend e
    exact ⟨_, p', (haccept h).trans (next_congr s (congrArg (Dev.flushRegs · e) (if_neg (by simp [hheld])))), hnone, hp', hdone⟩

end Sys2Proof.Machine
end

section
/-!
The field lock, the register master and the test port (19 R407-R420).
-/
namespace Sys2Proof.Machine

/-! The lock as the later statements see it. -/

@[simp] theorem Dev.setLck_lck (d : Dev) (x : Lck) : (d.setLck x).lck = x := rfl

/-- A command refused shows its status and nothing else. -/
theorem Dev.lockGate_shut {d : Dev} {op : Nat} {unlock : Bool} (f : Dev → Dev) (h : d.lck.busy.isSome = true ∨ d.sys.fuseLoaded = false ∨ (d.lck.lockout = true ∧ unlock = true)) :
    d.lockGate op unlock f = d.lckStat op sLocked := by
  refine if_pos ?_
  rcases h with h | h | ⟨h, hu⟩ <;> simp [*]

/-- A command that the gate lets through runs. -/
theorem Dev.lockGate_open {d : Dev} {op : Nat} {unlock : Bool} (f : Dev → Dev) (hbusy : d.lck.busy = none) (hfuse : d.sys.fuseLoaded = true)
    (hlock : unlock = true → d.lck.lockout = false) : d.lockGate op unlock f = f d := by
  refine if_neg ?_
  cases unlock
  · simp [hbusy, hfuse]
  · simp [hbusy, hfuse, hlock rfl]

/-- Where a path reaches the lock, a command by it is carried out. -/
theorem exec_lockPath {s : State} {src : LockPath} {t : Dev} (hhost : src = .host → s.dev.hostOk .pf = true)
    (htap : src = .tap → s.dev.supAlive = true ∧ s.dev.lck.ir = 0x10#8) (ht : t = (if src = .host then s.dev.hostTurn else s.dev)) (f : Dev → Dev) :
    onDev s (fun d => d.lockPath src f) = .next { s with dev := f t } := by
  subst ht
  cases src with
  | host => exact next_congr s (if_pos (hhost rfl))
  | tap =>
    obtain ⟨halive, hir⟩ := htap rfl
    exact next_congr s (if_pos (by simp [halive, hir]))

/-! The commands of the lock. -/

/-- A command of the lock runs: it is the one running, since now, and has changed neither level nor failures, fuses nor memory. -/
structure LockRuns (t x : Dev) (op : Nat) : Prop where
  /-- The command that runs. -/
  busy : x.lck.busy = some (BitVec.ofNat 4 op)
  /-- Since when. -/
  cmdAt : x.lck.cmdAt = t.time.base
  /-- The level. -/
  level : x.lck.level = t.lck.level
  /-- The failures. -/
  fails : x.lck.fails = t.lck.fails
  /-- The fuses. -/
  fuse : x.fuse = t.fuse
  /-- Memory. -/
  mem : x.mem = t.mem

section
variable {t : Dev} (hbusy : t.lck.busy = none) (hfuse : t.sys.fuseLoaded = true)
include hbusy hfuse

theorem Dev.lckOpen_runs (hlock : t.lck.lockout = false) : LockRuns t t.lckOpen 1 := by
  rw [Dev.lckOpen, Dev.lockGate_open _ hbusy hfuse (fun _ => hlock)]
  exact ⟨rfl, rfl, rfl, rfl, rfl, rfl⟩

theorem Dev.lckSubmit_runs (hlock : t.lck.lockout = false) : LockRuns t t.lckSubmit 3 := by
  rw [Dev.lckSubmit, Dev.lockGate_open _ hbusy hfuse (fun _ => hlock)]
  exact ⟨rfl, rfl, rfl, rfl, rfl, rfl⟩

/-- A challenge of level 2 draws twice, and will end with OK. -/
theorem Dev.lckReqChal_runs : LockRuns t (t.lckReqChal 2) 2 ∧ (t.lckReqChal 2).lck.outcome = sOk ∧ (t.lckReqChal 2).free = t.free + 2 := by
  rw [Dev.lckReqChal, Dev.lockGate_open _ hbusy hfuse (by simp)]
  exact ⟨⟨rfl, rfl, rfl, rfl, rfl, rfl⟩, rfl, rfl⟩

/-- A password bank that is free is programmed: the salt is drawn, and the command will end with OK. -/
theorem Dev.lckSetPw_runs (hbanks : t.fuse.pwBanks.length < 8) (hlevel : t.lck.level ≠ 0#2) :
    LockRuns t t.lckSetPw 4 ∧ t.lckSetPw.lck.outcome = sOk ∧ t.lckSetPw.free = t.free + 2 := by
  rw [Dev.lckSetPw, Dev.lockGate_open _ hbusy hfuse (by simp), if_neg (by simp [hlevel]), if_neg (by omega)]
  exact ⟨⟨rfl, rfl, rfl, rfl, rfl, rfl⟩, rfl, rfl⟩

theorem Dev.lckRelock_open : t.lckRelock = t.setLck { t.lck with level := 0, stat := sOk, lastOp := 5 } := by
  rw [Dev.lckRelock, Dev.lockGate_open _ hbusy hfuse (by simp)]
  rfl

end

/-! The end of a command. -/

/-- A running timebase moves; nothing else does. -/
theorem Dev.advTo_lck (d : Dev) (n : Nat) : (d.advTo n).lck = d.lck ∧ (d.advTo n).fuse = d.fuse ∧ (d.advTo n).mem = d.mem := by
  unfold Dev.advTo
  split <;> exact ⟨rfl, rfl, rfl⟩

/-- What the lock judges at the end of an unlock command. -/
def Lck.judged (x : Lck) : Lck :=
  let fails := if x.outcome == sOk then 0 else satAdd x.fails 1
  { x with level := if x.outcome == sOk then (if x.level.toNat < x.newLvl.toNat then x.newLvl else x.level) else x.level
           fails := fails, lockout := x.lockout || 8 ≤ fails.toNat }

theorem Lck.judged_ok {x : Lck} (h : x.outcome = sOk) : x.judged.fails = 0 ∧ x.judged.level.toNat = max x.level.toNat x.newLvl.toNat := by
  simp only [Lck.judged, h, beq_self_eq_true, if_true, true_and]
  split <;> omega

theorem Lck.judged_bad {x : Lck} (h : x.outcome ≠ sOk) :
    x.judged.fails = satAdd x.fails 1 ∧ x.judged.level = x.level ∧ x.judged.lockout = (x.lockout || decide (8 ≤ (satAdd x.fails 1).toNat)) := by
  simp [Lck.judged, h]

/-- The lock with the running command's result shown. -/
def Lck.shown (x : Lck) (op : BitVec 4) : Lck := { x with busy := none, stat := x.outcome, lastOp := op }

section
variable {d : Dev}

theorem Dev.lckDone_open (h : d.lck.busy = some 1#4) : d.lckDone = (d.advTo (d.lck.cmdAt + 10000000)).setLck (d.lck.shown 1).judged := by
  unfold Dev.lckDone
  rw [h]
  simp only [show (1#4 == 1) = true from rfl, if_true, (d.advTo_lck _).1]
  rfl

theorem Dev.lckDone_chal (h : d.lck.busy = some 2#4) : d.lckDone = d.setLck { d.lck.shown 2 with
    chal := some d.lck.newChal, chalView := d.lck.newChal, chalLvl := d.lck.newLvl, chalAt := d.now, newChal := [] } := by
  unfold Dev.lckDone
  rw [h]
  rfl

theorem Dev.lckDone_submit (h : d.lck.busy = some 3#4) : d.lckDone = d.setLck { (d.lck.shown 3).judged with chal := none } := by
  unfold Dev.lckDone
  rw [h]
  rfl

theorem Dev.lckDone_setPw (h : d.lck.busy = some 4#4) :
    d.lckDone = ({ d with fuse := { d.fuse with pwBanks := d.lck.newBank.toList ++ d.fuse.pwBanks } }).setLck { d.lck.shown 4 with newBank := none } := by
  unfold Dev.lckDone
  rw [h]
  rfl

theorem Dev.lckDone_other {op : BitVec 4} (h : d.lck.busy = some op) (h1 : op ≠ 1#4) (h2 : op ≠ 2#4) (h3 : op ≠ 3#4) (h4 : op ≠ 4#4) :
    d.lckDone = d.setLck (d.lck.shown op) := by
  have hne (k : Nat) (hk : op ≠ BitVec.ofNat 4 k) : op.toNat = k → False := fun e => hk (by rw [← e, BitVec.ofNat_toNat, BitVec.setWidth_eq])
  unfold Dev.lckDone
  rw [h]
  simp only [show (op == 1) = false from beq_false_of_ne h1, Bool.false_eq_true, if_false]
  split
  · exact absurd ‹_› (hne 1 h1)
  · exact absurd ‹_› (hne 2 h2)
  · exact absurd ‹_› (hne 3 h3)
  · exact absurd ‹_› (hne 4 h4)
  · rfl

end

/-! The test port. -/

/-- What a walk of the register master leaves alone. -/
def Lck.held (x : Lck) : BitVec 6 × Bool × BitVec 2 := (x.tapCount, x.tapBusy, x.level)

theorem Lck.tapClock_held (x : Lck) (i : Nat) (tms : Bool) : (x.tapClock i tms).held = x.held := by
  unfold Lck.tapClock
  dsimp only
  split
  · rfl
  · split <;> rfl

theorem Lck.tapWalk_held (x : Lck) (n : Nat) : (x.tapWalk n).held = x.held :=
  foldl_leaves Lck.held _ (fun x i => x.tapClock_held i _) _ x

/-- A write of LCK_TAP_CTL with GO set: the count, and whether a shift runs. -/
theorem Dev.wrTapCtl_go (d : Dev) (v : BitVec 32) : (d.wrTapCtl (v.toNat ||| 256)).lck.held =
    (v.setWidth 6, d.lck.tapBusy || (!d.pins.testEn && decide (1 ≤ v.toNat % 64 ∧ v.toNat % 64 ≤ 32)), d.lck.level) := by
  have hcount : bf (v.toNat ||| 256) 5 0 = v.toNat % 64 := by
    rw [bf_eq, Nat.pow_zero, Nat.div_one, Nat.or_mod_two_pow]
    exact Nat.or_zero _
  have hgo : bit (v.toNat ||| 256) 8 = true := by simp [bit, Nat.testBit_or, Nat.testBit_two_pow_self (n := 8)]
  have hwidth : BitVec.ofNat 6 (v.toNat % 64) = v.setWidth 6 := BitVec.eq_of_toNat_eq (by simp)
  unfold Dev.wrTapCtl
  rw [hcount, hgo, hwidth, Dev.setLck_lck]
  dsimp only
  split
  · next h =>
    obtain ⟨⟨⟨hpin, hfree⟩, hlo⟩, hhi⟩ : ((d.pins.testEn = false ∧ d.lck.tapBusy = false) ∧ 1 ≤ v.toNat % 64) ∧ v.toNat % 64 ≤ 32 := by simpa using h
    rw [Lck.tapWalk_held]
    simp [Lck.held, hpin, hlo, hhi]
  · next h =>
    have h' : d.pins.testEn = false → d.lck.tapBusy = false → 1 ≤ v.toNat % 64 → 32 < v.toNat % 64 := by simpa using h
    cases hbusy : d.lck.tapBusy <;> cases hpin : d.pins.testEn
    · have hbig := h' hpin hbusy
      simp only [Lck.held, Bool.false_or, Bool.not_false, Bool.true_and, Prod.mk.injEq, true_and, and_true]
      exact (decide_eq_false (fun ⟨h1, h2⟩ => absurd (hbig h1) (by omega))).symm
    all_goals simp [Lck.held]

@[simp] theorem Lck.tapClock_tms (x : Lck) (i : Nat) (tms : Bool) : (x.tapClock i tms).tms = x.tms := by
  unfold Lck.tapClock
  dsimp only
  split
  · rfl
  · split <;> rfl

/-- A capture under HBM_1500, entered by three clocks from Run-Test/Idle: the fourth puts on TDO whether the port has an operation pending. -/
theorem Lck.tapWalk_capture {x : Lck} (htap : x.tap = .idle) (hir : x.ir = 0x34#8) (h0 : x.tms.getLsbD 0 = true) (h1 : x.tms.getLsbD 1 = false)
    (h2 : x.tms.getLsbD 2 = false) : (x.tapWalk 4).tapFix = x.tapFix ++ [(3, x.port1500)] := by
  have hwalk : x.tapWalk 4 = (((x.tapClock 0 (x.tms.getLsbD 0)).tapClock 1 (x.tms.getLsbD 1)).tapClock 2 (x.tms.getLsbD 2)).tapClock 3 (x.tms.getLsbD 3) := by
    simp [Lck.tapWalk, List.range_succ]
  have h3 : ((x.tapClock 0 true).tapClock 1 false).tap = .capDr ∧ ((x.tapClock 0 true).tapClock 1 false).ir = 0x34#8 ∧
      ((x.tapClock 0 true).tapClock 1 false).port1500 = x.port1500 ∧ ((x.tapClock 0 true).tapClock 1 false).tapFix = x.tapFix := by
    simp [Lck.tapClock, TapSt.next, htap, hir, show (TapSt.selDr == TapSt.updDr) = false from rfl, show (TapSt.capDr == TapSt.updDr) = false from rfl]
  obtain ⟨hcap, hir', hport, hfix⟩ := h3
  rw [hwalk, h0, h1, h2]
  generalize (x.tapClock 0 true).tapClock 1 false = y at *
  simp [Lck.tapClock, TapSt.next, Lck.captured, hcap, hir', hport, hfix]

section
variable {d : Dev} {ir : BitVec 8}

theorem Dev.tapUpdate_bypass (h : tapInstr ir.toNat = none) : d.tapUpdate ir = d.setLck { d.lck with ir := 0xFF#8, refusedIr := false } := by
  simp only [Dev.tapUpdate, h]

variable {lvl : Nat} {b : Bool} (h : tapInstr ir.toNat = some (lvl, b))
include h

theorem Dev.tapUpdate_refused (hne : lvl ≠ 0) (hlow : d.lck.level.toNat < lvl) : d.tapUpdate ir = d.tapRefuse sLocked := by
  simp [Dev.tapUpdate, h, hne, hlow]

/-- An instruction that the level allows, where the module is quiet or the instruction does not disturb it. -/
theorem Dev.tapUpdate_taken (hlvl : lvl ≤ d.lck.level.toNat) (hfuse : d.sys.fuseLoaded = true) (hquiet : b = true → d.quietDevice = true) :
    d.tapUpdate ir = if b then
        let x := ((d.setLck { d.lck with ir := ir, refusedIr := false }).abortNow {} (d.setLck { d.lck with ir := ir, refusedIr := false }).enabled).1
        ({ x with sys := { x.sys with ready := false } }).setLck { x.lck with disturbed := true }
      else d.setLck { d.lck with ir := ir, refusedIr := false } := by
  simp only [Dev.tapUpdate, h]
  rw [if_neg (by simp [hfuse, Nat.not_lt.2 hlvl]), if_neg (by cases b <;> simp_all)]

end

/-- An abort of queues does not reach the lock. -/
theorem Dev.abortNow_lck (d : Dev) (e : Env) (qs : List QRef) : (d.abortNow e qs).1.lck = d.lck := congrArg (·.2.2.2.1) (d.abortNow_work e qs).apart

/-- Settles O52: a command runs where none does and shows its outcome at its end; the test port's instructions by their level. -/
theorem fieldLock : Obligations.FieldLock := by
  intro s src t hhost htap ht
  have hpath := exec_lockPath hhost htap ht
  refine ⟨fun c op hc => ⟨fun hshut => ?_, fun hbusy hfuse hlock hop hpw => ?_⟩, fun hbusy hfuse => ?_, fun op halive hbusy => ?_,
    fun halive hchal => ?_, fun b => ?_, fun v hsrc => ?_, fun tdo halive htapBusy => ?_, fun x hidle hir h0 h1 h2 => Lck.tapWalk_capture hidle hir h0 h1 h2,
    fun ir halive => ⟨fun hnone => ?_, fun lvl b hir => ⟨fun hne hlow => ?_, fun hlvl hfuse hb => ?_, fun hlvl hfuse hb hquiet => ?_⟩⟩⟩
  · have hgate : ∃ (unlock : Bool) (g f : Dev → Dev), exec c s = onDev s (fun d => d.lockPath src f) ∧ f t = t.lockGate op unlock g ∧ (unlock = true) = (op = 1 ∨ op = 3) := by
      simp only [List.mem_cons, Prod.mk.injEq, List.not_mem_nil, or_false] at hc
      rcases hc with ⟨rfl, rfl⟩ | ⟨rfl, rfl⟩ | ⟨rfl, rfl⟩ | ⟨rfl, rfl⟩ | ⟨rfl, rfl⟩ <;> exact ⟨_, _, _, rfl, rfl, by simp⟩
    obtain ⟨unlock, g, f, hexec, hf, hunlock⟩ := hgate
    rw [hexec, hpath f, hf, Dev.lockGate_shut g (hunlock ▸ hshut)]
    rfl
  · simp only [List.mem_cons, Prod.mk.injEq, List.not_mem_nil, or_false] at hc
    rcases hc with ⟨rfl, rfl⟩ | ⟨rfl, rfl⟩ | ⟨rfl, rfl⟩ | ⟨rfl, rfl⟩ | ⟨rfl, rfl⟩
    · obtain ⟨h1, h2, h3, h4, h5, h6⟩ := Dev.lckOpen_runs hbusy hfuse hlock
      exact ⟨_, hpath Dev.lckOpen, h1, h2, h3, h4, h5, h6, by simp⟩
    · obtain ⟨⟨h1, h2, h3, h4, h5, h6⟩, hout⟩ := Dev.lckReqChal_runs hbusy hfuse
      exact ⟨_, hpath (fun d => d.lckReqChal 2), h1, h2, h3, h4, h5, h6, fun _ => hout⟩
    · obtain ⟨h1, h2, h3, h4, h5, h6⟩ := Dev.lckSubmit_runs hbusy hfuse hlock
      exact ⟨_, hpath Dev.lckSubmit, h1, h2, h3, h4, h5, h6, by simp⟩
    · obtain ⟨hbanks, hlevel⟩ := hpw rfl
      obtain ⟨⟨h1, h2, h3, h4, h5, h6⟩, hout⟩ := Dev.lckSetPw_runs hbusy hfuse hbanks hlevel
      exact ⟨_, hpath Dev.lckSetPw, h1, h2, h3, h4, h5, h6, fun _ => hout⟩
    · exact absurd rfl hop
  · exact (hpath Dev.lckRelock).trans (next_congr s (Dev.lckRelock_open hbusy hfuse))
  · refine ⟨s.dev.lckDone, onUp_on s Dev.lckDone halive, ?_⟩
    by_cases h1 : op = 1#4
    · subst h1
      obtain ⟨-, hfuse, hmem⟩ := s.dev.advTo_lck (s.dev.lck.cmdAt + 10000000)
      rw [Dev.lckDone_open hbusy]
      exact ⟨rfl, rfl, rfl, hmem, fun _ => ⟨Lck.judged_ok, Lck.judged_bad⟩, by simp, by simp, by simp, fun _ => hfuse⟩
    by_cases h2 : op = 2#4
    · subst h2
      rw [Dev.lckDone_chal hbusy]
      exact ⟨rfl, rfl, rfl, rfl, by simp, fun _ => ⟨rfl, rfl, rfl⟩, by simp, by simp, fun _ => rfl⟩
    by_cases h3 : op = 3#4
    · subst h3
      rw [Dev.lckDone_submit hbusy]
      exact ⟨rfl, rfl, rfl, rfl, fun _ => ⟨Lck.judged_ok, Lck.judged_bad⟩, by simp, fun _ => rfl, by simp, fun _ => rfl⟩
    by_cases h4 : op = 4#4
    · subst h4
      rw [Dev.lckDone_setPw hbusy]
      exact ⟨rfl, rfl, rfl, rfl, by simp, by simp, by simp, fun _ => rfl, by simp⟩
    · rw [Dev.lckDone_other hbusy h1 h2 h3 h4]
      exact ⟨rfl, rfl, rfl, rfl, by simp [h1, h3], by simp [h2], by simp [h3], by simp [h4], fun _ => rfl⟩
  · refine ⟨s.dev.chalExpire, onUp_on s Dev.chalExpire halive, ?_⟩
    rw [Dev.chalExpire, if_pos hchal]
    refine ⟨?_, fun hstill => ?_⟩
    · rw [Dev.setLck_lck, (s.dev.advTo_lck _).1]
    · simp [Dev.advTo, hstill, Dev.setLck]
  · refine ⟨s.dev.testEnSet b, onDev_next s (fun d => d.testEnSet b), rfl, rfl, rfl, rfl, ?_, ?_⟩
    · rintro rfl
      simp [Dev.testEnSet, Dev.setLck]
    · rintro rfl hb
      simp [Dev.testEnSet, Dev.setLck, hb]
  · subst hsrc
    have hheld := t.wrTapCtl_go v
    simp only [Lck.held, Prod.mk.injEq] at hheld
    obtain ⟨hcount, hgo, hlevel⟩ := hheld
    exact ⟨_, hpath (fun d => d.wrTapCtl (v.toNat ||| 256)), hcount, hgo, hlevel⟩
  · exact (onUp_on s (fun d => d.tapShiftEnd tdo) halive).trans (next_congr s (if_pos htapBusy))
  · exact (onUp_on s (fun d => d.tapUpdate ir) halive).trans (next_congr s (Dev.tapUpdate_bypass hnone))
  · exact (onUp_on s (fun d => d.tapUpdate ir) halive).trans (next_congr s (Dev.tapUpdate_refused hir hne hlow))
  · exact (onUp_on s (fun d => d.tapUpdate ir) halive).trans (next_congr s ((Dev.tapUpdate_taken hir hlvl hfuse (by simp [hb])).trans (if_neg (by simp [hb]))))
  · refine ⟨_, (onUp_on s (fun d => d.tapUpdate ir) halive).trans (next_congr s ((Dev.tapUpdate_taken hir hlvl hfuse (fun _ => hquiet)).trans (if_pos hb))), ?_, rfl, rfl⟩
    rw [Dev.setLck_lck]
    exact congrArg Lck.ir (Dev.abortNow_lck _ _ _)

end Sys2Proof.Machine
end

section
/-!
The registers of pools, pins and keys (14 R295, R296, R309, R316).
-/
namespace Sys2Proof.Machine

/-! A word of core SRAM read and written. -/

/-- The status of a word of SRAM, by the class of its check bits. -/
def sramSt (c : EccClass) : BitVec 16 := if c == .clean then sOk else if c.correctable then sCorrected else if c == .poison then sPoison else sUe
/-- Memory once a word that can be read is corrected. -/
def Mem.mended (m : Mem) (w : Nat) : Mem := if (eccClass (m.diff w)).correctable then m.correct w (eccClass (m.diff w)) else m

/-- The module without memory, counters, outputs and the log of the slices: what a word of SRAM that can be read leaves alone. -/
def Dev.besideLog (d : Dev) : Dev :=
  { d with mem := {}, cnt := {}, out := [], slc := { d.slc with evt := 0, lastInfo := 0, lastAddr := 0 } }

theorem Dev.locate_besideLog (d : Dev) (a : Nat) : d.besideLog.locate a = d.locate a := rfl

theorem Dev.count_besideLog (d : Dev) (own : Option Nat) (g i k : Nat) : (d.count own g i k).besideLog = d.besideLog :=
  (congrArg Dev.besideLog (d.count_besideCounts own g i k) :)

/-- A word of SRAM that is met: its status, and, where it can be read, memory with the word corrected. -/
theorem Dev.touchWord_sram (d : Dev) (acc : Acc) (w n c o : Nat) : (d.touchWord acc w (.sram n c o)).2 = sramSt (eccClass (d.mem.diff w)) ∧
    (isExc (sramSt (eccClass (d.mem.diff w))) = false →
      (d.touchWord acc w (.sram n c o)).1.mem = d.mem.mended w ∧ (d.touchWord acc w (.sram n c o)).1.besideLog = d.besideLog) := by
  unfold Dev.touchWord sramSt Mem.mended
  dsimp only
  split
  · next h =>
    rw [eq_of_beq h]
    exact ⟨rfl, fun _ => ⟨rfl, rfl⟩⟩
  split
  · exact ⟨rfl, fun _ => ⟨Dev.count_mem .., Dev.count_besideLog ..⟩⟩
  split
  · exact ⟨rfl, fun h => absurd h (by decide)⟩
  · exact ⟨rfl, fun h => absurd h (by decide)⟩

/-- A canonical address is its own canonical form. -/
theorem Dev.canon_canon (d : Dev) (a : Nat) : d.canon (d.canon a) = d.canon a := by
  have hpow : 2 ^ (55 + 1 - 48) = 256 := rfl
  unfold Dev.canon dpaNode
  simp only [bf_eq, hpow, beq_iff_eq]
  split <;> split <;> omega


/-- SRAM has no Remote Line Cache in front of an access from outside the cores. -/
theorem Dev.rlcSite_none {d : Dev} {acc : Acc} (h : acc.site = none) (loc : Loc) : d.rlcSite acc loc = none := by
  unfold Dev.rlcSite
  rw [h]

section
variable {d : Dev} {acc : Acc} {a n c o : Nat} (hsite : acc.site = none) (ha : a % 32 = 0) (hcanon : d.canon a = a) (hloc : d.locate a = .sram n c o)
include hsite ha hcanon hloc

omit ha hcanon in
theorem Dev.readWord_sram : d.readWord acc a = ((d.touchWord acc a (.sram n c o)).1,
    (d.touchWord acc a (.sram n c o)).1.wordData a (d.touchWord acc a (.sram n c o)).2, (d.touchWord acc a (.sram n c o)).2) := by
  unfold Dev.readWord
  dsimp only
  rw [hloc, Dev.rlcSite_none hsite]

/-- A whole word of SRAM read by an access from outside the cores. -/
theorem Dev.readBytes_sram_eq : (d.readBytes acc a 32).st = thenSt sOk (sramSt (eccClass (d.mem.diff a))) ∧
    (d.readBytes acc a 32).bytes = ((d.touchWord acc a (.sram n c o)).1.wordData a (sramSt (eccClass (d.mem.diff a)))).take 32 ∧
    (d.readBytes acc a 32).d = ((d.touchWord acc a (.sram n c o)).1.count acc.owner 0 2 32).askExt acc a 32 none := by
  have hrlc : (d.rlcSite acc (.sram n c o)).isNone = true := by rw [Dev.rlcSite_none hsite]; rfl
  unfold Dev.readBytes
  rw [if_neg (by decide)]
  dsimp only
  rw [hcanon, hloc]
  dsimp only
  rw [wordsOf_word ha]
  simp only [List.foldl, Dev.readWord_sram hsite hloc, Dev.touchWord_sram, hrlc, hloc, ha, if_true, List.filter, List.map]
  refine ⟨rfl, rfl, ?_⟩
  simp [Loc.memIdx]

/-- Status and bytes of a word that can be read depend on memory alone; it is corrected, and little else changes. -/
theorem Dev.readBytes_sram (hgood : isExc (d.readBytes acc a 32).st = false) : isExc (sramSt (eccClass (d.mem.diff a))) = false ∧
    (d.readBytes acc a 32).bytes = ((d.mem.mended a).bytes a 32).take 32 ∧ (d.readBytes acc a 32).d.mem = d.mem.mended a ∧ (d.readBytes acc a 32).d.besideLog = d.besideLog := by
  obtain ⟨hst, hbytes, hd⟩ := Dev.readBytes_sram_eq hsite ha hcanon hloc
  have hword : isExc (sramSt (eccClass (d.mem.diff a))) = false := by
    cases h : isExc (sramSt (eccClass (d.mem.diff a)))
    · rfl
    · rw [hst, thenSt, if_neg (by decide), if_pos h] at hgood
      exact absurd hgood (by simp [h])
  obtain ⟨hmem, hbeside⟩ := (d.touchWord_sram acc a n c o).2 hword
  have hcount := (Dev.count_besideLog (d.touchWord acc a (.sram n c o)).1 acc.owner 0 2 32).trans hbeside
  have hask : (d.readBytes acc a 32).d = (d.touchWord acc a (.sram n c o)).1.count acc.owner 0 2 32 := by
    rw [hd]
    unfold Dev.askExt
    rw [← Dev.locate_besideLog, hcount, Dev.locate_besideLog, hloc]
  refine ⟨hword, ?_, by rw [hask, Dev.count_mem, hmem], hask ▸ hcount⟩
  rw [hbytes, Dev.wordData, if_neg (by simp [hword]), hmem]

omit hsite in
/-- A whole word written to SRAM, in no exclusive hold. -/
theorem Dev.writeBytes_sram {b : List Byte} (hb : b.length = 32) (hheld : d.isHeld a acc.slot = false) :
    (d.writeBytes acc a b).d.mem = (d.mem.putList a b).setDiff a 0 := by
  have hword : d.writeWord acc a 0 b = (({ d with mem := (d.mem.putList a b).setDiff a 0 }).breakRsv a 32 acc.slot, sOk) := by
    unfold Dev.writeWord
    dsimp only
    rw [hloc]
    exact Dev.storeWord_full hheld hb 0
  unfold Dev.writeBytes
  dsimp only
  rw [hcanon, cutWords_word ha hb, if_neg (by omega)]
  simp only [List.foldl, hword, hloc, Loc.memIdx]
  rw [show ∀ x : Dev, (x.askExt acc a b.length (some b)).mem = x.mem from fun x => x.askExt_mem acc a b.length (some b), Dev.count_mem]
  exact Dev.breakRsv_mem _ _ _ _
end

/-- What lies in SRAM in one state lies there in another, or nowhere. -/
theorem Dev.locate_sram_or_bad (d : Dev) {x : Dev} {a n c o : Nat} (h : x.locate a = .sram n c o) : d.locate a = .sram n c o ∨ d.locate a = .bad sUnmapped := by
  have hspace : isLocal a = true ∧ dpaSpace a = 3 ∧ n = dpaSite a ∧ c = dpaCore a ∧ o = dpaCoreOff a := by
    unfold Dev.locate at h
    dsimp only at h
    repeat' split at h
    all_goals cases h
    next hl _ hs _ => exact ⟨by simpa using hl, hs, rfl, rfl, rfl⟩
  obtain ⟨hl, hs, rfl, rfl, rfl⟩ := hspace
  unfold Dev.locate
  simp only [hl, hs, Bool.not_true, Bool.false_eq_true, if_false]
  split
  · exact .inl rfl
  · exact .inr rfl

/-! Descriptors in SRAM. -/

theorem PDesc.length_bytes (x : PDesc) : x.bytes.length = 32 := by simp [PDesc.bytes]

/-- A field keeps the low bytes of a number. -/
theorem leBytes_mod (k : Nat) : ∀ n : Nat, leBytes k (n % 256 ^ k) = leBytes k n := by
  induction k with
  | zero => exact fun _ => rfl
  | succ k ih =>
    intro n
    rw [leBytes_succ, leBytes_succ, Nat.pow_succ', Nat.mod_mul_right_div_self, ih]
    congr 1
    apply BitVec.eq_of_toNat_eq
    simp

theorem PDesc.bytes_stamp (x : PDesc) : ({ x with stamp := x.stamp % 2 ^ 64 } : PDesc).bytes = x.bytes :=
  congrArg (_ ++ ·) (leBytes_mod 8 x.stamp)

/-- A descriptor read from bytes comes back from its own bytes, also with another PINNED and another stamp. -/
theorem PDesc.ofBytes_repinned (b : List Byte) (pin : Bool) (stamp : Nat) : PDesc.ofBytes ({ PDesc.ofBytes b with pinned := pin, stamp := stamp } : PDesc).bytes =
    { PDesc.ofBytes b with pinned := pin, stamp := stamp % 2 ^ 64 } := by
  rw [← PDesc.bytes_stamp]
  refine PDesc.ofBytes_bytes ?_ ?_ ?_ ?_ ?_ ?_ ?_ ?_ ?_ ?_ (Nat.mod_lt _ (by decide))
  all_goals
    simp only [PDesc.ofBytes, bf_eq]
    exact Nat.mod_lt _ (by decide)

section
variable {d : Dev} {acc : Acc} {a n c o : Nat} (hsite : acc.site = none) (ha : a % 32 = 0) (hcanon : d.canon a = a) (hloc : d.locate a = .sram n c o)
include hsite ha hcanon hloc

/-- A descriptor in SRAM that can be read, repinned: a later read of its bytes gives what it was, but for PINNED and the stamp. -/
theorem Dev.repin_sram (hgood : isExc (d.readDesc acc a).2.1 = false) (hheld : d.isHeld a acc.slot = false) (hwf : (d.mem.mended a).wf = true) (pin : Bool) :
    ∃ stamp : Nat, PDesc.ofBytes (((d.readDesc acc a).1.writeDesc acc a { (d.readDesc acc a).2.2 with pinned := pin }).mem.bytes a 32) =
      { (d.readDesc acc a).2.2 with pinned := pin, stamp := stamp } := by
  obtain ⟨-, -, hmem, hbeside⟩ := Dev.readBytes_sram hsite ha hcanon hloc hgood
  have hloc' : (d.readDesc acc a).1.locate a = .sram n c o := by
    rw [← Dev.locate_besideLog, show (d.readDesc acc a).1.besideLog = d.besideLog from hbeside, Dev.locate_besideLog, hloc]
  have hcanon' : (d.readDesc acc a).1.canon a = a := (congrArg (fun x : Dev => x.canon a) hbeside).trans hcanon
  have hheld' : (d.readDesc acc a).1.isHeld a acc.slot = false := (congrArg (fun x : Dev => x.isHeld a acc.slot) hbeside).trans hheld
  refine ⟨(d.readDesc acc a).1.stampOn acc.env (acc.site.getD 5) % 2 ^ 64, ?_⟩
  unfold Dev.writeDesc
  rw [Dev.writeBytes_sram ha hcanon' hloc' (PDesc.length_bytes _) hheld', Mem.bytes_setDiff]
  rw [← PDesc.length_bytes { (d.readDesc acc a).2.2 with pinned := pin, stamp := (d.readDesc acc a).1.stampOn acc.env (acc.site.getD 5) }]
  rw [Mem.bytes_putList _ _ _ (by rw [show (d.readDesc acc a).1.mem = d.mem.mended a from hmem]; exact hwf)]
  exact PDesc.ofBytes_repinned _ _ _
end

/-! A range given zeros. -/

theorem Mem.byte_fill_zero (m : Mem) {lo hi a : Nat} (hlo : lo ≤ a) (hhi : a ≤ hi) : (m.fill lo hi .zero).byte a = 0 := by
  have hnone : cellAt (m.cells.filter (fun e => !(lo ≤ e.1 && e.1 ≤ hi))) a = none := by
    induction m.cells with
    | nil => rfl
    | cons e r ih =>
      rw [List.filter_cons]
      split
      · next h =>
        have hne : e.1 ≠ a := by rintro rfl; simp [hlo, hhi] at h
        simpa [cellAt, hne] using ih
      · exact ih
  unfold Mem.byte Mem.fill
  rw [hnone]
  simp [bgByte, hlo, hhi]

/-! The pool registers. -/

theorem bf_or_one (v hi : Nat) {lo : Nat} (h : 0 < lo) : bf (v ||| 1) hi lo = bf v hi lo := by
  have hone : 1 >>> lo = 0 := by rw [Nat.shiftRight_eq_div_pow, Nat.div_eq_of_lt (Nat.one_lt_two_pow (by omega))]
  rw [bf, bf, Nat.shiftRight_or_distrib, hone, Nat.or_zero]

/-- A field of a value with bit 0 set, taken into a register as wide as the field. -/
theorem toNat_ofNat_bf_or_one {w hi lo : Nat} (v : Nat) (h : 0 < lo) (hw : hi + 1 - lo = w) : (BitVec.ofNat w (bf (v ||| 1) hi lo)).toNat = bf v hi lo := by
  rw [bf_or_one v hi h, BitVec.toNat_ofNat, bf_eq, hw, Nat.mod_mod]

/-- A pool with the fields of a write of KPM_POOL_CTL taken. -/
def Pool.taken (p : Pool) (pf : Bool) (v : Nat) : Pool := { p with
  err := p.err && !bit v 31, kind := bit v 1, fmt := BitVec.ofNat 4 (bf v 5 2), scale := bit v 6, heads := BitVec.ofNat 5 (bf v 12 8)
  hd := BitVec.ofNat 3 (bf v 15 13), arbLog2 := BitVec.ofNat 4 (bf v 19 16), owner := if pf then BitVec.ofNat 4 (bf v 23 20) else p.owner
  nodesLog2 := BitVec.ofNat 5 (bf v 28 24) }

section
variable {t : Dev} {fn : Fn} {n k : Nat} (hdie : t.dieOut n = false) (hmay : t.mayPool fn k = true)
include hdie hmay

theorem Dev.wrPool_ctl (v : Nat) : t.wrPool fn n k 0 v = t.wrPoolCtl n k (fn == .pf) v := by
  simp [Dev.wrPool, hdie, hmay]

/-- ENABLE written 1 to a disabled pool: its fields are taken, and it is enabled or shows the error. -/
theorem Dev.wrPool_enable (hoff : (t.pool k).enable = false) (v : Nat) : t.wrPool fn n k 0 (v ||| 1) =
    t.poolEnable n k ((t.pool k).taken (fn == .pf) (v ||| 1)) := by
  rw [Dev.wrPool_ctl hdie hmay]
  unfold Dev.wrPoolCtl
  dsimp only
  rw [if_neg (by simp [hoff]), if_pos (by simp [bit_or_one])]
  rfl

theorem Dev.wrPool_disable (hon : (t.pool k).enable = true) (v : Nat) : t.wrPool fn n k 0 (v / 2 * 2) =
    if (t.pool k).alloc.isEmpty then t.setPool k { (t.pool k).off with err := (t.pool k).err && !bit (v / 2 * 2) 31 }
    else t.setPool k { t.pool k with err := true } := by
  have hbit : bit (v / 2 * 2) 0 = false := by simp [bit_eq]
  rw [Dev.wrPool_ctl hdie hmay]
  unfold Dev.wrPoolCtl
  dsimp only
  rw [if_pos hon, if_neg (by simp [hbit])]
  rfl

end

theorem Dev.poolEnable_pass {t : Dev} {n k : Nat} {p : Pool} (h : (t.csActive n && !t.kpm.fenced.getLsbD n && p.geometryOk && t.regionsOk p) = true) :
    t.poolEnable n k p = t.setPool k { p with enable := true, ready := false, alloc := [], live := 0 } := if_pos h

theorem Dev.poolEnable_fail {t : Dev} {n k : Nat} {p : Pool} (h : (t.csActive n && !t.kpm.fenced.getLsbD n && p.geometryOk && t.regionsOk p) = false) :
    t.poolEnable n k p = t.setPool k { p with err := true } := if_neg (by simp [h])

theorem Dev.pool_setPool_same (d : Dev) (k : Nat) (p : Pool) : (d.setPool k p).pool k = p := tget_tset_same _ _ _ _

/-- The pool's descriptors and its node area written: it is ready, and the node area reads zero. -/
theorem Dev.poolReady_done {d : Dev} {n k : Nat} (hon : (d.pool k).enable = true) (hwait : (d.pool k).ready = false) (hok : d.kpmOk n = true) :
    DataStep d (d.poolReady n k) ∧ (d.poolReady n k).pool k = { d.pool k with ready := true } ∧
      ∀ a : Nat, d.canon (d.pool k).arb.toNat ≤ a → a < d.canon (d.pool k).arb.toNat + 256 * 2 ^ (d.pool k).nodesLog2.toNat → (d.poolReady n k).mem.byte a = 0#8 := by
  unfold Dev.poolReady
  extract_lets p base desc arb x y z
  have hx : DataStep d x := DataStep.foldl _ (fun x i => x.writeBytes_data _ _ _) _ d
  have hz : DataStep d z := (hx.trans (x.breakRsv_data _ _ _)).trans (y.zeroFill_data _ _)
  rw [if_neg (by simp [p, hon, hwait, hok])]
  exact ⟨hz.trans (z.setPool_data _ _), z.pool_setPool_same _ _, fun a hlo hhi => Mem.byte_fill_zero _ hlo (Nat.le_sub_one_of_lt hhi)⟩

/-! Pins. -/

/-- REFUSED of the PIN registers of a function. -/
def Dev.setPinRef (d : Dev) (fn : Fn) (b : Bool) : Dev := { d with kpm := { d.kpm with pinRef := tset d.kpm.pinRef (fnKey fn) b } }

theorem Dev.setPinRef_data (d : Dev) (fn : Fn) (b : Bool) : DataStep d (d.setPinRef fn b) := .of_eq rfl rfl rfl rfl rfl rfl rfl rfl rfl rfl rfl rfl

/-- The module once REFUSED is cleared where a write of KPM_PIN_LO says so. -/
def Dev.pinTaken (d : Dev) (fn : Fn) (v : Nat) : Dev := d.setPinRef fn ((tget d.kpm.pinRef (fnKey fn) false) && !bit v 2)

theorem Dev.wrPin_neither {d : Dev} {v : Nat} (h0 : bit v 0 = false) (h1 : bit v 1 = false) (e : Env) (fn : Fn) : d.wrPin e fn v = d.pinTaken fn v :=
  if_pos (by simp [h0, h1])

theorem Dev.wrPin_both {d : Dev} {v : Nat} (h0 : bit v 0 = true) (h1 : bit v 1 = true) (e : Env) (fn : Fn) :
    d.wrPin e fn v = (d.pinTaken fn v).setPinRef fn true := by
  unfold Dev.wrPin
  dsimp only
  rw [if_neg (by simp [h0]), if_pos (by simp [h0, h1])]
  rfl

/-- PIN or UNPIN of a page that the function may pin: its descriptor is read and written back. -/
theorem Dev.wrPin_page {d : Dev} {v k a : Nat} {fn : Fn} {e : Env} (hone : bit v 0 ≠ bit v 1)
    (ha : a = d.canon (2 ^ 32 * (tget d.kpm.pinHi (fnKey fn) 0).toNat + alignDown (v % 2 ^ 32) 32)) (hat : d.poolAt a = some k) (hok : d.poolOk k = true)
    (hown : fn = .pf ∨ (d.pool k).owner.toNat = fnOwner fn) (r : Dev × BitVec 16 × PDesc) (hr : r = (d.pinTaken fn v).readDesc { owner := some (fnOwner fn), env := e } a)
    (hgood : isExc r.2.1 = false) (href : r.2.2.ref ≠ 0) (hlog : r.2.2.log2 ≠ 0) :
    d.wrPin e fn v = r.1.writeDesc { owner := some (fnOwner fn), env := e } a { r.2.2 with pinned := bit v 0 } := by
  subst ha hr
  have hboth : (bit v 0 && bit v 1) = false ∧ (!bit v 0 && !bit v 1) = false := by
    revert hone
    cases bit v 0 <;> cases bit v 1 <;> simp
  have hfree : ¬ ((!(d.pinTaken fn v).poolOk k || (fn != .pf && ((d.pinTaken fn v).pool k).owner.toNat != fnOwner fn)) = true) := by
    rw [show (d.pinTaken fn v).poolOk k = true from hok]
    rcases hown with rfl | hown
    · simp
    · simp [show (d.pinTaken fn v).pool k = d.pool k from rfl, hown]
  unfold Dev.wrPin
  dsimp only
  rw [if_neg (by simp [hboth.2]), if_neg (by simp [hboth.1])]
  split
  · next hnone => exact absurd (hnone.symm.trans hat) (by simp)
  · next k' hsome =>
    obtain rfl : k' = k := Option.some.inj (hsome.symm.trans hat)
    refine if_neg ?_
    change ¬ ((!(d.pinTaken fn v).poolOk k' || (fn != .pf && ((d.pinTaken fn v).pool k').owner.toNat != fnOwner fn) || isExc _ || decide _ || decide _) = true)
    simp only [Bool.or_eq_true, not_or, decide_eq_true_eq]
    exact ⟨⟨⟨by simpa using hfree, Bool.eq_false_iff.1 hgood⟩, href⟩, hlog⟩

/-- PIN or UNPIN of a page whose descriptor lies in SRAM: the descriptor reads as before, but for PINNED and the stamp. -/
theorem Dev.wrPin_sram {d : Dev} {v k a n c o : Nat} {fn : Fn} {e : Env} {r : Dev × BitVec 16 × PDesc} (hone : bit v 0 ≠ bit v 1)
    (ha : a = d.canon (2 ^ 32 * (tget d.kpm.pinHi (fnKey fn) 0).toNat + alignDown (v % 2 ^ 32) 32)) (hat : d.poolAt a = some k) (hok : d.poolOk k = true)
    (hown : fn = .pf ∨ (d.pool k).owner.toNat = fnOwner fn) (hr : r = d.readDesc { owner := some (fnOwner fn), env := e } a)
    (hgood : isExc r.2.1 = false) (href : r.2.2.ref ≠ 0) (hlog : r.2.2.log2 ≠ 0) (hheld : r.1.isHeld a none = false) (hsram : r.1.locate a = .sram n c o)
    (hword : a % 32 = 0) (hwf : r.1.mem.wf = true) :
    ∃ stamp : Nat, PDesc.ofBytes ((d.wrPin e fn v).mem.bytes a 32) = { r.2.2 with pinned := bit v 0, stamp := stamp } := by
  subst hr
  have hcanon : d.canon a = a := ha ▸ d.canon_canon _
  have hloc : d.locate a = .sram n c o := by
    refine (d.locate_sram_or_bad hsram).resolve_right (fun hbad => ?_)
    have hst := Dev.readBytes_bad (acc := { owner := some (fnOwner fn), env := e }) (a := a) (n := 32) (by decide) (by rw [hcanon]; omega)
      (hcanon.symm ▸ hbad) (by rw [hcanon, hword, Nat.sub_zero]; exact hbad)
    exact absurd (hst ▸ hgood : isExc (thenSt sOk sUnmapped) = false) (by decide)
  obtain ⟨-, hbytes, hmem, hbeside⟩ := Dev.readBytes_sram rfl hword hcanon hloc hgood
  have hst' : ((d.pinTaken fn v).readDesc { owner := some (fnOwner fn), env := e } a).2.1 = (d.readDesc { owner := some (fnOwner fn), env := e } a).2.1 :=
    (Dev.readBytes_sram_eq (d := d.pinTaken fn v) rfl hword hcanon hloc).1.trans (Dev.readBytes_sram_eq rfl hword hcanon hloc).1.symm
  have hgood' : isExc ((d.pinTaken fn v).readDesc { owner := some (fnOwner fn), env := e } a).2.1 = false := (congrArg isExc hst').trans hgood
  have hdesc : ((d.pinTaken fn v).readDesc { owner := some (fnOwner fn), env := e } a).2.2 = (d.readDesc { owner := some (fnOwner fn), env := e } a).2.2 :=
    congrArg PDesc.ofBytes ((Dev.readBytes_sram (d := d.pinTaken fn v) rfl hword hcanon hloc hgood').2.1.trans hbytes.symm)
  rw [Dev.wrPin_page (d := d) hone ha hat hok hown _ rfl hgood' (hdesc ▸ href) (hdesc ▸ hlog), ← hdesc]
  exact Dev.repin_sram (d := d.pinTaken fn v) rfl hword hcanon hloc hgood' ((congrArg (fun x : Dev => x.isHeld a none) hbeside).symm.trans hheld) (hmem ▸ hwf) (bit v 0)

/-! Keys. -/

/-- Four words of 32 bits side by side. -/
theorem key_words {a b c v : Nat} (ha : a < 2 ^ 32) (hb : b < 2 ^ 32) (hc : c < 2 ^ 32) (hv : v < 2 ^ 32) :
    (BitVec.ofNat 128 (a + 2 ^ 32 * b + 2 ^ 64 * c + 2 ^ 96 * (v % 2 ^ 32))).toNat / 2 ^ 96 = v ∧
      (BitVec.ofNat 128 (a + 2 ^ 32 * b + 2 ^ 64 * c + 2 ^ 96 * (v % 2 ^ 32))).toNat % 2 ^ 32 = a := by
  rw [BitVec.toNat_ofNat]
  omega

/-- Settles O45: each register by what its write changes; the node area is zero by the fill, a pinned descriptor by the word written. -/
theorem kpmRegisters : Obligations.KpmRegisters := by
  intro s fn v t ht
  have hturn : DataStep s.dev t := ht ▸ s.dev.hostTurn_data
  have hbits (i : Nat) : bit v.toNat i = v.getLsbD i := rfl
  refine ⟨fun site pool k hok hk hdie hmay => ⟨fun hoff => ?_, fun hon hempty => ?_, fun hon hused => ?_⟩, fun site pool e k halive hk hon hwait hserve => ?_,
    fun e hok => ⟨fun h0 h1 => ?_, fun h0 h1 => ?_, fun k r a hone ha hat hpool hown hr hgood href hlog => ?_⟩, fun p hok hown => ⟨fun hlive => ?_, fun hlive => ?_⟩⟩
  · subst hk
    have hexec := onHost_ok s fn {} (fun d => d.wrPool fn site.val (poolKey site.val pool.val) 0 (v.toNat ||| 1)) hok
    rw [← ht, Dev.wrPool_enable hdie hmay hoff] at hexec
    have hfmt : (BitVec.ofNat 4 (bf (v.toNat ||| 1) 5 2)).toNat = bf v.toNat 5 2 := toNat_ofNat_bf_or_one _ (by decide) (by decide)
    have hheads : (BitVec.ofNat 5 (bf (v.toNat ||| 1) 12 8)).toNat = bf v.toNat 12 8 := toNat_ofNat_bf_or_one _ (by decide) (by decide)
    have hnodes : (BitVec.ofNat 5 (bf (v.toNat ||| 1) 28 24)).toNat = bf v.toNat 28 24 := toNat_ofNat_bf_or_one _ (by decide) (by decide)
    have hkind : bit (v.toNat ||| 1) 1 = v.getLsbD 1 := by simp [bit_or_one, hbits]
    have howner : (if (fn == .pf) = true then BitVec.ofNat 4 (bf (v.toNat ||| 1) 23 20) else (t.pool (poolKey site.val pool.val)).owner) =
        (if fn = .pf then BitVec.ofNat 4 (bf v.toNat 23 20) else (t.pool (poolKey site.val pool.val)).owner) := by
      rw [bf_or_one _ _ (by decide)]
      simp
    cases hpass : t.csActive site.val && !t.kpm.fenced.getLsbD site.val && ((t.pool (poolKey site.val pool.val)).taken (fn == .pf) (v.toNat ||| 1)).geometryOk &&
        t.regionsOk ((t.pool (poolKey site.val pool.val)).taken (fn == .pf) (v.toNat ||| 1))
    · rw [Dev.poolEnable_fail hpass] at hexec
      refine ⟨_, _, hexec, rfl, hkind, hfmt, hheads, hnodes, rfl, rfl, howner, ?_⟩
      split
      · next h => exact absurd (hpass.symm.trans h) Bool.false_ne_true
      · exact ⟨hoff, rfl⟩
    · rw [Dev.poolEnable_pass hpass] at hexec
      refine ⟨_, _, hexec, rfl, hkind, hfmt, hheads, hnodes, rfl, rfl, howner, ?_⟩
      split
      · exact ⟨rfl, rfl, rfl⟩
      · next h => exact absurd hpass h
  · subst hk
    have hexec := onHost_ok s fn {} (fun d => d.wrPool fn site.val (poolKey site.val pool.val) 0 (v.toNat / 2 * 2)) hok
    rw [← ht, Dev.wrPool_disable hdie hmay hon, if_pos (by simp [hempty])] at hexec
    exact ⟨_, _, hexec, rfl, rfl, rfl⟩
  · subst hk
    have hexec := onHost_ok s fn {} (fun d => d.wrPool fn site.val (poolKey site.val pool.val) 0 (v.toNat / 2 * 2)) hok
    rw [← ht, Dev.wrPool_disable hdie hmay hon, if_neg (by simp [hused])] at hexec
    exact ⟨_, _, hexec, rfl, hon, rfl, rfl, rfl⟩
  · obtain ⟨hdata, hpool, hzero⟩ := Dev.poolReady_done (d := s.dev.applyEnv e) hon hwait hserve
    subst hk
    exact ⟨_, onRun_on s e (fun d => (d.applyEnv e).poolReady site.val (poolKey site.val pool.val)) halive, ((s.dev.applyEnv_data e).trans hdata).kept, hpool, hzero⟩
  · have hexec := onHost_ok s fn e (fun d => (d.applyEnv e).wrPin e fn v.toNat) hok
    rw [← ht, Dev.wrPin_neither h0 h1] at hexec
    exact hexec
  · have hexec := onHost_ok s fn e (fun d => (d.applyEnv e).wrPin e fn v.toNat) hok
    rw [← ht, Dev.wrPin_both h0 h1] at hexec
    exact ⟨_, hexec, (((hturn.trans (t.applyEnv_data e)).trans (Dev.setPinRef_data _ _ _)).trans (Dev.setPinRef_data _ _ _)).kept, tget_tset_same _ _ _ _, rfl⟩
  · have hexec := onHost_ok s fn e (fun d => (d.applyEnv e).wrPin e fn v.toNat) hok
    rw [← ht] at hexec
    refine ⟨_, hexec, ((hturn.trans (t.applyEnv_data e)).trans (Dev.wrPin_data _ _ _ _)).kept, fun hheld ⟨n, c, o, hsram⟩ hword hwf y hy => ?_⟩
    have hmod : v.toNat % 2 ^ 32 = v.toNat := Nat.mod_eq_of_lt v.isLt
    obtain ⟨stamp, heq⟩ := Dev.wrPin_sram (d := t.applyEnv e) hone (by rw [hmod]; exact ha) hat hpool hown hr hgood href hlog hheld hsram hword hwf
    rw [hy, heq]
    exact ⟨rfl, rfl, rfl, rfl⟩
  · have hexec := onHost_ok s fn {} (fun d => if fn == .pf || fnOwner fn == p.val then d.wrArbKey p.val 3 v.toNat else d) hok
    rw [← ht, if_pos (by simpa using hown)] at hexec
    exact hexec.trans (next_congr s (congrArg (Dev.flushRegs · {}) (if_pos hlive)))
  · have hexec := onHost_ok s fn {} (fun d => if fn == .pf || fnOwner fn == p.val then d.wrArbKey p.val 3 v.toNat else d) hok
    rw [← ht, if_pos (by simpa using hown)] at hexec
    refine ⟨_, hexec, ?_⟩
    unfold Dev.wrArbKey
    rw [if_neg (by decide), if_neg (Bool.eq_false_iff.1 hlive)]
    dsimp only
    rw [tget_tset_same]
    obtain ⟨hhigh, hlow⟩ := key_words (tget t.kpm.keyW (4 * p.val + 0) 0).isLt (tget t.kpm.keyW (4 * p.val + 1) 0).isLt (tget t.kpm.keyW (4 * p.val + 2) 0).isLt v.isLt
    exact ⟨hturn.rest.kept, hhigh, hlow, fun r hr => tget_tset_other _ _ _ _ _ hr⟩

end Sys2Proof.Machine
end

section
/-!
Counters, Loupe digests and snapshots (18 R393-R404).
-/
namespace Sys2Proof.Machine

/-! Counters. -/

/-- A function sees the counter window. -/
theorem Dev.regVisible_cntVal (d : Dev) (o : Nat) : d.regVisible o 0x500008 = true := by
  have hwin : (entry? 0x500008 0x500000 8 6).isSome = true := rfl
  unfold Dev.regVisible
  dsimp only
  rw [hwin]
  simp only [Bool.or_true, Bool.true_or]

theorem Dev.regSide_cntVal (d : Dev) (fn : Fn) : d.regSide fn 0x500008 = d.latchCnt fn := by
  unfold Dev.regSide
  dsimp only
  rw [d.regVisible_cntVal, if_neg (by simp), if_neg (by decide), if_pos (by decide)]

theorem Dev.regVal_cntVal {d : Dev} {fn : Fn} {k : Nat} (hkey : d.cntKey fn = some k) : d.regVal fn 0x500008 = tget d.cnt.val k 0 % 2 ^ 32 := by
  unfold Dev.regVal
  dsimp only
  rw [d.regVisible_cntVal, if_neg (by simp)]
  iterate 15 rw [if_neg (by decide)]
  rw [if_pos (by decide), hkey]
  simp [bf_eq]

theorem Dev.latchCnt_data (d : Dev) (fn : Fn) : DataStep d (d.latchCnt fn) := .of_eq rfl rfl rfl rfl rfl rfl rfl rfl rfl rfl rfl rfl

/-! Digests. -/

theorem length_digestBytes (a b c d e f g h i j k l m : Nat) : (digestBytes a b c d e f g h i j k l m).length = 64 := by
  simp [digestBytes]

theorem length_digestOf (slot gen fmt : Nat) (vals : List Num) (raw : List Byte) : (digestOf slot gen fmt vals raw).length = 64 := length_digestBytes ..

theorem Dev.lpe_of_flight {d x : Dev} (h : x.flight = d.flight) : x.lpe = d.lpe := congrArg (fun f : Flight => f.2.2.1) h

/-- A digest taken reads data, and sets its own watch slot. -/
theorem Dev.digest_reads (d : Dev) (e : Env) (o s : Nat) : ∃ (x : Dev) (l : Tbl Watch), x.flight = d.flight ∧ d.digest e o s = { x with lpe := l } := by
  unfold Dev.digest
  extract_lets w t x gen bad b
  split
  · exact ⟨d, d.lpe, rfl, rfl⟩
  · refine ⟨x.d, _, ?_, rfl⟩
    dsimp only [x]
    split
    · exact readTensor_step flightAccesses (fun _ d a n => d.readDva_flight _ _ a n) d t true
    · rfl

/-- A bound slot's digest: one generation later, 64 bytes. -/
theorem Dev.digest_watch {d : Dev} {o s : Nat} (hbound : (d.watch o s).bound = true) (e : Env) :
    ((d.digest e o s).watch o s).gen = (d.watch o s).gen + 1 ∧ ((d.digest e o s).watch o s).dig.length = 64 := by
  unfold Dev.digest
  extract_lets w t x gen bad b
  rw [if_neg (by simp [w, hbound]), Dev.watch, tget_tset_same]
  refine ⟨rfl, ?_⟩
  dsimp only [b]
  split
  · exact length_digestBytes ..
  · exact length_digestOf ..

/-- A digest that is due, of a packet that has not failed. -/
theorem Dev.takeDigest_good {d d1 : Dev} {e : Env} {p y : Pkt} (s : Nat) (hd1 : d1 = (d.drainPkt e p).awaitHeld e (fun h => h.ord == some p.ord))
    (hy : d1.pkt? p.q p.tag = some y) (hgood : isExc y.status = false) :
    d.takeDigest e p s = (d1.digest e y.owner s).modPkt y.ord (fun x => { x with trig := x.trig.filter (fun i => i != s) }) := by
  subst hd1
  unfold Dev.takeDigest
  simp only [hy, hgood, Bool.false_eq_true, if_false]

/-! LOUPE_WATCH. -/

theorem Dev.conclude_lpe (p : Pkt) (r : OpR) : (Dev.conclude p r).lpe = r.d.lpe := congrArg (·.lpe) (r.d.close_beside p (p.asListed r.st) r.res)

/-- With no digest due, none is taken for a slot. -/
theorem Dev.noDigest {d : Dev} {o s : Nat} (hfree : ∀ y ∈ d.disp.pkts, y.trig = []) : d.disp.pkts.filter (fun x => x.owner == o && x.trig.contains s) = [] :=
  List.filter_eq_nil_iff.2 (fun y hy => by simp [hfree y hy])

/-- With no digest due, a slot is bound or unbound at once. -/
theorem Dev.opWatch_arms {d : Dev} {p : Pkt} (hfree : ∀ y ∈ d.disp.pkts, y.trig = []) (hact : p.f 1 9 8 = 0) (e : Env) :
    d.opWatch p e = { d := { d with lpe := tset d.lpe (32 * p.owner + p.f 1 4 0) { bound := true, td := p.tdWords 0 0, leaves := p.leaves } } } := by
  unfold Dev.opWatch
  dsimp only
  rw [Dev.noDigest hfree]
  simp only [hact, List.foldl]

theorem Dev.opWatch_disarms {d : Dev} {p : Pkt} (hfree : ∀ y ∈ d.disp.pkts, y.trig = []) (h0 : p.f 1 9 8 ≠ 0) (h1 : p.f 1 9 8 ≠ 1) (e : Env) :
    d.opWatch p e = { d := { d with lpe := tdel d.lpe (32 * p.owner + p.f 1 4 0) } } := by
  unfold Dev.opWatch
  dsimp only
  rw [Dev.noDigest hfree]
  simp only [List.foldl]

/-- The last digest written to memory. -/
theorem Dev.opWatch_shows {d : Dev} {p : Pkt} (hact : p.f 1 9 8 = 1) (e : Env) :
    (d.opWatch p e).d.flight = d.flight ∧ (isExc (d.opWatch p e).st = false → (d.opWatch p e).res = 64) := by
  unfold Dev.opWatch
  simp only [hact]
  exact ⟨d.writeP_flight _ _ _ _, fun h => if_neg (by simp [h])⟩

/-- With no digest due, no LOUPE_WATCH waits. -/
theorem Dev.watchReady_free {d : Dev} {p : Pkt} (h : p.f 1 9 8 = 1 ∨ ∀ y ∈ d.disp.pkts, y.trig = []) : d.watchReady p = true := by
  unfold Dev.watchReady
  rcases h with h | h
  · simp [h]
  · rw [Bool.or_eq_true, List.all_eq_true]
    exact .inr (fun y hy => by simp [h y hy])

/-! CNT_SNAP. -/

theorem Dev.length_cntRecord (d : Dev) (bank g : Nat) : (d.cntRecord bank g).length = 64 + 8 * cntSize g := by
  simp only [Dev.cntRecord, List.length_append, length_leBytes, List.length_replicate, List.length_flatMap, List.map_const', List.length_range, List.sum_replicate_nat]
  omega

theorem Dev.opCntSnap_said (d : Dev) (p : Pkt) (e : Env) : (d.opCntSnap p e).d.flight = d.flight ∧
    (isExc (d.opCntSnap p e).st = false → (d.opCntSnap p e).res = 64 + 8 * cntSize (p.f 1 3 0)) := by
  unfold Dev.opCntSnap
  extract_lets g bank rec_ x w
  have hx : x.flight = d.flight := Dev.ite_flight rfl rfl
  refine ⟨(x.writeP_flight _ _ _ _).trans hx, fun h => ?_⟩
  exact (if_neg (by simp [show isExc w.st = false from h])).trans (d.length_cntRecord bank g)

/-! Snapshots. -/

theorem writeUntil_berth (o : Nat) (acc : Acc) (l : List (Nat × Nat × List Byte)) : ∀ x : WrR, (writeUntil o acc l x).d.berth = x.d.berth := by
  induction l with
  | nil => exact fun _ => rfl
  | cons p l ih =>
    intro x
    unfold writeUntil
    split
    · rfl
    · split
      · rfl
      · exact (ih _).trans (x.d.writeBytes_berth _ _ _)

theorem Dev.writeRecord_berth (d : Dev) (p : Pkt) (e : Env) (dva : Nat) (b : List Byte) : (d.writeRecord p e dva b).d.berth = d.berth :=
  foldl_leaves (fun x : WrR × List Byte => x.1.d.berth) _ (fun x _ => writeUntil_berth _ _ _ x.1) _ ({ d := d }, b)

theorem Dev.snpFn_setSnp_same (d : Dev) (k : Nat) (x : SnpFn) : (d.setSnp k x).snpFn k = x := tget_tset_same _ _ _ _

/-- A snapshot that has ended: its engine is free, and no queue has changed. -/
structure SnpEnded (d x : Dev) (k : Nat) : Prop where
  /-- The engine is free. -/
  busy : (x.snpFn k).busy = false
  /-- No command has it. -/
  cmd : (x.snpFn k).cmd = none
  /-- The queues. -/
  queues : x.queues = d.queues

/-- The engine freed. -/
theorem Dev.snpIdle_ended {d w : Dev} {k : Nat} (hw : w.berth = d.berth) : SnpEnded d (w.setSnp k { w.snpFn k with busy := false, cmd := none }) k :=
  ⟨by rw [Dev.snpFn_setSnp_same], by rw [Dev.snpFn_setSnp_same], congrArg Prod.snd hw⟩

/-- Registers of a free engine set. -/
theorem SnpEnded.set {d y : Dev} {k : Nat} (h : SnpEnded d y k) {f : SnpFn} (hbusy : f.busy = (y.snpFn k).busy) (hcmd : f.cmd = (y.snpFn k).cmd) :
    SnpEnded d (y.setSnp k f) k :=
  ⟨by rw [Dev.snpFn_setSnp_same, hbusy, h.busy], by rw [Dev.snpFn_setSnp_same, hcmd, h.cmd], h.queues⟩

/-- The end of an operation reaches neither queues nor snapshots. -/
theorem SnpEnded.conclude {d : Dev} {k : Nat} {p : Pkt} {r : OpR} (h : SnpEnded d r.d k) : SnpEnded d (Dev.conclude p r) k := by
  have hfn : (Dev.conclude p r).snpFn k = r.d.snpFn k := congrArg (·.snpFn k) (r.d.close_beside p (p.asListed r.st) r.res)
  exact ⟨by rw [hfn, h.busy], by rw [hfn, h.cmd], (congrArg (·.queues) (r.d.close_beside p (p.asListed r.st) r.res)).trans h.queues⟩

/-- A snapshot ends with its record written, or with what stopped it: a command's packet gone, a write that failed. -/
theorem Dev.snpDone_ends {d : Dev} {fn : Fn} (hbusy : (d.snpFn (fnKey fn)).busy = true) (e : Env) : SnpEnded d (d.snpDone fn e) (fnKey fn) ∧
    ((d.snpFn (fnKey fn)).cmd = none → ((d.snpDone fn e).snpFn (fnKey fn)).done = true ∨
      ((d.snpDone fn e).snpFn (fnKey fn)).err = true ∧ ((d.snpDone fn e).snpFn (fnKey fn)).cause = 2) := by
  generalize hr : d.snpDone fn e = r
  unfold Dev.snpDone at hr
  extract_lets k o x idle at hr
  rw [if_neg (by simp [x, k, hbusy])] at hr
  split at hr
  · next q tag hcmd =>
    refine ⟨?_, fun hnone => absurd (hcmd.symm.trans hnone) (by simp)⟩
    split at hr
    · exact hr ▸ Dev.snpIdle_ended rfl
    · next p hp =>
      extract_lets b w y src z at hr
      have hw : w.d.berth = d.berth := d.writeRecord_berth _ _ _ _
      clear_value w b
      have hy : SnpEnded d y k := Dev.snpIdle_ended hw
      exact hr ▸ SnpEnded.conclude (ite_step (R := fun d x => SnpEnded d x k) hy (hy.set rfl rfl))
  · next a b w y x' z _ _ =>
    have hw : w.d.berth = d.berth := writeUntil_berth _ _ _ _
    clear_value w b
    have hy : SnpEnded d y k := Dev.snpIdle_ended hw
    have hz : SnpEnded d z k ∧ (z.snpFn k).done = true := ⟨hy.set rfl rfl, by rw [Dev.snpFn_setSnp_same]⟩
    split at hr
    · exact hr ▸ ⟨hy.set rfl rfl, fun _ => .inr (by rw [Dev.snpFn_setSnp_same]; exact ⟨rfl, rfl⟩)⟩
    · obtain ⟨⟨hfree, hcmd, hqueues⟩, hdone⟩ := hz
      split at hr
      · exact hr ▸ ⟨⟨hfree, hcmd, hqueues⟩, fun _ => .inl hdone⟩
      · exact hr ▸ ⟨⟨hfree, hcmd, hqueues⟩, fun _ => .inl hdone⟩

/-- A write of SNP_CTL with GO set. -/
theorem Dev.wrSnpCtl_go (d : Dev) (fn : Fn) (v : Nat) : ∃ y : SnpFn, y.busy = (d.snpFn (fnKey fn)).busy ∧ y.dest = (d.snpFn (fnKey fn)).dest ∧
    d.wrSnpCtl fn (v ||| 1) = if y.busy then d.setSnp (fnKey fn) { y with refused := true }
      else if !d.snpDestOk (fnOwner fn) (d.canon y.dest.toNat) then d.setSnp (fnKey fn) { y with err := true, cause := 1 }
      else (d.setSnp (fnKey fn) y).snpStart (fnKey fn) none := by
  unfold Dev.wrSnpCtl
  extract_lets k x y
  rw [if_neg (by simp [bit_or_one])]
  refine ⟨y, ?_, ?_, rfl⟩
  · dsimp only [y]
    split <;> rfl
  · dsimp only [y]
    split <;> rfl

/-- The digest of a slot that a packet triggered. -/
theorem exec_loupeDigest {s : State} {q : QRef} {tag : BitVec 16} {slot : Fin 32} {p : Pkt} (halive : s.dev.supAlive = true) (e : Env)
    (hp : (s.dev.meet e (some (qOwner q))).pkt? q tag = some p) (htrig : p.trig.contains slot.val = true) :
    exec (.loupeDigest q tag slot e) s = .next { s with dev := (if (s.dev.meet e (some (qOwner q))).digestReady p then
      (s.dev.meet e (some (qOwner q))).takeDigest e p slot.val else s.dev.meet e (some (qOwner q))).flushRegs e } := by
  change execLoupeDigest q tag slot e s = _
  rw [execLoupeDigest, onRun_on _ _ _ halive]
  dsimp only
  rw [hp]
  simp only [htrig, Bool.true_and]

/-- Settles O51: a digest is taken by its slot; a snapshot's engine is free once its record is written or has failed. -/
theorem observability : Obligations.Observability := by
  intro s fn v e t ht
  have hturn : DataStep s.dev t := ht ▸ s.dev.hostTurn_data
  refine ⟨fun k hok hkey => ?_, fun q tag p d hd => ⟨fun h hfree hact hst => ?_, fun h hact => ?_, fun slot d1 y halive hp htrig => ⟨fun hwait => ?_, fun hready hd1 hy hgood => ?_⟩,
    fun h => ?_, fun h k hk => ⟨fun hbusy => ?_, fun hbusy => ?_⟩⟩, fun hok => ⟨fun hbusy => ?_, fun hbusy hdest => ?_, fun hbusy hdest => ?_⟩,
    fun halive hbusy => ?_, fun halive hbusy => ?_⟩
  · have hexec := onHost_ok s fn {} (fun d => (d.regSide fn 0x500008).emit (.reg fn 0x500008 (d.regVal fn 0x500008))) hok
    rw [← ht, Dev.regSide_cntVal, Dev.regVal_cntVal hkey] at hexec
    exact ⟨_, hexec, ((hturn.trans (t.latchCnt_data fn)).trans (Dev.emit_data _ _)).kept, rfl, rfl⟩
  · have hpkt : d.pkt? q tag = some p := (Dev.pkt?_congr (hd ▸ s.dev.meet_disp _ _) _ _).trans h.here
    have hdata : DataStep s.dev d := hd ▸ s.dev.meet_data e _
    have hfree' : ∀ y ∈ d.disp.pkts, y.trig = [] := by rw [hd, Dev.meet_disp]; exact hfree
    have hlpe : d.lpe = s.dev.lpe := hd ▸ Dev.lpe_of_flight (s.dev.meet_flight e _)
    have hexec := meetPkt_runs h e (by decide) (fun d p => if d.watchReady p then Dev.conclude p (d.opWatch p e) else d)
    rw [← hd, if_pos (Dev.watchReady_free (.inr hfree'))] at hexec
    have hdone (l : Tbl Watch) : DoneWith (Dev.conclude p { d := { d with lpe := l } }) q tag sOk := by
      obtain ⟨p', hp', hphase, hstatus, -⟩ := concluded_done (r := { d := { d with lpe := l } }) hpkt rfl
      refine ⟨p', hp', hphase, hstatus.trans ?_⟩
      rw [hst]
      unfold Pkt.asListed
      split <;> rfl
    have hrest (l : Tbl Watch) : DataStep s.dev (Dev.conclude p { d := { d with lpe := l } }) := (Dev.conclude_data p { d := { d with lpe := l } }).since hdata.rest
    by_cases h0 : p.f 1 9 8 = 0
    · rw [Dev.opWatch_arms hfree' h0] at hexec
      refine ⟨_, hexec, (hrest _).kept, hdone _, fun _ => ?_, fun hne => absurd h0 hne, fun i hi => ?_⟩
      · rw [Dev.watch, Dev.conclude_lpe, tget_tset_same]
      · rw [Dev.conclude_lpe, tget_tset_other _ _ _ _ _ hi, hlpe]
    · rw [Dev.opWatch_disarms hfree' h0 hact] at hexec
      refine ⟨_, hexec, (hrest _).kept, hdone _, fun heq => absurd heq h0, fun _ => ?_, fun i hi => ?_⟩
      · rw [Dev.watch, Dev.conclude_lpe, tget_tdel_same]
      · rw [Dev.conclude_lpe, tget_tdel_other _ _ _ _ hi, hlpe]
  · have hpkt : d.pkt? q tag = some p := (Dev.pkt?_congr (hd ▸ s.dev.meet_disp _ _) _ _).trans h.here
    have hdata : DataStep s.dev d := hd ▸ s.dev.meet_data e _
    have hexec := meetPkt_runs h e (by decide) (fun d p => if d.watchReady p then Dev.conclude p (d.opWatch p e) else d)
    rw [← hd, if_pos (Dev.watchReady_free (.inl hact))] at hexec
    obtain ⟨hflight, hres⟩ := Dev.opWatch_shows (d := d) hact e
    obtain ⟨p', hp', hdone, hsaid⟩ := conclude_pkt hpkt hflight
    refine ⟨_, p', hexec, ((hdata.trans (d.opWatch_data p e)).trans (Dev.conclude_data _ _)).kept, hp', hdone, ?_, fun hexc => ?_⟩
    · rw [Dev.conclude_lpe]
      exact (Dev.lpe_of_flight hflight).trans (hd ▸ Dev.lpe_of_flight (s.dev.meet_flight e _))
    · obtain ⟨hst, heq⟩ := hsaid (h.opc ▸ by decide) hexc
      rw [heq, hres hst]
  · have hpkt : d.pkt? q tag = some p := (Dev.pkt?_congr (hd ▸ s.dev.meet_disp _ _) _ _).trans hp
    have hexec := exec_loupeDigest halive e (hd ▸ hpkt) htrig
    rw [← hd, hwait] at hexec
    exact hexec
  · have hpkt : d.pkt? q tag = some p := (Dev.pkt?_congr (hd ▸ s.dev.meet_disp _ _) _ _).trans hp
    have hdata : DataStep s.dev d := hd ▸ s.dev.meet_data e _
    have hexec := exec_loupeDigest halive e (hd ▸ hpkt) htrig
    obtain ⟨rfl, rfl⟩ := Dev.pkt?_q hpkt
    rw [← hd, hready, if_pos rfl, Dev.takeDigest_good slot.val hd1 hy hgood] at hexec
    obtain ⟨x, l, hflight, hdig⟩ := d1.digest_reads e y.owner slot.val
    obtain ⟨z, hz, hbare⟩ := Dev.pkt?_of_flight hflight hy
    have hord : z.ord = y.ord := (congrArg Pkt.ord hbare :)
    have hz' : (d1.digest e y.owner slot.val).pkt? p.q p.tag = some z := hdig ▸ hz
    have hmod := Dev.modPkt_pkt hz' (f := fun x => { x with trig := x.trig.filter (fun i => i != slot.val) }) (fun _ => rfl) (fun _ => rfl)
    rw [hord] at hmod
    have htake : DataStep d d1 := hd1 ▸ (d.drainPkt_data _ _).trans (Dev.awaitHeld_data _ _ _)
    refine ⟨_, _, hexec, (((hdata.trans htake).trans (d1.digest_data _ _ _)).trans (Dev.modPkt_data _ _ _)).kept, hmod, by simp, fun hbound => ?_⟩
    exact Dev.digest_watch hbound e
  · have hpkt : d.pkt? q tag = some p := (Dev.pkt?_congr (hd ▸ s.dev.meet_disp _ _) _ _).trans h.here
    have hdata : DataStep s.dev d := hd ▸ s.dev.meet_data e _
    have hexec := meetPkt_runs h e (by decide) (fun d p => Dev.conclude p (d.opCntSnap p e))
    rw [← hd] at hexec
    obtain ⟨hflight, hres⟩ := d.opCntSnap_said p e
    obtain ⟨p', hp', hdone, hsaid⟩ := conclude_pkt hpkt hflight
    refine ⟨_, p', hexec, ((hdata.trans (d.opCntSnap_data p e)).trans (Dev.conclude_data _ _)).kept, hp', hdone, fun hexc => ?_⟩
    obtain ⟨hst, heq⟩ := hsaid (h.opc ▸ by decide) hexc
    rw [heq, hres hst]
  · subst hk
    exact (onRun_pkt h (List.mem_singleton.2 rfl) {} Dev.opSnapshot).trans (next_congr s (congrArg (Dev.flushRegs · {}) (if_pos hbusy)))
  · subst hk
    exact ⟨(onRun_pkt h (List.mem_singleton.2 rfl) {} Dev.opSnapshot).trans (next_congr s (congrArg (Dev.flushRegs · {}) (if_neg (by simp [hbusy])))), rfl⟩
  · obtain ⟨y, hy, -, hgo⟩ := t.wrSnpCtl_go fn v.toNat
    have hexec := onHost_ok s fn {} (fun d => d.wrSnpCtl fn (v.toNat ||| 1)) hok
    rw [← ht, hgo, if_pos (hy.trans hbusy)] at hexec
    exact ⟨_, _, hexec, rfl, rfl, hy.trans hbusy⟩
  · obtain ⟨y, hy, hdst, hgo⟩ := t.wrSnpCtl_go fn v.toNat
    have hexec := onHost_ok s fn {} (fun d => d.wrSnpCtl fn (v.toNat ||| 1)) hok
    rw [← ht, hgo, if_neg (by simp [hy, hbusy]), if_pos (by simp [hdst, hdest])] at hexec
    exact ⟨_, _, hexec, rfl, rfl, rfl, hy.trans hbusy⟩
  · obtain ⟨y, hy, hdst, hgo⟩ := t.wrSnpCtl_go fn v.toNat
    have hexec := onHost_ok s fn {} (fun d => d.wrSnpCtl fn (v.toNat ||| 1)) hok
    rw [← ht, hgo, if_neg (by simp [hy, hbusy]), if_neg (by simp [hdst, hdest])] at hexec
    refine ⟨_, hexec, ?_, ?_, ?_, rfl⟩ <;> rw [Dev.snpStart, Dev.snpFn_setSnp_same]
    rfl
  · have hsnp : (s.dev.meet e (some (fnOwner fn))).snp = s.dev.snp := (s.dev.meet_data e _).kept.snp
    have hfn : (s.dev.meet e (some (fnOwner fn))).snpFn (fnKey fn) = s.dev.snpFn (fnKey fn) := by rw [Dev.snpFn, Dev.snpFn, hsnp]
    obtain ⟨⟨hfree, hcmd, hqueues⟩, hdone⟩ := Dev.snpDone_ends (d := s.dev.meet e (some (fnOwner fn))) (fn := fn) (by rw [hfn, hbusy]) e
    exact ⟨_, onRun_on s e (fun d => (d.meet e (some (fnOwner fn))).snpDone fn e) halive, hfree, hcmd,
      hqueues.trans (congrArg (·.queues) (s.dev.meet_besideCounts e _)), fun hnone => hdone (by rw [hfn, hnone])⟩
  · have hsnp : (s.dev.meet e (some (fnOwner fn))).snp = s.dev.snp := (s.dev.meet_data e _).kept.snp
    have hfn : (s.dev.meet e (some (fnOwner fn))).snpFn (fnKey fn) = s.dev.snpFn (fnKey fn) := by rw [Dev.snpFn, Dev.snpFn, hsnp]
    exact (onRun_on s e (fun d => (d.meet e (some (fnOwner fn))).snpDone fn e) halive).trans (next_congr s (congrArg (Dev.flushRegs · e) (if_pos (by simp [hfn, hbusy]))))

end Sys2Proof.Machine
end

section
/-!
Links: training, going down, acknowledgement, hold, flits (16 R344-R348).
-/
namespace Sys2Proof.Machine

/-! One link and what is not its own. -/

theorem Dev.link_setLink_same (d : Dev) (l : Nat) (x : Link) : (d.setLink l x).link l = x := tget_tset_same _ _ _ _

theorem Dev.link_setLink_other (d : Dev) {l k : Nat} (x : Link) (h : k ≠ l) : (d.setLink l x).link k = d.link k := tget_tset_other _ _ _ _ _ h

@[simp] theorem Dev.count_lnk (d : Dev) (o : Option Nat) (g i n : Nat) : (d.count o g i n).lnk = d.lnk := congrArg (·.lnk) (d.count_besideCounts o g i n)

@[simp] theorem Dev.count_link (d : Dev) (o : Option Nat) (g i n l : Nat) : (d.count o g i n).link l = d.link l := congrArg (fun x : Lnk => tget x.links l {}) (d.count_lnk o g i n)

/-- What is sent on link l is its own affair, and leaves its state and its receiving side as they are. -/
structure Sent (l : Nat) (d x : Dev) : Prop where
  /-- The other links. -/
  other : ∀ k, k ≠ l → x.link k = d.link k
  /-- The link's state. -/
  st : (x.link l).st = (d.link l).st
  /-- The next flit expected. -/
  rxSeq : (x.link l).rxSeq = (d.link l).rxSeq
  /-- Whether a replay has been asked for. -/
  nakd : (x.link l).nakd = (d.link l).nakd

theorem Sent.refl (l : Nat) (d : Dev) : Sent l d d := ⟨fun _ _ => rfl, rfl, rfl, rfl⟩

theorem Sent.trans {l : Nat} {d x y : Dev} (h : Sent l d x) (g : Sent l x y) : Sent l d y :=
  ⟨fun k hk => (g.other k hk).trans (h.other k hk), g.st.trans h.st, g.rxSeq.trans h.rxSeq, g.nakd.trans h.nakd⟩

theorem Sent.of_lnk {l : Nat} {d x : Dev} (h : x.lnk = d.lnk) : Sent l d x := by
  have hl (k : Nat) : x.link k = d.link k := congrArg (fun y : Lnk => tget y.links k {}) h
  exact ⟨fun k _ => hl k, by rw [hl], by rw [hl], by rw [hl]⟩

theorem Sent.setLink {d : Dev} {l : Nat} {y : Link} (hst : y.st = (d.link l).st) (hrx : y.rxSeq = (d.link l).rxSeq) (hnak : y.nakd = (d.link l).nakd) :
    Sent l d (d.setLink l y) :=
  ⟨fun _ hk => d.link_setLink_other y hk, by rw [Dev.link_setLink_same, hst], by rw [Dev.link_setLink_same, hrx], by rw [Dev.link_setLink_same, hnak]⟩

/-- A flit: counts, the link's new state, and an output. -/
theorem Dev.sendFlit_eq (d : Dev) (l : Nat) (nak : Bool) : ∃ (x : Dev) (y : Link) (o : Out), d.sendFlit l nak = (x.setLink l y).emit o ∧ x.lnk = d.lnk ∧
    y.st = (d.link l).st ∧ y.rxSeq = (d.link l).rxSeq ∧ y.nakd = (d.link l).nakd := by
  unfold Dev.sendFlit
  refine ⟨_, _, _, rfl, ?_, rfl, rfl, rfl⟩
  exact (Dev.count_lnk _ _ _ _ _).trans (foldl_leaves Dev.lnk _ (fun d u => d.count_lnk _ _ _ _) _ d)

theorem Dev.sendFlit_sent (d : Dev) (l : Nat) (nak : Bool) : Sent l d (d.sendFlit l nak) := by
  obtain ⟨x, y, o, heq, hlnk, hst, hrx, hnak⟩ := d.sendFlit_eq l nak
  have hl : x.link l = d.link l := congrArg (fun y : Lnk => tget y.links l {}) hlnk
  rw [← hl] at hst hrx hnak
  rw [heq]
  exact (Sent.of_lnk hlnk).trans ((Sent.setLink hst hrx hnak).trans (Sent.of_lnk rfl))

theorem Dev.pump_sent (l n : Nat) : ∀ d : Dev, Sent l d (d.pump l n) := by
  induction n with
  | zero => exact fun d => .refl l d
  | succ n ih =>
    intro d
    unfold Dev.pump
    dsimp only
    split
    · exact (d.sendFlit_sent l false).trans (ih _)
    · exact .refl l d

theorem Dev.answerFlit_sent (d : Dev) (l : Nat) (nak : Bool) : Sent l d (d.answerFlit l nak) := by
  unfold Dev.answerFlit
  dsimp only
  split
  · exact (d.sendFlit_sent l nak).trans (Dev.pump_sent l _ _)
  · exact .refl l d

theorem Dev.enqueue_sent (d : Dev) (l : Nat) (t : TxMsg) : Sent l d (d.enqueue l t) :=
  (Sent.setLink (d := d) (y := { d.link l with txq := (d.link l).txq ++ [t] }) rfl rfl rfl).trans (Dev.pump_sent l _ _)

/-! Messages find a link that is up. -/

theorem Dev.route_up {d : Dev} {node vc l : Nat} (h : d.route node vc = some l) : (d.link l).st = 2 := by
  have hup (m : BitVec 72) (hl : l ∈ d.upLinks m) : (d.link l).st = 2 := by
    simp only [Dev.upLinks, List.mem_filter, Bool.and_eq_true, beq_iff_eq] at hl
    exact hl.2.2
  unfold Dev.route at h
  extract_lets p use at h
  have hmem : l ∈ use := List.mem_of_getElem? h
  dsimp only [use] at hmem
  split at hmem
  · exact hup _ hmem
  · exact hup _ hmem

/-- A link that is not up carries no message that is put on its way. -/
theorem Dev.dispatch_link {l : Nat} (n : Nat) : ∀ (d : Dev) (m : Msg) (sends : Nat) (owner : Option Nat), (d.link l).st ≠ 2 →
    (d.dispatch m sends owner n).link l = d.link l := by
  induction n with
  | zero => exact fun _ _ _ _ _ => rfl
  | succ n ih =>
    intro d m sends owner hdown
    unfold Dev.dispatch
    split
    · next k hk =>
      have hup : (d.link k).st = 2 := by
        split at hk
        · exact Dev.route_up hk
        · cases hk
      exact (d.enqueue_sent k _).other l (fun heq => hdown (heq ▸ hup))
    · split
      · rfl
      · split
        · split
          · next r _ =>
            exact (congrArg (fun y : Dev => y.link l) (Dev.ridDone_besideDone (d.dropRid r.rid true) r (st := sLinkFail) (by decide) []) :)
          · rfl
        · exact ih _ _ _ _ hdown

/-- The messages of a link that went down go by other links. -/
theorem Dev.failover_link {d : Dev} {l : Nat} (hdown : (d.link l).st ≠ 2) (q : List TxMsg) : (d.failover q).link l = d.link l := by
  have hfold : ∀ (q : List TxMsg) (d : Dev), (d.link l).st ≠ 2 → (q.foldl (fun d t =>
      d.dispatch (if t.sends != 0 && t.msg.op != 5 then { t.msg with dup := true } else t.msg) t.sends t.owner 2) d).link l = d.link l := by
    intro q
    induction q with
    | nil => exact fun _ _ => rfl
    | cons t r ih =>
      intro d hdown
      have ht := d.dispatch_link 2 (if t.sends != 0 && t.msg.op != 5 then { t.msg with dup := true } else t.msg) t.sends t.owner hdown
      exact (ih _ (by rw [ht]; exact hdown)).trans ht
  unfold Dev.failover
  dsimp only
  split
  · exact hfold q d hdown
  · exact hfold q d hdown

theorem Dev.failover_evt (d : Dev) (q : List TxMsg) : (d.failover q).lnk.evt = d.lnk.evt ||| (if q.isEmpty then 0 else 4) := by
  have hfold : (q.foldl (fun d t => d.dispatch (if t.sends != 0 && t.msg.op != 5 then { t.msg with dup := true } else t.msg) t.sends t.owner 2) d).besideSends = d.besideSends :=
    foldl_leaves Dev.besideSends _ (fun x t => Dev.dispatch_besideSends 2 x _ _ _) q d
  have hevt := congrArg (fun y : Dev => y.lnk.evt) hfold
  unfold Dev.failover
  dsimp only
  split
  · exact hevt.trans (by simp [Dev.besideSends])
  · exact (congrArg (· ||| 4) hevt :)

/-! A link that trains, goes down or is held. -/

theorem Dev.linkUp_down {d : Dev} {l : Nat} (h1 : (d.link l).st ≠ 1) (h3 : (d.link l).st ≠ 3) (h0 : (d.link l).st ≠ 0 ∨ d.sys.phase ≠ 4) (node : BitVec 8) (peer : BitVec 7) :
    d.linkUp l node peer = d := by
  unfold Dev.linkUp
  dsimp only
  refine if_neg ?_
  simp only [Bool.or_eq_true, Bool.and_eq_true, beq_iff_eq]
  rintro ((h | h) | ⟨⟨⟨h, hp⟩, -⟩, -⟩)
  · exact h1 h
  · exact h3 h
  · exact h0.elim (fun g => g h) (fun g => g hp)

/-- A link's new state stands beside the event that goes with it. -/
theorem Dev.link_raiseLnk_setLink (d : Dev) (l : Nat) (y : Link) (v : BitVec 5) : ((d.setLink l y).raiseLnk v).link l = y := d.link_setLink_same l y

/-- A link that goes down by retraining: held after four downs in 10 s, empty, and counted. -/
theorem Dev.dropLink_down (d : Dev) (l : Nat) : ((d.dropLink l 3).link l).st =
      (if 4 ≤ ((d.time.base :: (d.link l).downTimes).filter (fun t => d.time.base < t + 10000000000)).length then 4#3 else 3#3) ∧
    ((d.dropLink l 3).link l).downs = satAdd (d.link l).downs 1 ∧ ((d.dropLink l 3).link l).replay = [] ∧ ((d.dropLink l 3).link l).txq = [] ∧
    (d.dropLink l 3).lnk.evt.getLsbD 1 = true := by
  unfold Dev.dropLink
  extract_lets x times held d1 d2 d3
  have hd3 : d3 = d2 := if_neg (by decide)
  have hlink : d3.link l = d1.link l := by rw [hd3]; rfl
  have hst : (d1.link l).st = if 4 ≤ times.length then 4#3 else 3#3 := by
    rw [Dev.link_setLink_same]
    simp [held]
  have hdown : (d3.link l).st ≠ 2 := by
    rw [hlink, hst]
    split <;> decide
  rw [Dev.failover_link hdown, Dev.failover_evt, hlink, hst, Dev.link_setLink_same]
  refine ⟨rfl, rfl, rfl, rfl, ?_⟩
  have hevt : d3.lnk.evt.getLsbD 1 = true := by
    rw [hd3]
    simp only [d2, Dev.raiseLnk, BitVec.getLsbD_or]
    split <;> simp
  rw [BitVec.getLsbD_or, hevt, Bool.true_or]

/-! Flits received. -/

/-- What arrives on link l leaves its state and its place in sequence, and may only add messages. -/
def Received (l : Nat) (d x : Dev) : Prop := Sent l d x ∧ d.lnk.held.length ≤ x.lnk.held.length

theorem Received.refl (l : Nat) (d : Dev) : Received l d d := ⟨.refl l d, Nat.le_refl _⟩

theorem Received.ite {l : Nat} {d x y : Dev} {p : Bool} (hx : Received l d x) (hy : Received l d y) : Received l d (if p then x else y) := by
  split
  · exact hx
  · exact hy

theorem Received.foldl {α : Type} {l : Nat} (f : Dev → α → Dev) (h : ∀ d a, Received l d (f d a)) : ∀ (q : List α) (d : Dev), Received l d (q.foldl f d)
  | [], d => .refl l d
  | a :: q, d => ⟨(h d a).1.trans (foldl f h q (f d a)).1, Nat.le_trans (h d a).2 (foldl f h q (f d a)).2⟩

theorem Dev.count_received {l : Nat} (d : Dev) {o : Option Nat} {g i n : Nat} : Received l d (d.count o g i n) :=
  ⟨.of_lnk (d.count_lnk o g i n), Nat.le_of_eq (congrArg (fun x => x.held.length) (d.count_lnk o g i n).symm)⟩

/-- One unit that arrives may make a message whole. -/
theorem Dev.rxUnit_received (d : Dev) (l vc : Nat) (u : List Byte) : Received l d (d.rxUnit l vc u) := by
  unfold Dev.rxUnit
  extract_lets x us m d1
  have h1 : Sent l d d1 := Sent.setLink rfl rfl rfl
  split
  · refine ⟨h1.trans ⟨fun _ _ => rfl, rfl, rfl, rfl⟩, ?_⟩
    simp [d1, Dev.setLink]
  · exact ⟨Sent.setLink rfl rfl rfl, Nat.le_refl _⟩

theorem Dev.held_of_flits {d x : Dev} (h : x.besideFlits = d.besideFlits) : x.lnk.held = d.lnk.held := (congrArg (fun y : Dev => y.lnk.held) h :)

/-- An answer takes no message. -/
theorem Dev.answerFlit_held (d : Dev) (l : Nat) (nak : Bool) : (d.answerFlit l nak).lnk.held = d.lnk.held := by
  unfold Dev.answerFlit
  dsimp only
  split
  · exact Dev.held_of_flits ((Dev.pump_besideFlits l _ _).trans (d.sendFlit_besideFlits l nak))
  · rfl

theorem Link.acked_side (x : Link) (ack : BitVec 10) : (x.acked ack).st = x.st ∧ (x.acked ack).rxSeq = x.rxSeq := by
  unfold Link.acked
  split <;> exact ⟨rfl, rfl⟩

section
variable {d : Dev} {l : Nat} {f : List Byte} {fec : FecEnv}

theorem Dev.rxFlit_down (h : (d.link l).st ≠ 2) : d.rxFlit l f fec = d := if_pos (by simpa using h)

/-- A flit whose check fails is not taken, and a replay is asked for. -/
theorem Dev.rxFlit_bad (h : (d.link l).st = 2) (hbad : fec.uncorr = true ∨ f.length ≠ 128 ∨ fieldAt f 124 4 ≠ crc32 (f.take 124)) :
    ((d.rxFlit l f fec).link l).rxSeq = (d.link l).rxSeq ∧ ((d.rxFlit l f fec).link l).nakd = true ∧ (d.rxFlit l f fec).lnk.held = d.lnk.held := by
  unfold Dev.rxFlit
  extract_lets x d1
  rw [if_neg (by simp [x, h]), if_pos (by rcases hbad with hb | hb | hb <;> simp [hb])]
  have hx := Dev.answerFlit_sent ((d1.setLink l { d1.link l with nakd := true }).count none 3 (8 * l + 7) 128) l true
  have h1 : (d1.link l).rxSeq = (d.link l).rxSeq := by rw [Dev.link_setLink_same]
  refine ⟨hx.rxSeq.trans ?_, hx.nakd.trans ?_, (Dev.answerFlit_held _ _ _).trans ?_⟩
  · rw [Dev.count_link, Dev.link_setLink_same]
    exact h1
  · rw [Dev.count_link, Dev.link_setLink_same]
  · rw [Dev.count_lnk]
    rfl

/-- The next flit in sequence is taken: its units arrive, and it is answered. -/
theorem Dev.rxFlit_next (h : (d.link l).st = 2) (hfec : fec.uncorr = false) (hlen : f.length = 128) (hcrc : fieldAt f 124 4 = crc32 (f.take 124))
    (hnak : bit (fieldAt f 2 2) 15 = false) (hseq : fieldAt f 0 2 % 1024 = (d.link l).rxSeq.toNat) :
    ((d.rxFlit l f fec).link l).rxSeq = (d.link l).rxSeq + 1 ∧ ((d.rxFlit l f fec).link l).nakd = false ∧ d.lnk.held.length ≤ (d.rxFlit l f fec).lnk.held.length := by
  unfold Dev.rxFlit
  extract_lets x d1 src ack d2 d3 y d4 c d5 d6 d7
  have h1 : d1.link l = _ := d.link_setLink_same l _
  have hno : d3 = d2 := if_neg (by simp [hnak])
  have h3 : d3.link l = (d1.link l).acked ack := (congrArg (fun z : Dev => z.link l) hno).trans (d1.link_setLink_same l _)
  obtain ⟨hst, hrx⟩ := (d1.link l).acked_side ack
  have hy : y.st = 2 ∧ y.rxSeq = (d.link l).rxSeq := by
    refine ⟨(congrArg Link.st h3).trans (hst.trans ?_), (congrArg Link.rxSeq h3).trans (hrx.trans ?_)⟩
    · rw [h1]
      exact h
    · rw [h1]
  have h3held : d3.lnk.held = d.lnk.held := (congrArg (fun z : Dev => z.lnk.held) hno :)
  have h6 : (d6.link l).rxSeq = (d.link l).rxSeq + 1 ∧ (d6.link l).nakd = false ∧ d6.lnk.held = d.lnk.held := by
    rw [Dev.count_link, Dev.count_lnk, Dev.link_setLink_same]
    exact ⟨by rw [hy.2], rfl, h3held⟩
  have h7 : Received l d6 d7 := Received.foldl _ (fun d _ => .ite d.count_received (d.rxUnit_received l _ _)) _ d6
  rw [if_neg (by simp [x, h]), if_neg (by simp [hfec, hlen, hcrc]), if_neg (by simp [hy.1]), if_neg (by simp [hy.2, hseq])]
  obtain ⟨h6rx, h6nak, h6held⟩ := h6
  obtain ⟨hsent, hle⟩ := h7
  have hans := hsent.trans (d7.answerFlit_sent l false)
  exact ⟨hans.rxSeq.trans h6rx, hans.nakd.trans h6nak, by rw [Dev.answerFlit_held, ← h6held]; exact hle⟩

end

/-- Settles O47: what is sent on a link leaves its state and receiving side; a link that goes down hands its messages to others. -/
theorem linkUpkeep : Obligations.LinkUpkeep := by
  intro s l halive
  refine ⟨fun node peer htrain => ?_, fun node peer h1 h3 h0 => ?_, fun c hc hup => ?_, fun hempty => ?_, fun hheld => ?_, fun f fec => ⟨fun hdown => ?_, fun hup hbad => ?_,
    fun hup hfec hlen hcrc hnak hseq => ?_⟩⟩
  · refine ⟨_, (onUp_on s (fun d => d.linkUp l.val node peer) halive).trans (next_congr s (if_pos ?_)), ?_⟩
    · rcases htrain with h | h | ⟨h, hphase, hexp, hiod⟩
      · simp [h]
      · simp [h]
      · simp [h, hphase, hexp, hiod]
    · refine ⟨((s.dev.setLink_data _ _).trans (Dev.raiseLnk_data _ _)).kept, ?_⟩
      rw [Dev.link_raiseLnk_setLink]
      exact ⟨rfl, rfl, rfl, rfl, rfl, rfl, rfl, rfl, rfl, rfl, rfl, fun _ hk => s.dev.link_setLink_other _ hk⟩
  · exact (onUp_on s (fun d => d.linkUp l.val node peer) halive).trans (next_congr s (Dev.linkUp_down h1 h3 h0 node peer))
  · have hexec : exec c s = .next { s with dev := s.dev.dropLink l.val 3 } := by
      rcases hc with rfl | ⟨rfl, hne⟩
      · exact (onUp_on s (fun d => if (d.link l.val).st == 2 then d.dropLink l.val 3 else d) halive).trans (next_congr s (if_pos (by simp [hup])))
      · exact (onUp_on s (fun d => if (d.link l.val).st == 2 && !(d.link l.val).replay.isEmpty then d.dropLink l.val 3 else d) halive).trans
          (next_congr s (if_pos (by simp [hup, hne])))
    exact ⟨_, hexec, (s.dev.dropLink_data _ _).kept, s.dev.dropLink_down l.val⟩
  · exact (onUp_on s (fun d => if (d.link l.val).st == 2 && !(d.link l.val).replay.isEmpty then d.dropLink l.val 3 else d) halive).trans
      (next_congr s (if_neg (by simp [hempty])))
  · obtain ⟨t, ht, -⟩ := s.dev.advTo_eq (((s.dev.link l.val).downTimes.headD s.dev.now) + 10000000000)
    refine ⟨_, (onUp_on s (fun d => if (d.link l.val).st == 4 then
      (d.advTo (((d.link l.val).downTimes.headD d.now) + 10000000000)).setLink l.val
        { (d.advTo (((d.link l.val).downTimes.headD d.now) + 10000000000)).link l.val with st := 1 } else d) halive).trans (next_congr s (if_pos (by simp [hheld]))),
      ((s.dev.advTo_data _).trans (Dev.setLink_data _ _ _)).kept, ?_⟩
    rw [Dev.link_setLink_same, ht]
    rfl
  · exact (onUp_on s (fun d => d.rxFlit l.val f fec) halive).trans (next_congr s (Dev.rxFlit_down hdown))
  · exact ⟨_, onUp_on s (fun d => d.rxFlit l.val f fec) halive, (s.dev.rxFlit_data _ _ _).kept, Dev.rxFlit_bad hup hbad⟩
  · exact ⟨_, onUp_on s (fun d => d.rxFlit l.val f fec) halive, (s.dev.rxFlit_data _ _ _).kept, Dev.rxFlit_next hup hfec hlen hcrc hnak hseq⟩

end Sys2Proof.Machine
end

section
/-!
Messages held by the module: requests, responses, expiry and timeouts (16 R350-R360).
-/
namespace Sys2Proof.Machine

/-! A message that leaves the receive buffers. -/

/-- Without a message: it is held no more. -/
def Dev.without (d : Dev) (h : Held) : Dev := { d with lnk := { d.lnk with held := d.lnk.held.filter (fun x => x.id != h.id) } }

theorem Dev.without_held (d : Dev) (h : Held) : ∀ y ∈ (d.without h).lnk.held, y.id ≠ h.id := by
  intro y hy
  simpa using (List.mem_filter.1 hy).2

theorem Dev.freeHeld_besideFlits (d : Dev) (h : Held) (o : Option Nat) : (d.freeHeld h o).besideFlits = (d.without h).besideFlits := by
  unfold Dev.freeHeld
  extract_lets x src y z n
  have hy : y.besideFlits = (d.without h).besideFlits := congrArg (fun v : Dev => v.without h) (d.count_besideFlits _ _ _ _)
  split
  · exact hy
  · exact hy

theorem Dev.freeHeld_besideSends (d : Dev) (h : Held) (o : Option Nat) : (d.freeHeld h o).besideSends = (d.without h).besideSends :=
  Dev.besideSends_of_flits (d.freeHeld_besideFlits h o)

/-- A message that left is held no more, whatever is sent then. -/
theorem Dev.held_gone {d x : Dev} {h : Held} (hx : x.besideSends = (d.without h).besideSends) : ∀ y ∈ x.lnk.held, y.id ≠ h.id := by
  have hheld : x.lnk.held = (d.without h).lnk.held := (congrArg (fun y : Dev => y.lnk.held) hx :)
  rw [hheld]
  exact d.without_held h

theorem Dev.mem_of_sends {d x : Dev} (h : x.besideSends = d.besideSends) : x.mem = d.mem := (congrArg (·.mem) h :)

theorem Dev.respond_besideSends (d : Dev) (m : Msg) (o : Option Nat) (st : Nat) (data : List Byte) : (d.respond m o st data).besideSends = d.besideSends :=
  Dev.dispatch_besideSends 2 d _ _ _

/-- A message that leaves, and is answered. -/
theorem Dev.freeHeld_respond (d : Dev) (h : Held) (o o' : Option Nat) (m : Msg) (st : Nat) (data : List Byte) :
    ((d.freeHeld h o).respond m o' st data).besideSends = (d.without h).besideSends :=
  (Dev.respond_besideSends _ _ _ _ _).trans (d.freeHeld_besideSends h o)

theorem Dev.meetSession_mem (d : Dev) (m : Msg) : (d.meetSession m).mem = d.mem := by
  unfold Dev.meetSession
  split <;> rfl

/-! A request executed. -/

theorem Dev.held_of_flight {d x : Dev} (h : x.flight = d.flight) : x.lnk.held = d.lnk.held := congrArg (fun f : Flight => f.2.2.2.1) h

theorem Dev.atomicAt_flight (d : Dev) (acc : Acc) (a op : Nat) (wide : Bool) (x y : Nat) : (d.atomicAt acc a op wide x y).1.flight = d.flight := by
  unfold Dev.atomicAt
  extract_lets n r old w
  have hr : r.d.flight = d.flight := d.readBytes_flight acc a n
  split
  · exact hr
  · exact (r.d.writeBytes_flight _ _ _).trans hr

theorem Dev.execRemote_flight (d : Dev) (e : Env) (o : Nat) (m : Msg) : (d.execRemote e o m).1.flight = d.flight := by
  unfold Dev.execRemote
  extract_lets a acc n r x w
  split
  · rfl
  · split
    · rfl
    · split
      · exact d.readBytes_flight _ _ _
      · exact d.atomicAt_flight _ _ _ _ _ _
      · exact d.writeBytes_flight _ _ _

theorem Dev.countZf_besideCounts (d : Dev) (o : Option Nat) (l : List (Nat × Nat)) : (d.countZf o l).besideCounts = d.besideCounts :=
  foldl_leaves Dev.besideCounts (fun d (x : Nat × Nat) => d.count o 2 x.1 x.2) (fun d _ => d.count_besideCounts _ _ _ _) l d

/-! The commands, on a message held. -/

section
variable {s : State} {id : Nat} {h : Held} (halive : s.dev.supAlive = true) (hheld : s.dev.heldMsg id = some h)
include halive hheld

theorem exec_inboundRequest (e : Env) : exec (.inboundRequest id e) s = .next { s with
    dev := if h.msg.op == 5 then s.dev.applyEnv e else if !isReqMsg h.msg then (s.dev.applyEnv e).freeHeld h none
      else if s.dev.msgTurn h then (s.dev.applyEnv e).inRequest h e else s.dev.applyEnv e } := by
  have hmsg : (s.dev.applyEnv e).heldMsg id = some h := hheld
  change execInboundRequest id e s = _
  rw [execInboundRequest, onUp_on _ _ halive]
  dsimp only
  rw [hmsg]
  rfl

theorem exec_inboundResponse (e : Env) : exec (.inboundResponse id e) s = .next { s with
    dev := if h.msg.op == 5 then (s.dev.applyEnv e).inResponse h else s.dev.applyEnv e } := by
  have hmsg : (s.dev.applyEnv e).heldMsg id = some h := hheld
  change execInboundResponse id e s = _
  rw [execInboundResponse, onUp_on _ _ halive]
  dsimp only
  rw [hmsg]

theorem exec_messageHoldExpiry : exec (.messageHoldExpiry id) s = .next { s with dev := s.dev.dropHeld h } := by
  change execMessageHoldExpiry id s = _
  rw [execMessageHoldExpiry, onUp_on _ _ halive, hheld]

end

/-- A request in its turn. -/
theorem inboundRequest_turn {s : State} {id : Nat} {e : Env} {h : Held} (halive : s.dev.supAlive = true) (hheld : s.dev.heldMsg id = some h) (h1 : 1 ≤ h.msg.op)
    (h4 : h.msg.op ≤ 4) (hturn : s.dev.msgTurn h = true) : exec (.inboundRequest id e) s = .next { s with dev := (s.dev.applyEnv e).inRequest h e } := by
  rw [exec_inboundRequest halive hheld, if_neg (by simp; omega), if_neg (by simp [isReqMsg]; omega), if_pos hturn]

section
variable {d : Dev} {h : Held} {e : Env} (hdst : h.msg.dst = d.sys.node.toNat)
include hdst

theorem Dev.inRequest_unready (hready : d.sys.ready = false) : d.inRequest h e = (d.freeHeld h none).respond h.msg none 7 [] := by
  unfold Dev.inRequest
  dsimp only
  rw [if_neg (by simp [hdst]), if_pos (by simp [hready])]

theorem Dev.inRequest_refused (hready : d.sys.ready = true) (hacc : (d.meetSession h.msg).accepts h.msg = none) :
    d.inRequest h e = ((d.meetSession h.msg).freeHeld h none).respond h.msg none 5 [] := by
  unfold Dev.inRequest
  dsimp only
  rw [if_neg (by simp [hdst]), if_neg (by simp [hready]), hacc]

theorem Dev.inRequest_accepted {o : Nat} (hready : d.sys.ready = true) (hacc : (d.meetSession h.msg).accepts h.msg = some o) (hun : h.msg.tracked = false)
    {r : Dev × Nat × List Byte} (hr : r = (((d.meetSession h.msg).freeHeld h (some o)).countZf (some o) e.zf).execRemote e o h.msg) :
    d.inRequest h e = r.1.respond h.msg (some o) r.2.1 r.2.2 := by
  unfold Dev.inRequest
  dsimp only
  rw [if_neg (by simp [hdst]), if_neg (by simp [hready]), hacc]
  dsimp only
  rw [if_neg (by simp [hun]), hr]

end

/-- A message whose hold expires leaves; a request is answered. -/
theorem Dev.dropHeld_besideSends (d : Dev) (h : Held) :
    (d.dropHeld h).besideSends = ({ d.without h with lnk := { (d.without h).lnk with dropped := satAdd d.lnk.dropped 1 } } : Dev).besideSends := by
  unfold Dev.dropHeld
  extract_lets x src y
  have hy : y.besideSends = ({ d.without h with lnk := { (d.without h).lnk with dropped := satAdd d.lnk.dropped 1 } } : Dev).besideSends :=
    congrArg (fun v : Dev => { v with lnk := { v.lnk with dropped := satAdd v.lnk.dropped 1 } }) (d.freeHeld_besideSends h none)
  split
  · exact hy
  · exact (Dev.respond_besideSends _ _ _ _ _).trans hy

/-! Responses. -/

theorem Dev.answerPkt_started {d : Dev} {q : QRef} {tag : BitVec 16} {p : Pkt} (hp : d.pkt? q tag = some p) (hstarted : p.phase = .started) (st : BitVec 16)
    (res : Nat) : d.answerPkt q tag st res = d.close p st res := by
  unfold Dev.answerPkt
  rw [hp]
  exact if_pos (by simp [hstarted])

/-- The end of a request of an atomic, of which no other waits to be sent. -/
theorem Dev.endRid_atomic {d : Dev} {r : Rid} (huse : r.use = .atomic) (hsent : ∀ y ∈ d.lnk.rids, y.sent = true) (late : Bool) (st : BitVec 16) (data : List Byte)
    {p : Pkt} (hp : d.pkt? r.q r.tag = some p) (hstarted : p.phase = .started) :
    ∃ x : Dev, d.endRid r late st data = x.close p st (if isExc st then 0 else leNat (data.take 8)) ∧ x.disp = d.disp ∧ x.lnk.held = d.lnk.held := by
  have hdone (x : Dev) (hx : x.disp = d.disp) : x.answerPkt r.q r.tag st (if isExc st then 0 else leNat (data.take 8)) = x.close p st (if isExc st then 0 else leNat (data.take 8)) :=
    Dev.answerPkt_started ((Dev.pkt?_congr hx _ _).trans hp) hstarted _ _
  let x := if isExc st then d.dropRid r.rid late else (d.dropRid r.rid late).ridStored r data
  have hx : x.disp = d.disp ∧ x.lnk = (d.dropRid r.rid late).lnk := by
    unfold x Dev.ridStored
    split
    · exact ⟨rfl, rfl⟩
    · dsimp only
      split <;> exact ⟨rfl, rfl⟩
  have hridDone : (d.dropRid r.rid late).ridDone r st data = x.close p st (if isExc st then 0 else leNat (data.take 8)) := by
    unfold Dev.ridDone
    rw [huse]
    exact hdone x hx.1
  refine ⟨x, ?_, hx.1, congrArg (·.held) hx.2⟩
  have hrids : ∀ y ∈ (x.close p st (if isExc st then 0 else leNat (data.take 8))).lnk.rids, y.sent = true := by
    rw [Dev.close_lnk, hx.2]
    exact fun y hy => hsent y (List.mem_filter.1 hy).1
  unfold Dev.endRid
  rw [hridDone, Dev.sendAll_idle hrids]

/-- A response counted as late. -/
def Dev.countLate (d : Dev) : Dev := { d with lnk := { d.lnk with late := satAdd d.lnk.late 1 } }

section
variable {d : Dev} {h : Held} (hdst : h.msg.dst = d.sys.node.toNat)
include hdst

/-- A response with success to a request outstanding ends it. -/
theorem Dev.inResponse_ends {r : Rid} (hr : d.lnk.rids.find? (fun y => y.rid.toNat == h.msg.rid && y.sent) = some r) (hst : h.msg.status = 0) :
    d.inResponse h = (d.freeHeld h (some r.owner)).endRid r false sOk h.msg.data := by
  unfold Dev.inResponse
  dsimp only
  rw [if_neg (by simp [hdst]), hr]
  dsimp only
  rw [if_neg (by simp [hst]), hst]
  rfl

/-- A response to nothing outstanding, whose number was not freed before, is late. -/
theorem Dev.inResponse_late (hr : d.lnk.rids.find? (fun y => y.rid.toNat == h.msg.rid && y.sent) = none)
    (hgone : d.lnk.gone.find? (fun g => g.rid.toNat == h.msg.rid) = none) :
    d.inResponse h = (d.freeHeld h none).countLate := by
  have hg : (d.freeHeld h none).lnk.gone = d.lnk.gone := (congrArg (fun y : Dev => y.lnk.gone) (d.freeHeld_besideFlits h none) :)
  unfold Dev.inResponse
  dsimp only
  rw [if_neg (by simp [hdst]), hr]
  dsimp only [Option.map_none]
  refine if_pos ?_
  rw [hg, hgone]
  rfl

end

/-- Settles O49: a message that leaves is held no more, whatever is answered; the end of a request ends its packet. -/
theorem heldMessages : Obligations.HeldMessages := by
  intro s id e h d halive hheld hid hd
  have hkept : DataStep s.dev d := hd ▸ s.dev.applyEnv_data e
  have hgone {x y : Dev} (hx : x.besideSends = (y.without h).besideSends) : ∀ z ∈ x.lnk.held, z.id ≠ id := hid ▸ Dev.held_gone hx
  have hsys : d.sys = s.dev.sys := by rw [hd]; rfl
  have hlnk : d.lnk = s.dev.lnk := by rw [hd]; rfl
  have hdisp : d.disp = s.dev.disp := by rw [hd]; rfl
  refine ⟨fun h1 h4 hturn => ?_, fun h1 h4 hturn hdst => ⟨fun hready => ?_, fun hready hacc => ?_, fun o r hready hacc hun hr => ?_⟩, fun h5 => ?_, fun h5 => ?_, ?_,
    fun r h5 hdst hr hst huse p hp hstarted hopc hok hsent => ?_, fun h5 hdst hr hnone => ?_, fun rid r hr huse p hp hstarted hsent => ?_, fun rid hr => ?_⟩
  · rw [exec_inboundRequest halive hheld, if_neg (by simp; omega), if_neg (by simp [isReqMsg]; omega), if_neg (by simp [hturn]), hd]
  · rw [← hsys] at hdst hready
    refine ⟨_, inboundRequest_turn halive hheld h1 h4 hturn, ?_⟩
    rw [← hd]
    have heq : d.inRequest h e = _ := Dev.inRequest_unready hdst hready
    have hx := d.freeHeld_respond h none none h.msg 7 []
    exact ⟨heq, (hkept.trans (d.inRequest_data h e)).kept, by rw [heq]; exact (Dev.mem_of_sends hx :), by rw [heq]; exact hgone hx⟩
  · rw [← hsys] at hdst hready
    refine ⟨_, inboundRequest_turn halive hheld h1 h4 hturn, ?_⟩
    rw [← hd]
    have heq : d.inRequest h e = _ := Dev.inRequest_refused hdst hready hacc
    have hx := (d.meetSession h.msg).freeHeld_respond h none none h.msg 5 []
    exact ⟨(hkept.trans (d.inRequest_data h e)).kept, by rw [heq]; exact (Dev.mem_of_sends hx).trans (d.meetSession_mem _), by rw [heq]; exact hgone hx⟩
  · rw [← hsys] at hdst hready
    refine ⟨_, inboundRequest_turn halive hheld h1 h4 hturn, ?_⟩
    rw [← hd]
    have heq : d.inRequest h e = _ := Dev.inRequest_accepted hdst hready hacc hun hr
    have hheldr : r.1.lnk.held = ((d.meetSession h.msg).without h).lnk.held := by
      rw [hr, Dev.held_of_flight (Dev.execRemote_flight _ _ _ _), Dev.held_of_flits (Dev.besideFlits_of_counts (Dev.countZf_besideCounts _ _ _)),
        Dev.held_of_flits (Dev.freeHeld_besideFlits _ _ _)]
    refine ⟨heq, (hkept.trans (d.inRequest_data h e)).kept, fun y hy => ?_⟩
    have hyr : y ∈ r.1.lnk.held := by
      rw [heq] at hy
      exact (congrArg (fun z : Dev => z.lnk.held) (r.1.respond_besideSends h.msg (some o) r.2.1 r.2.2) :) ▸ hy
    rw [hheldr] at hyr
    exact hid ▸ Dev.without_held _ _ y hyr
  · rw [exec_inboundRequest halive hheld, if_pos (by simp [h5]), hd]
  · rw [exec_inboundResponse halive hheld, if_neg (by simp [h5]), hd]
  · have hx := s.dev.dropHeld_besideSends h
    exact ⟨_, exec_messageHoldExpiry halive hheld, (s.dev.dropHeld_data h).kept, (Dev.mem_of_sends hx :), (congrArg (fun z : Dev => z.lnk.dropped) hx :),
      hid ▸ fun y hy => s.dev.without_held h y ((congrArg (fun z : Dev => z.lnk.held) hx :) ▸ hy)⟩
  · rw [← hsys] at hdst
    rw [← hlnk] at hr hsent
    refine ⟨_, (exec_inboundResponse halive hheld e).trans (next_congr s (if_pos (by simp [h5]))), ?_⟩
    rw [← hd]
    refine ⟨(hkept.trans (d.inResponse_data h)).kept, ?_⟩
    have hfree := d.freeHeld_besideFlits h (some r.owner)
    have hrids : (d.freeHeld h (some r.owner)).lnk.rids = d.lnk.rids := (congrArg (fun y : Dev => y.lnk.rids) hfree :)
    have hp' : (d.freeHeld h (some r.owner)).pkt? r.q r.tag = some p := (Dev.pkt?_congr (((congrArg (fun y : Dev => y.disp) hfree :)).trans hdisp) _ _).trans hp
    obtain ⟨x, hx, hxd, hxh⟩ := Dev.endRid_atomic huse (by rw [hrids]; exact hsent) false sOk h.msg.data hp' hstarted
    rw [Dev.inResponse_ends hdst hr hst, hx]
    refine ⟨?_, ?_⟩
    · have hres := doneRes_finish ((Dev.pkt?_congr hxd _ _).trans hp') rfl sOk (leNat (h.msg.data.take 8))
      rw [hok] at hres
      unfold Dev.close
      rw [if_pos (resultSaid_ok (by decide) (by rw [hopc]; decide) _)]
      exact hres
    · rw [Dev.close_lnk, hxh, Dev.held_of_flits hfree]
      exact hid ▸ d.without_held h
  · rw [← hsys] at hdst
    rw [← hlnk] at hr hnone
    refine ⟨_, (exec_inboundResponse halive hheld e).trans (next_congr s (if_pos (by simp [h5]))), ?_⟩
    rw [← hd]
    have hx := d.freeHeld_besideFlits h none
    have hlate : (d.freeHeld h none).lnk.late = s.dev.lnk.late := (congrArg (fun z : Dev => z.lnk.late) hx :).trans (congrArg (·.late) hlnk)
    rw [Dev.inResponse_late hdst hr hnone]
    exact ⟨((hkept.trans (d.freeHeld_data h none)).trans (Dev.setLnk_data _ _)).kept, congrArg (satAdd · 1) hlate, ((congrArg (fun z : Dev => z.disp) hx :)).trans hdisp,
      (congrArg (fun z : Dev => z.mem) hx :)⟩
  · rw [← hlnk] at hr hsent
    have hexec : exec (.transactionTimeout rid e) s = .next { s with dev := d.endRid r true sTimeout [] } := by
      change execTransactionTimeout rid e s = _
      rw [execTransactionTimeout, onUp_on _ _ halive, ← hd]
      dsimp only
      rw [hr]
    obtain ⟨x, hx, hxd, -⟩ := Dev.endRid_atomic huse hsent true sTimeout [] ((Dev.pkt?_congr hdisp _ _).trans hp) hstarted
    refine ⟨_, hexec, (hkept.trans (d.endRid_data r true sTimeout [])).kept, ?_⟩
    rw [hx]
    exact doneWith_close ((Dev.pkt?_congr (hxd.trans hdisp) _ _).trans hp) rfl sTimeout _
  · rw [← hlnk] at hr
    change execTransactionTimeout rid e s = _
    rw [execTransactionTimeout, onUp_on _ _ halive, ← hd]
    dsimp only
    rw [hr]

end Sys2Proof.Machine
end

section
/-!
Packets that use the links: ROUTE_SET, REMOTE_ATOMIC and SEND (16 R349, R362, R363).
-/
namespace Sys2Proof.Machine

/-! A remote request entered. -/

/-- A request entered: not sent yet, and nothing else of the Dispatcher or of memory changes. -/
theorem Dev.request_enters (d : Dev) (r : Rid) : ∃ r' : Rid, (d.request r).lnk.rids = d.lnk.rids ++ [r'] ∧ r'.op = r.op ∧ r'.node = r.node ∧
    r'.tracked = r.tracked ∧ r'.sent = false ∧ (d.request r).disp = d.disp ∧ (d.request r).mem = d.mem ∧ (d.request r).lnk.quiet = d.lnk.quiet :=
  ⟨_, rfl, rfl, rfl, rfl, rfl, rfl, rfl, rfl⟩

/-- The request of one segment of a SEND. -/
def Pkt.segmentRid (p : Pkt) (b : List Byte) (g : Nat × Nat) : Rid :=
  { op := 4, node := dpaNode g.1, vc := 2, tracked := true, owner := p.owner, q := p.q, tag := p.tag, addr := g.1, len := g.2, use := .segment, data := b.take g.2 }

/-- The segments of a SEND requested, with their data. -/
def Dev.enterSegments (d : Dev) (p : Pkt) (segs : List (Nat × Nat)) (b : List Byte) : Dev :=
  (segs.foldl (fun (x : Dev × List Byte) g => (x.1.request (p.segmentRid x.2 g), x.2.drop g.2)) (d, b)).1

/-- One request for each segment. -/
theorem Dev.enterSegments_enters (p : Pkt) : ∀ (segs : List (Nat × Nat)) (d : Dev) (b : List Byte),
    (d.enterSegments p segs b).lnk.rids.length = d.lnk.rids.length + segs.length ∧ (d.enterSegments p segs b).disp = d.disp ∧
      (d.enterSegments p segs b).lnk.quiet = d.lnk.quiet := by
  intro segs
  induction segs with
  | nil => exact fun d b => ⟨rfl, rfl, rfl⟩
  | cons g segs ih =>
    intro d b
    obtain ⟨hlen, hdisp, hquiet⟩ := ih (d.request (p.segmentRid b g)) (b.drop g.2)
    obtain ⟨r', hrids, -⟩ := d.request_enters (p.segmentRid b g)
    refine ⟨hlen.trans ?_, hdisp, hquiet⟩
    rw [hrids, List.length_append, List.length_singleton, List.length_cons, Nat.add_assoc, Nat.add_comm 1]

/-! SEND. -/

theorem Dev.close_sends (d : Dev) (p : Pkt) (st : BitVec 16) (res : Nat) : (d.close p st res).disp.sends = d.disp.sends := by
  unfold Dev.close
  split <;> rfl


/-- The statuses met in order, none of which refuses. -/
theorem foldl_thenSt_ok {α : Type} (f : α → BitVec 16) (l : List α) (h : ∀ a ∈ l, f a = sOk) : l.foldl (fun s a => thenSt s (f a)) sOk = sOk := by
  induction l with
  | nil => rfl
  | cons a l ih =>
    rw [List.foldl_cons, h a List.mem_cons_self]
    exact ih (fun b hb => h b (List.mem_cons_of_mem a hb))

/-- The first that refuses stands. -/
theorem foldl_thenSt_exc {α : Type} (f : α → BitVec 16) {st : BitVec 16} (hst : isExc st = true) (l : List α) : l.foldl (fun s a => thenSt s (f a)) st = st := by
  induction l with
  | nil => rfl
  | cons a l ih =>
    have hstep : thenSt st (f a) = st := if_pos hst
    rw [List.foldl_cons, hstep]
    exact ih

section
variable {d : Dev} {p : Pkt} {e : Env} (hjob : d.sendJob? p.q p.tag = none)
include hjob

/-- A SEND whose first segment lies on this module is refused. -/
theorem Dev.opSend_local {g : Nat × Nat} {rest : List (Nat × Nat)} (hsegs : d.segments p = g :: rest) (hloc : isLocal g.1 = true) : d.opSend p e = d.close p sBadParam 0 := by
  have hfirst : thenSt sOk (d.remoteStatus g.1) = sBadParam := by
    rw [Dev.remoteStatus, if_pos hloc]
    decide
  unfold Dev.opSend
  dsimp only
  rw [hjob, hsegs, List.map_cons, List.cons_append, List.foldl_cons, hfirst, foldl_thenSt_exc _ (by decide)]
  rfl

/-- A SEND without a notification whose source reads enters one request for each of its segments. -/
theorem Dev.opSend_enters (hnote : p.f 4 47 0 = 0) (hok : ∀ g ∈ d.segments p, d.remoteStatus g.1 = sOk) {r : RdR} (hr : r = d.readP p e (p.f 1 47 0) (p.f 3 31 0))
    (hread : isExc r.st = false) {j : SendJob} (hj : j = { q := p.q, tag := p.tag, left := (d.segments p).length, corr := r.st == sCorrected, notify := 0 }) :
    d.opSend p e = (Dev.enterSegments { r.d with disp := { r.d.disp with sends := r.d.disp.sends ++ [j] } } p (d.segments p) r.bytes).sendAll := by
  have hst : (((d.segments p).map (fun g : Nat × Nat => g.1)) ++ []).foldl (fun s a => thenSt s (d.remoteStatus a)) sOk = sOk := by
    refine foldl_thenSt_ok d.remoteStatus _ (fun a ha => ?_)
    rw [List.append_nil] at ha
    obtain ⟨g, hg, rfl⟩ := List.mem_map.1 ha
    exact hok g hg
  unfold Dev.opSend
  dsimp only
  rw [hjob, if_pos hnote, if_pos hnote, hst, ← hr, if_neg (by simp), if_neg (by decide), if_neg (by simp [hread]), hj]
  rfl

end

/-! REMOTE_ATOMIC. -/

theorem Dev.drainQueue_flight (d : Dev) (e : Env) (q : QRef) : (d.drainQueue e q).flight = d.flight :=
  foldl_leaves Dev.flight (fun d (x : Nat × List SbEntry) => d.drain e x.1) (fun d x => d.drain_flight e x.1) _ d

theorem Dev.node_of_flight {d x : Dev} (h : x.flight = d.flight) : x.sys.node = d.sys.node := congrArg (fun f : Flight => f.2.2.2.2.1) h

/-- The opcodes in flight. -/
def Dev.opcs (d : Dev) : List (BitVec 8) := d.disp.pkts.map (·.opc)

theorem Dev.opcs_of_flight {d x : Dev} (h : x.flight = d.flight) : x.opcs = d.opcs := by
  have hopc (y : Dev) : y.opcs = (y.flight.1.pkts).map (·.opc) := by simp [Dev.opcs, Dev.flight, Pkt.bare]
  rw [hopc, hopc, h]

theorem Dev.modPkt_opcs (d : Dev) (ord : Nat) {f : Pkt → Pkt} (hf : ∀ p, (f p).opc = p.opc) : (d.modPkt ord f).opcs = d.opcs := by
  refine List.map_map.trans (List.map_congr_left fun p _ => ?_)
  dsimp only [Function.comp]
  split
  · exact hf p
  · rfl

theorem Dev.conclude_opcs (p : Pkt) (r : OpR) : (Dev.conclude p r).opcs = r.d.opcs := by
  refine (Dev.modPkt_opcs _ _ ?_).trans ?_
  · exact fun _ => rfl
  unfold Dev.close
  split
  · exact r.d.modPkt_opcs _ (fun _ => rfl)
  · exact r.d.draw.modPkt_opcs _ (fun _ => rfl)

/-- Where no WAIT is in flight, a word that changes wakes none. -/
theorem Dev.wakeWaits_idle {d : Dev} (h : 0x03#8 ∉ d.opcs) (e : Env) (a : Nat) : d.wakeWaits e a = d := by
  unfold Dev.wakeWaits
  rw [List.filter_eq_nil_iff.2 ?_]
  · rfl
  · intro p hp hall
    simp only [Bool.and_eq_true, beq_iff_eq] at hall
    exact h (List.mem_map.2 ⟨p, hp, hall.1.1.1⟩)

/-- The request of an atomic at another node. -/
def Pkt.atomicRid (p : Pkt) (a : Nat) : Rid :=
  { op := 3, node := dpaNode a, vc := 0, tracked := true, owner := p.owner, q := p.q, tag := p.tag, addr := a, len := if bit (p.word 4) 4 then 8 else 4,
    use := .atomic, data := leBytes 8 (p.word 2) ++ leBytes 8 (p.word 3), arg := BitVec.ofNat 8 (p.f 4 3 0 + 8 * b2n (bit (p.word 4) 4)) }

/-- REMOTE_ATOMIC on a word that may be named: its queue's store buffers drain, and it waits for the writes of the packets ahead. -/
theorem Dev.opRemoteAtomic_eq {d : Dev} {p : Pkt} {e : Env} {a : Nat} {lf : Leaf} (hleaf : leafDpa p.leaves (p.f 1 47 0) = some (a, lf)) (hspace : dpaSpace (d.canon a) ≤ 2)
    (hwait : p.waitRid = 0) : d.opRemoteAtomic p e =
      let x := d.drainQueue e p.q
      if x.writesPend (fun r o => r == p.q && o < p.ord) then x
      else if isLocal (d.canon a) then
        let r := x.atomicAt (p.acc e) (d.canon a) (p.f 4 3 0) (bit (p.word 4) 4) (p.word 2) (p.word 3)
        if isExc r.2.1 then r.1.close p r.2.1 0
        else (Dev.conclude p { d := r.1, st := r.2.1, res := r.2.2, wrote := [(d.canon a, if bit (p.word 4) 4 then 8 else 4)] }).wakeWaits e (d.canon a)
      else if x.sys.node.toNat == 0xFF then x.close p sUnmapped 0
      else
        ((x.modPkt p.ord (fun y => { y with waitRid := 1 })).request (p.atomicRid (d.canon a))).sendAll := by
  unfold Dev.opRemoteAtomic Pkt.atomicRid
  rw [hleaf]
  dsimp only
  rw [if_neg (by simp; omega), if_neg (by omega), if_neg (by simp [hwait])]

/-- An atomic on a word of this module: its packet is done, with the old value where nothing failed. -/
theorem Dev.atomic_done {d : Dev} {q : QRef} {tag : BitVec 16} {p : Pkt} (hp : d.pkt? q tag = some p) (hopen : p.opc.toNat ∉ openResultOps) (hidle : 0x03#8 ∉ d.opcs)
    {x : Dev} (hx : x.flight = d.flight) (st : BitVec 16) (old : Nat) (wrote : List (Nat × Nat)) (e : Env) (a : Nat) :
    ∃ p', (if isExc st then x.close p st 0 else (Dev.conclude p { d := x, st := st, res := old, wrote := wrote }).wakeWaits e a).pkt? q tag = some p' ∧
      p'.phase = .done ∧ (isExc p'.status = false → p'.result = BitVec.ofNat 64 old) := by
  split
  · next hexc =>
    obtain ⟨y, hy, hbare⟩ := Dev.pkt?_of_flight hx hp
    obtain ⟨z, hz, -, hdone, hst, -⟩ := Dev.close_pkt hy (congrArg Pkt.ord hbare :) st 0
    refine ⟨z, hz, hdone, fun hok => ?_⟩
    have hgood := (isExc_thenSt (hst ▸ hok)).1
    exact absurd hexc (by simp [hgood])
  · obtain ⟨p', hp', hdone, hres⟩ := conclude_pkt (r := { d := x, st := st, res := old, wrote := wrote }) hp hx
    have hops : 0x03#8 ∉ (Dev.conclude p { d := x, st := st, res := old, wrote := wrote }).opcs := by
      rw [Dev.conclude_opcs, Dev.opcs_of_flight hx]
      exact hidle
    rw [Dev.wakeWaits_idle hops]
    exact ⟨p', hp', hdone, fun hok => (hres hopen hok).2⟩

/-! ROUTE_SET. -/

/-- One entry of both tables. -/
def Dev.setRoute (d : Dev) (n : Nat) (pri alt : BitVec 72) : Dev := { d with lnk := { d.lnk with pri := tset d.lnk.pri n pri, alt := tset d.lnk.alt n alt } }

section
variable {d : Dev} {p : Pkt}

theorem Dev.opRouteSet_exposed (hpri : d.maskExposed (p.word 2 + 2 ^ 64 * p.f 3 7 0) = true) (halt : d.maskExposed (p.word 4 + 2 ^ 64 * p.f 5 7 0) = true) :
    d.opRouteSet p =
      (d.setRoute (p.f 1 7 0) (BitVec.ofNat 72 (p.word 2 + 2 ^ 64 * p.f 3 7 0)) (BitVec.ofNat 72 (p.word 4 + 2 ^ 64 * p.f 5 7 0))).close p sOk 0 := by
  unfold Dev.opRouteSet
  dsimp only
  rw [hpri, halt]
  rfl

theorem Dev.opRouteSet_hidden (h : d.maskExposed (p.word 2 + 2 ^ 64 * p.f 3 7 0) = false ∨ d.maskExposed (p.word 4 + 2 ^ 64 * p.f 5 7 0) = false) :
    d.opRouteSet p = d.close p sBadParam 0 := by
  unfold Dev.opRouteSet
  dsimp only
  rcases h with h | h
  · rw [h]
    rfl
  · rw [h, Bool.and_false]
    rfl

end

/-- Settles O48: requests enter one by one, and are sent once the session is no longer quiet. -/
theorem linkPackets : Obligations.LinkPackets := by
  intro s q tag e p d hd hq htag
  have hdata : DataStep s.dev d := hd ▸ s.dev.meet_data e _
  have hdisp : d.disp = s.dev.disp := hd ▸ s.dev.meet_disp _ _
  have hflight : d.flight = s.dev.flight := hd ▸ s.dev.meet_flight _ _
  have hsend (h : Runs s.dev q tag 0x50 p) : exec (.send q tag e) s = .next { s with dev := (d.opSend p e).flushRegs e } :=
    hd ▸ meetPkt_runs h e (by decide) (fun d p => d.opSend p e)
  have hatomic (h : Runs s.dev q tag 0x51 p) : exec (.remoteAtomic q tag e) s = .next { s with dev := (d.opRemoteAtomic p e).flushRegs e } :=
    hd ▸ meetPkt_runs h e (by decide) (fun d p => d.opRemoteAtomic p e)
  refine ⟨fun h => ⟨fun hpri halt hok => ?_, fun hhid => ?_⟩, fun a lf d1 h hleaf hwait hspace hd1 => ?_, fun h hjob hnote hok r hr hread hquiet => ?_, fun h hjob hfirst => ?_⟩
  · have hexec := onRun_pkt h (List.mem_singleton.2 rfl) {} Dev.opRouteSet
    refine ⟨_, hexec, (s.dev.opRouteSet_data p).kept, ?_⟩
    rw [Dev.opRouteSet_exposed hpri halt, Dev.close_lnk]
    refine ⟨?_, tget_tset_same _ _ _ _, tget_tset_same _ _ _ _, fun n hn => ⟨tget_tset_other _ _ _ _ _ hn, tget_tset_other _ _ _ _ _ hn⟩⟩
    have hdone := doneWith_close (d := s.dev.setRoute (p.f 1 7 0) (BitVec.ofNat 72 (p.word 2 + 2 ^ 64 * p.f 3 7 0)) (BitVec.ofNat 72 (p.word 4 + 2 ^ 64 * p.f 5 7 0)))
      (p := p) h.here rfl sOk 0
    rw [hok] at hdone
    exact hdone
  · refine ⟨_, onRun_pkt h (List.mem_singleton.2 rfl) {} Dev.opRouteSet, (s.dev.opRouteSet_data p).kept, ?_⟩
    rw [Dev.opRouteSet_hidden hhid, Dev.close_lnk]
    exact ⟨doneWith_close h.here rfl sBadParam 0, rfl⟩
  · subst hq
    have hop := Dev.opRemoteAtomic_eq (e := e) hleaf hspace hwait
    rw [← hd1] at hop
    have hd1f : d1.flight = s.dev.flight := hd1 ▸ (d.drainQueue_flight e p.q).trans hflight
    have hkept := (hdata.trans (d.opRemoteAtomic_data p e)).kept
    refine ⟨fun hpend => ?_, fun hloc hpend hidle r hr => ?_, fun hloc hpend hnode hquiet => ?_⟩
    · rw [hatomic h, hop]
      simp only [hpend, if_true]
    · simp only [hpend, hloc, ← hr, Bool.false_eq_true, if_false, if_true] at hop
      have hx : r.1.flight = s.dev.flight := by
        rw [hr]
        exact (d1.atomicAt_flight _ _ _ _ _ _).trans hd1f
      have hnowait : 0x03#8 ∉ s.dev.opcs := fun hmem => by
        obtain ⟨y, hy, hopc⟩ := List.mem_map.1 hmem
        exact hidle y hy hopc
      obtain ⟨p', hp', hdone, hres⟩ := Dev.atomic_done h.here (by rw [h.opc]; decide) hnowait hx r.2.1 r.2.2 [(d.canon a, if bit (p.word 4) 4 then 8 else 4)] e (d.canon a)
      exact ⟨_, p', hatomic h, hkept, by rw [hop]; exact hp', hdone, hres⟩
    · have hnode1 : d1.sys.node.toNat ≠ 0xFF := by
        rw [Dev.node_of_flight (hd1f.trans hflight.symm)]
        exact fun heq => hnode (BitVec.eq_of_toNat_eq heq)
      obtain ⟨y, hy, hbare⟩ := Dev.pkt?_of_flight hd1f h.here
      have hord : y.ord = p.ord := (congrArg Pkt.ord hbare :)
      have hphase : y.phase = p.phase := (congrArg Pkt.phase hbare :)
      simp only [hpend, hloc, Bool.false_eq_true, if_false, beq_iff_eq, hnode1] at hop
      replace hop := hop.trans (Dev.sendAll_quiet hquiet)
      obtain ⟨r', hrids, hr3, hrnode, hrtracked, hrsent, -, hmem, -⟩ := (d1.modPkt p.ord (fun y => { y with waitRid := 1 })).request_enters (p.atomicRid (d.canon a))
      refine ⟨_, { y with waitRid := 1 }, r', hatomic h, hkept, ?_, hphase.trans h.started, Nat.one_ne_zero, ?_⟩
      · rw [hop]
        exact hord ▸ Dev.modPkt_pkt hy (fun _ => rfl) (fun _ => rfl)
      · rw [hop]
        exact ⟨hrids, hr3, hrnode, hrtracked, hrsent, hmem⟩
  · subst hq htag
    have hop := Dev.opSend_enters hjob hnote hok hr hread rfl
    obtain ⟨hlen, hsends, hq⟩ := Dev.enterSegments_enters p (d.segments p) { r.d with disp := { r.d.disp with sends := r.d.disp.sends ++
      [{ q := p.q, tag := p.tag, left := (d.segments p).length, corr := r.st == sCorrected, notify := 0 }] } } r.bytes
    rw [Dev.sendAll_quiet (hq.trans hquiet)] at hop
    refine ⟨_, { q := p.q, tag := p.tag, left := (d.segments p).length, corr := r.st == sCorrected, notify := 0 }, hsend h, (hdata.trans (d.opSend_data p e)).kept, ?_,
      rfl, rfl, rfl, rfl, ?_, ?_⟩
    · rw [hop, hsends]
    · rw [hop, hlen]
    · rw [hop, hsends]
  · subst hq htag
    obtain ⟨g, rest, hsegs, hloc⟩ := hfirst
    have hop := Dev.opSend_local (e := e) hjob hsegs hloc
    refine ⟨_, hsend h, (hdata.trans (d.opSend_data p e)).kept, ?_⟩
    have hlnk : d.lnk = s.dev.lnk := hd ▸ (congrArg (·.lnk) (s.dev.meet_besideCounts e (some (qOwner p.q))))
    rw [hop, Dev.close_lnk, hlnk]
    refine ⟨doneWith_close ((Dev.pkt?_congr hdisp _ _).trans h.here) rfl sBadParam 0, ?_, rfl⟩
    rw [Dev.close_sends, hdisp]

end Sys2Proof.Machine
end

section
/-!
Thermal supervision: the scan, STOP records and the host source (17 R366-R381).
-/
namespace Sys2Proof.Machine

/-! The time of the last scan. -/

/-- What every operation of the units keeps: the time of the last scan. -/
def scanWorks : AbortWorks where
  On d x := x.time.scanAt = d.time.scanAt
  acc := Reads.accesses {
    trans := fun h g => g.trans h
    berth := fun h => congrArg (·.1.2.1) h
    regBytes := fun d o off n => congrArg (·.2.1) (d.regBytes_flight o off n) }
  rest h := congrArg (·.2.2.2.2.2.2.2.2.2.2.2.2.1) h
  putBytes _ _ _ := rfl
  endHold d e k := congrArg (·.1.2.1) (d.endHold_berth e k)
  releaseHeld d e := congrArg (·.1.2.1) (d.releaseHeld_berth e)
  setQueue _ _ _ := rfl
  setWaits _ _ _ := rfl
  logKpm _ _ _ desc := by cases desc <;> rfl

theorem Dev.cancelPkt_scanAt (d : Dev) (e : Env) (st : BitVec 16) (p : Pkt) : (d.cancelPkt e st p).time.scanAt = d.time.scanAt :=
  Dev.cancelPkt_on (W := scanWorks.toQueueWorks) d e st p

theorem Dev.countAborted_scanAt (d : Dev) (q : QRef) (n : Nat) : (d.countAborted q n).time.scanAt = d.time.scanAt :=
  Dev.countAborted_on (W := scanWorks.toQueueWorks) d q n

/-! A domain scanned. -/

/-- What the scan of a domain leaves to the scan itself, or alone. -/
def Dev.scanPart (d : Dev) : Fuses × FC × BitVec 4 × BitVec 16 × Bool × Nat := (d.fuse, d.fc, d.thm.facLvl, d.pwr.capW, d.pwr.shed0, d.time.scanAt)

theorem Dev.scanPart_of_work {d x : Dev} (h : QueueStep d x) (g : x.time.scanAt = d.time.scanAt) : x.scanPart = d.scanPart := by
  have hapart := h.apart
  simp only [Dev.apart, Prod.mk.injEq] at hapart
  obtain ⟨hfuse, hfc, hthm, -, hcap, hshed⟩ := hapart
  rw [Dev.scanPart, Dev.scanPart, hfuse, hfc, hthm, hcap, hshed, g]

theorem Dev.beginStop_scanPart (d : Dev) (e : Env) (n c : Nat) (scan : List ClassScan) (sens : List (Nat × Sensor)) : (d.beginStop e n c scan sens).scanPart = d.scanPart := by
  unfold Dev.beginStop
  extract_lets t trig x rec0 y src z hit u act v w y2 src2
  have hz : z.scanPart = d.scanPart := Dev.ite_part Dev.scanPart rfl rfl
  have hu : u.scanPart = z.scanPart :=
    foldl_leaves Dev.scanPart _ (fun x p => Dev.scanPart_of_work (x.runKpm_data p e).work (Dev.runKpm_on (W := scanWorks.kpm) x p e)) _ z
  have hv : v.scanPart = u.scanPart := foldl_leaves Dev.scanPart _ (fun x p => Dev.scanPart_of_work
    ((x.cancelPkt_work e sThermalStop p).trans (Dev.countAborted_work _ p.q 1)) ((Dev.countAborted_scanAt _ p.q 1).trans (x.cancelPkt_scanAt e sThermalStop p))) _ u
  have hw : w.scanPart = v.scanPart :=
    foldl_leaves Dev.scanPart _ (fun x k => Dev.scanPart_of_work (x.drain_data e _).work (congrArg (·.2.1) (x.drain_flight e _))) _ v
  have hx : w.scanPart = d.scanPart := ((hw.trans hv).trans hu).trans hz
  clear_value w
  exact Eq.trans rfl hx

theorem Dev.scanDom_scanPart (d : Dev) (r : ScanEnv) (e : Env) (n : Nat) : (d.scanDom r e n).scanPart = d.scanPart := by
  unfold Dev.scanDom
  extract_lets cs fresh new sus brk x scan target th free th' src y z u v
  have hv : v.scanPart = d.scanPart :=
    (foldl_leaves Dev.scanPart _ (fun y (s : ClassScan) => foldl_leaves Dev.scanPart (fun y k => y.sendCrossing n s k) (fun _ _ => rfl) s.cross y) scan u).trans rfl
  clear_value v
  split
  · rfl
  · split
    · exact (v.beginStop_scanPart _ _ _ _ _).trans hv
    · exact hv

/-! The scan. -/

theorem facNext_le {lvl : Nat} (h : lvl ≤ 15) (p cap : Nat) (shed0 : Bool) : facNext lvl p cap shed0 ≤ 15 := by
  unfold facNext
  split
  · omega
  split
  · omega
  split
  · omega
  split
  · omega
  · exact h

/-- A scan that runs: timed from the one before it, it moves the facility level by the estimate and the cap. -/
theorem Dev.scan_runs {d : Dev} (hrun : d.time.running = true) (r : ScanEnv) (e : Env) : (d.scan r e).thm.pEst.toNat = min ((104 * r.power + 50) / 100) 65535 ∧
    (d.scan r e).thm.facLvl.toNat = facNext d.thm.facLvl.toNat (min ((104 * r.power + 50) / 100) 65535) d.pwr.capW.toNat d.pwr.shed0 ∧
    (d.scan r e).time.scanAt = max d.time.base (d.time.scanAt + ms) % 2 ^ 64 ∧ (d.scan r e).fuse = d.fuse ∧ (d.scan r e).fc = d.fc := by
  unfold Dev.scan
  rw [if_neg (by simp [hrun])]
  extract_lets x src y z p src2
  have hx : x = { d with time := { d.time with base := max d.time.base (d.time.scanAt + ms) % 2 ^ 64 } } := if_pos hrun
  have hy : y.scanPart = (d.fuse, d.fc, d.thm.facLvl, d.pwr.capW, d.pwr.shed0, max d.time.base (d.time.scanAt + ms) % 2 ^ 64) := by
    dsimp only [y, src]
    rw [hx]
    rfl
  have hctl : y.applyThmCtl.scanPart = y.scanPart := Dev.ite_part Dev.scanPart rfl rfl
  have hz : z.scanPart = _ := (foldl_leaves Dev.scanPart _ (fun d n => d.scanDom_scanPart r e n) (List.range 6) y.applyThmCtl).trans (hctl.trans hy)
  clear_value z
  simp only [Dev.scanPart, Prod.mk.injEq] at hz
  obtain ⟨hfuse, hfc, hlvl, hcap, hshed, hat⟩ := hz
  have hp : p < 2 ^ 16 := by
    have := Nat.min_le_right ((104 * r.power + 50) / 100) 65535
    omega
  refine ⟨?_, ?_, hat, hfuse, hfc⟩
  · exact (BitVec.toNat_ofNat _ _).trans (Nat.mod_eq_of_lt hp)
  · have hle := facNext_le (Nat.le_of_lt_succ d.thm.facLvl.isLt) p d.pwr.capW.toNat d.pwr.shed0
    rw [← hlvl, ← hcap, ← hshed] at hle ⊢
    exact (BitVec.toNat_ofNat _ _).trans (Nat.mod_eq_of_lt (by omega))

theorem not_mem_code {b w : Bool} {k x y : Nat} (hx : k ≠ x) (hy : k ≠ y) : k ∉ (if b = true then [if w = true then x else y] else []) := by
  cases b <;> cases w <;> simp [hx, hy]

/-- A class of readings at or above STOP, and one below its exit. -/
theorem scanClass_bounds (y : Domain) {c : Nat} (hc : c < 4) (t : Int) :
    (stopAt c ≤ t → (scanClass y c t).demand = 15 ∧ 0x83 ∈ (scanClass y c t).cross ∧ (scanClass y c t).eng = true ∧ (scanClass y c t).warn = true) ∧
      (t < exitAt c → (scanClass y c t).demand = 0 ∧ (scanClass y c t).eng = false ∧ 0x83 ∉ (scanClass y c t).cross) := by
  have horder : warnAt c ≤ enterAt c ∧ exitAt c < enterAt c ∧ enterAt c < stopAt c := by
    match c, hc with
    | 0, _ | 1, _ | 2, _ | 3, _ => decide
  obtain ⟨hwarn, hexit, hstop⟩ := horder
  refine ⟨fun ht => ?_, fun ht => ?_⟩
  · have hdem : 14 ≤ (t - enterAt c) * 14 / (stopAt c - enterAt c) := Int.le_ediv_of_mul_le (by omega) (by omega)
    have hw : warnAt c ≤ t := by omega
    have hn : enterAt c ≤ t := by omega
    simp only [scanClass, hw, hn, ht, if_true, List.mem_append, List.mem_singleton, or_true, and_self, and_true]
    omega
  · have hn : ¬enterAt c ≤ t := by omega
    have hz : ¬stopAt c ≤ t := by omega
    refine ⟨?_, ?_, ?_⟩
    · simp [scanClass, hn, ht, b2n]
    · simp [scanClass, hn, ht]
    · simp only [scanClass, hn, ht, hz, if_true, if_false, List.append_nil, List.mem_append, not_or]
      exact ⟨not_mem_code (by decide) (by decide), not_mem_code (by decide) (by decide)⟩

/-! A STOP record. -/

theorem Dev.sendRecord_thm (d : Dev) (typ : Byte) (r : List Byte) : ((d.sendRecord typ r).thm, (d.sendRecord typ r).fc) = (d.thm, d.fc) :=
  foldl_leaves (fun x : Dev => (x.thm, x.fc)) (fun d i => d.supSend typ ([BitVec.ofNat 8 (16 * i + (chunks 11 r).length)] ++ (chunks 11 r).getD i []))
    (fun _ _ => rfl) (List.range (chunks 11 r).length) d

/-- What a STOP record leaves: the record is written, and but for domain 5 its domain's rails are off. -/
theorem Dev.writeStop_writes {d : Dev} {n : Nat} (hstop : (d.dom n).stopping = true) (hnew : (d.dom n).srec.written = false) (e : Env) :
    ((d.writeStop e n).dom n).srec.written = true ∧ ((d.writeStop e n).dom n).srec.bytes = d.stopRecord n ∧ (n ≠ 5 → (d.writeStop e n).stopped n = true) ∧
      (d.writeStop e n).thm.evt.getLsbD 2 = true ∧ (d.writeStop e n).fc = d.fc := by
  unfold Dev.writeStop
  rw [if_neg (by simp [hstop, hnew])]
  extract_lets b src y
  have hy : (y.thm, y.fc) = (((d.setDom n { d.dom n with srec := { (d.dom n).srec with bytes := b, written := true } }).raiseThm 4).thm, d.fc) := Dev.sendRecord_thm _ _ _
  obtain ⟨hthm, hfc⟩ := Prod.mk.inj hy
  clear_value y
  have hdom : y.dom n = { d.dom n with srec := { (d.dom n).srec with bytes := b, written := true } } := by
    rw [Dev.dom, hthm]
    exact tget_tset_same _ _ _ _
  have hevt : y.thm.evt.getLsbD 2 = true := by
    rw [hthm]
    simp [Dev.raiseThm]
  split
  · next h5 => exact ⟨by rw [hdom], by rw [hdom], fun hn => absurd (beq_iff_eq.1 h5) hn, hevt, hfc⟩
  · have hoff := (y.domainOff_work e n).apart
    simp only [Dev.apart, Prod.mk.injEq] at hoff
    obtain ⟨-, hofc, hothm, -⟩ := hoff
    have hodom : (y.domainOff e n).dom n = { y.dom n with st := 3 } := by
      rw [Dev.dom, hothm]
      exact tget_tset_same _ _ _ _
    refine ⟨?_, ?_, fun _ => ?_, ?_, hofc.trans hfc⟩
    · rw [hodom, hdom]
    · rw [hodom, hdom]
    · rw [Dev.stopped, hodom]
      rfl
    · rw [hothm]
      exact hevt

/-- The low bits of a written word, taken into a register. -/
theorem ofNat_bf_low (v : BitVec 32) : BitVec.ofNat 4 (bf v.toNat 3 0) = v.setWidth 4 := by
  apply BitVec.eq_of_toNat_eq
  rw [BitVec.toNat_ofNat, BitVec.toNat_setWidth, bf_eq, Nat.pow_zero, Nat.div_one, Nat.mod_mod]

/-- Settles O50: every step of a scan leaves alone what the scan itself reads and sets; rails that go off leave the domain's record. -/
theorem thermalSupervision : Obligations.ThermalSupervision := by
  intro s e
  refine ⟨fun r halive => ⟨fun hstill => ?_, fun hrun => ?_⟩, fun y c t hc => scanClass_bounds y hc t, fun n halive => ⟨fun hstop hnew => ?_, fun hdone => ?_⟩,
    fun fn n v t hok ht => ⟨fun hmay hin => ?_, fun hnot => ?_⟩⟩
  · exact (onRun_on s e (fun d => (d.applyEnv e).scan r e) halive).trans (next_congr s (congrArg (fun x : Dev => x.flushRegs e) (if_pos ((Bool.not_eq_true' _).mpr hstill))))
  · exact ⟨_, onRun_on s e (fun d => (d.applyEnv e).scan r e) halive, Dev.scan_runs (d := s.dev.applyEnv e) hrun r e⟩
  · exact ⟨_, onRun_on s e (fun d => (d.applyEnv e).writeStop e n.val) halive, Dev.writeStop_writes (d := s.dev.applyEnv e) hstop hnew e⟩
  · refine (onRun_on s e (fun d => (d.applyEnv e).writeStop e n.val) halive).trans (next_congr s (congrArg (fun x : Dev => x.flushRegs e) (if_pos ?_)))
    rcases hdone with h | h
    · exact (Bool.or_eq_true ..).mpr (.inl ((Bool.not_eq_true' _).mpr h))
    · exact (Bool.or_eq_true ..).mpr (.inr h)
  · subst ht
    refine (onHost_ok s fn {} (fun d => d.wrEscReq (fnOwner fn) n.val v.toNat) hok).trans (next_congr s (congrArg (fun x : Dev => x.flushRegs {}) ?_))
    unfold Dev.wrEscReq Dev.hostReq
    rw [if_pos (by simp [hmay, hin]), ofNat_bf_low v, bit_toNat v]
  · subst ht
    refine (onHost_ok s fn {} (fun d => d.wrEscReq (fnOwner fn) n.val v.toNat) hok).trans (next_congr s (congrArg (fun x : Dev => x.flushRegs {}) (if_neg ?_)))
    rcases hnot with h | h <;> simp [h]

end Sys2Proof.Machine
end


section
/-!
What register writes of units leave alone while no queue is written (21 R436): the last event that a KPM logged.
-/
namespace Sys2Proof.Machine

theorem tset_ne_nil {α : Type} (t : Tbl α) (k : Nat) (v : α) : tset t k v ≠ [] := by
  unfold tset
  split
  · exact List.cons_ne_nil _ _
  split
  · exact List.cons_ne_nil _ _
  split
  · exact List.cons_ne_nil _ _
  · exact List.cons_ne_nil _ _

/-! A queue that was written stays in the table of queues. -/

/-- Where x's table of queues is empty, d's is. -/
def QueuesStay (d x : Dev) : Prop := x.queues = [] → d.queues = []

theorem QueuesStay.of_eq {d x : Dev} (h : x.queues = d.queues) : QueuesStay d x := fun hx => h ▸ hx

theorem Dev.setQueue_queues_ne (d : Dev) (q : QRef) (x : Queue) : (d.setQueue q x).queues ≠ [] := tset_ne_nil _ _ _

theorem Dev.qRc_queuesStay (d : Dev) (k o : Nat) : QueuesStay d (d.qRc k o) :=
  ite_step (fun h => absurd h (tset_ne_nil _ _ _)) (ite_step (fun h => absurd h (tset_ne_nil _ _ _)) id)

theorem Dev.strideRc_queuesStay (d : Dev) (p o : Nat) : QueuesStay d (d.strideRc p o) := by
  unfold Dev.strideRc
  dsimp only
  split
  · exact id
  split
  · exact .of_eq rfl
  · exact .of_eq rfl
  · exact .of_eq rfl
  split
  · exact d.qRc_queuesStay _ _
  · exact id

/-- The reads of registers with an effect on anything but queues. -/
theorem Dev.regSide_queuesStay (d : Dev) (fn : Fn) (off : Nat) : QueuesStay d (d.regSide fn off) := by
  have keep {x y : Dev} {c : Prop} [Decidable c] (hx : x.queues = d.queues) (hy : y.queues = d.queues) : QueuesStay d (if c then x else y) :=
    ite_step (.of_eq hx) (.of_eq hy)
  unfold Dev.regSide
  refine ite_step id (ite_step (.of_eq rfl) (ite_step (.of_eq rfl) (ite_step (.of_eq rfl) (ite_step ?_ (ite_step (d.strideRc_queuesStay _ _)
    (ite_step ?_ (ite_step ?_ (ite_step ?_ (ite_step ?_ (ite_step ?_ (ite_step ?_ id)))))))))))
  · split
    · exact d.qRc_queuesStay _ _
    · exact id
  · split
    · exact keep rfl rfl
    · exact id
  · split
    · exact ite_step (.of_eq rfl) (keep rfl rfl)
    · exact id
  · split
    · exact ite_step (.of_eq rfl) (ite_step (.of_eq rfl) (keep rfl rfl))
    · exact id
  · split
    · exact keep rfl rfl
    · exact id
  · refine ite_step (.of_eq rfl) ?_
    split
    · exact .of_eq rfl
    · exact id
  · refine ite_step (.of_eq rfl) ?_
    split
    · exact .of_eq rfl
    split
    · exact .of_eq rfl
    · exact id

theorem Dev.regBytes_queuesStay (d : Dev) (o : Option Nat) (off n : Nat) : QueuesStay d (d.regBytes o off n).1 := by
  have fold (l : List Nat) (f : Dev × List Byte → Nat → Dev × List Byte) (hf : ∀ y s, QueuesStay y.1 (f y s).1) : ∀ y, QueuesStay y.1 (l.foldl f y).1 := by
    induction l with
    | nil => exact fun _ => id
    | cons s l ih => exact fun y h => hf y s (ih _ h)
  unfold Dev.regBytes
  refine fold _ _ (fun y s => ?_) (d, [])
  dsimp only
  split
  · exact id
  · exact Dev.regSide_queuesStay _ _ _

/-- Of work on queues and packets: a queue that was written stays in the table. -/
def queuesWorks : AbortWorks where
  On := QueuesStay
  acc := Reads.accesses {
    trans := fun h g => h ∘ g
    berth := fun h => .of_eq (congrArg Prod.snd h)
    regBytes := fun d o off n => d.regBytes_queuesStay o off n }
  rest h := .of_eq (congrArg (·.2.2.2.2.2.2.2.2.1) h)
  putBytes _ _ _ := .of_eq rfl
  endHold d e k := .of_eq (congrArg Prod.snd (d.endHold_berth e k))
  releaseHeld d e := .of_eq (congrArg Prod.snd (d.releaseHeld_berth e))
  setQueue d q x := fun h => absurd h (d.setQueue_queues_ne q x)
  setWaits _ _ _ := .of_eq rfl
  logKpm _ _ _ desc := .of_eq (by cases desc <;> rfl)

/-- A write of Q_CTL leaves a queue in the table. -/
theorem Dev.wrQctl_queues_ne (d : Dev) (e : Env) (q : QRef) (v : Nat) : (d.wrQctl e q v).queues ≠ [] :=
  fun h => (d.setQueue_queues_ne q _) (Dev.wrQctl_on (W := queuesWorks) d e q v h)

/-! The last event. -/

/-- Where x's table of queues is empty, so is d's, and the last event is the same. -/
def LastStays (d x : Dev) : Prop := x.queues = [] → d.queues = [] ∧ x.kpm.last = d.kpm.last

theorem LastStays.of_eq {d x : Dev} (h : x.queues = d.queues) (g : x.kpm.last = d.kpm.last) : LastStays d x := fun hx => ⟨h ▸ hx, g⟩

theorem LastStays.of_berth {d x : Dev} (h : x.berth = d.berth) : LastStays d x :=
  .of_eq (congrArg Prod.snd h) (congrArg (fun b : Flight × Tbl Queue => b.1.2.2.2.2.2) h)

/-- Of register writes: where none of them writes a queue, no KPM logs an event. -/
def lastWorks : RegWorks where
  On := LastStays
  acc := Reads.accesses {
    trans := fun h g hy => ⟨(h (g hy).1).1, (g hy).2.trans (h (g hy).1).2⟩
    berth := .of_berth
    regBytes := fun d o off n h =>
      ⟨d.regBytes_queuesStay o off n h, congrArg (fun f : Flight => f.2.2.2.2.2) (d.regBytes_flight o off n)⟩ }
  rest h := .of_eq (congrArg (·.2.2.2.2.2.2.2.2.1) h) (congrArg (·.2.2.2.2.2.2.2.2.2.2.2.2.2) h)
  putBytes _ _ _ := .of_eq rfl rfl
  endHold d e k := .of_berth (d.endHold_berth e k)
  releaseHeld d e := .of_berth (d.releaseHeld_berth e)
  setQueue d q x := fun h => absurd h (d.setQueue_queues_ne q x)
  setWaits _ _ _ := .of_eq rfl rfl
  beside h := .of_eq (congrArg (·.2.1) h) (congrArg (·.2.2) h)
  wrQctl d e q v := fun h => absurd h (d.wrQctl_queues_ne e q v)

/-- Register writes that end without a queue in the table logged no event. -/
theorem Dev.flushRegs_last {d : Dev} {e : Env} (h : (d.flushRegs e).queues = []) : (d.flushRegs e).kpm.last = d.kpm.last :=
  (Dev.flushRegs_on (W := lastWorks) d e h).2

/-! KV pages: where the statement on them fails. -/

/-- A packet of management queue 0, with translations that map 1 GiB from 0 to the first GiB of a space. -/
def contestant (space : Nat) (tag : BitVec 16) (opc : BitVec 8) (no : Nat) (words : List (BitVec 64)) (dvas : List (Nat × Nat)) : Pkt :=
  { q := .mgmt 0, tag := tag, opc := opc, ord := no, startNo := no, phase := .started, words := words, dvas := dvas
    leaves := [{ dva := 0, size := 2 ^ 30, dpa := mkDpa space 0, w := true }] }

/-- A KV_FREE of the page whose descriptor lies at 1 MiB. -/
def contestedFree : Pkt := contestant 0 5 0x32 2 [0, 0x100000] []

/-- A pool that serves, with its descriptors from 1 MiB. -/
def contestedPool : Pool := {
  enable := true
  ready := true
  blocks := 4
  owner := 8
  base := BitVec.ofNat 56 (mkDpa 0 0x10000000)
  desc := BitVec.ofNat 56 (mkDpa 0 0x100000) }

/-- A module whose first GiB reads zero, as does that of the host window. An ARBOR_INSERT, with the list of its pages at 4 KiB of the host window, has started before
the KV_FREE. -/
def contested : Dev := {
  pins := { perst := false }
  sys := { fuseLoaded := true, phase := 6, ready := true, node := 7, site := [(0, 1)] }
  hbm := { form := [{ h := 0, pc := 0, inter := 294912 }], stk := [(0, { active := 1 })] }
  mem := (({} : Mem).fill (mkDpa 0 0) (mkDpa 0 (2 ^ 30)) .zero).fill (mkDpa 12 0) (mkDpa 12 (2 ^ 30)) .zero
  kpm := { pools := [(poolKey 0 1, contestedPool)] }
  disp := { pkts := [contestant 12 6 0x36 1 [0, 0, 0, 0x1000] [(0x1000, 8)], contestedFree] } }

/-- The host writes the descriptor of the KV_FREE into that list. -/
def contesting : Env := { cells := (leBytes 8 (mkDpa 0 0x100000)).zipIdx.map (fun b => (mkDpa 12 (0x1000 + b.2), b.1)) }

/-- The module that the KV_FREE meets. -/
def contestedMeet : Dev := contested.meet contesting (some 8)

theorem contested_runs : Runs contested (.mgmt 0) 5 0x32 contestedFree :=
  ⟨by decide +kernel, by decide +kernel, rfl, rfl, rfl, by decide +kernel⟩

/-- It names a page that no reference holds. -/
theorem contested_names : Names contestedMeet contestedFree contesting (poolKey 0 1) {} :=
  ⟨by decide +kernel, by decide +kernel, by decide +kernel, by decide +kernel⟩

/-- It waits for its turn, and does nothing. -/
theorem contested_waits : exec (.kvFree (.mgmt 0) 5 contesting) { dev := contested, pending := [] } = .next { dev := contestedMeet, pending := [] } := by
  have hturn : contestedMeet.descTurn contestedFree = false := by decide +kernel
  have hhere : contestedMeet.pkt? (.mgmt 0) 5 = some contestedFree := by decide +kernel
  have hstay : contestedMeet.onPkt [0x32] (.mgmt 0) 5 (fun d p => Dev.conclude p (d.opFree p contesting)) = contestedMeet := by
    unfold Dev.onPkt
    rw [hhere]
    dsimp only
    rw [hturn, Bool.and_false]
    rfl
  have hflush : contestedMeet.flushRegs contesting = contestedMeet := contestedMeet.flushRegs_nil contesting (by decide +kernel)
  refine (onRun_on { dev := contested, pending := [] } contesting (fun d => (d.meet contesting (some 8)).onPkt [0x32] (.mgmt 0) 5
    (fun d p => Dev.conclude p (d.opFree p contesting))) contested_runs.up).trans (next_congr { dev := contested, pending := [] } ?_)
  exact (congrArg (Dev.flushRegs · contesting) hstay).trans hflush

/-- Refutes O43: whether it is a packet's turn on its page is judged again once the world outside has acted, and bytes that the host wrote into the list of an ARBOR_INSERT
that started before make that packet one on the same page. A KV_FREE of a free page then waits and logs nothing, whatever the state before the register writes. -/
theorem not_kvPages : ¬ Obligations.KvPages := by
  intro h
  obtain ⟨hfree, -⟩ := (h { dev := contested, pending := [] } (.mgmt 0) 5 contesting contestedFree contestedMeet rfl rfl).2 (poolKey 0 1) {} contested_names
  obtain ⟨x, hx, -, -, hlast, -⟩ := hfree contested_runs rfl
  have hstate := Host.Outcome.next.inj (contested_waits.symm.trans hx)
  have hdev : contestedMeet = x.flushRegs contesting := congrArg State.dev hstate
  have hkept : (x.flushRegs contesting).kpm.last = x.kpm.last := Dev.flushRegs_last (hdev ▸ (by decide +kernel : contestedMeet.queues = []))
  have hzero : contestedMeet.kpm.last ≠ BitVec.ofNat 56 (contestedMeet.canon contestedFree.descA) := by decide +kernel
  exact hzero ((congrArg (fun d : Dev => d.kpm.last) hdev).trans (hkept.trans hlast))

end Sys2Proof.Machine
end
